-- ==== Sys2Proof/Word.lean ====
section
/-!
DEFINITION. Word.lean: the word types of the package (R5, R57): a byte, a 64-bit register word, a 64-byte command
packet (R76) and a 128-byte fabric flit.
-/
namespace Sys2Proof

/-- One byte of memory. -/
abbrev Byte := BitVec 8
/-- One 64-bit register or table word (R525). -/
abbrev Word := BitVec 64
/-- One 64-byte command packet, byte 0 in the low bits (R5, R76). -/
abbrev Packet := BitVec 512
/-- One 128-byte flit, byte 0 in the low bits. -/
abbrev Flit := BitVec 1024

end Sys2Proof
end

