-- ==== Sys2Proof/Syntax.lean ====
section
/-!
DEFINITION. Syntax.lean: the commands the package takes from outside, one constructor of `Instr` per row of the table of
operations and events, and the small operand types their rows need.
-/
namespace Sys2Proof

/-- Who makes a register access (R525): a job hart, the host or a job queue; Myeles; the F-die controller; a management
queue. -/
inductive Agent where
  | job | myeles | fdie | mgmtQueue
  deriving DecidableEq, Repr

/-- A frame geometry in 10 ns units (R34, R37, R38, R64). -/
structure Geometry where
  period : Nat
  slackStart : Nat
  exchStart : Nat
  slotLen : Nat
  slotCount : Nat
  deriving DecidableEq, Repr

/-- What a peer declares when a link trains (R291). -/
structure Identity where
  node : Nat
  port : Nat
  dims : Nat
  role : Nat
  dim : Nat
  deriving DecidableEq, Repr

/-- What a member learns of the root's frames (R62): pod time in ns of a coming tick, its frame number, the geometry. -/
structure RootTick where
  tick : Nat
  frame : Nat
  geo : Geometry
  deriving DecidableEq, Repr

/-- Lands sampled when reset ends (R510): TEST_HOLD, PE0_ROOT, PE1_ROOT. -/
structure Pins where
  testHold : Bool
  root0 : Bool
  root1 : Bool
  deriving DecidableEq, Repr

/-- A Bridle heartbeat (R56, R396, R398): sender, its mode (0 normal, 1 tether, 2 without P-die) and boot count, with the
suspicions Bridle carries as (node, neighbour) and the boot counts heard of listed nodes as (node, neighbour, boot count). -/
structure Heartbeat where
  node : Nat
  mode : Nat
  boots : Nat
  suspects : List (Nat × Nat)
  back : List (Nat × Nat × Nat)
  deriving DecidableEq, Repr

/-- A twin's pairing record (R393): node, touchmark, boot count, rsize, replica_en, M_TWINCFG.mixed, and the step registers of
the sender with the generation that is its newest. -/
structure PairRec where
  node : Nat
  tm : Nat
  boots : Nat
  rsize : Nat
  replicaEn : Bool
  mixed : Bool
  held : Nat
  prev : Nat
  mine : Nat
  genNew : Nat
  deriving DecidableEq, Repr

/-- A launch record on its way down the tree, or its acknowledgement (R403, R404): epoch, deadline frame, subcube, the place in the
tree the receiver takes and its current span, the nodes left out, and the rest of its bytes. -/
structure LaunchRec where
  ack : Bool
  epoch : Nat
  deadline : Nat
  base : Nat
  span : Nat
  place : Nat
  left : Nat
  out : List Nat
  rest : List Byte
  deriving DecidableEq, Repr

/-- The fields of an HLV instruction that its operation leaves open (R256): width code, vd, vs1, vs2, pg, and whether it has the
vector-scalar opcode 0x5B in place of 0x0B. -/
structure VOp where
  w : BitVec 3
  vd : BitVec 5
  vs1 : BitVec 5
  vs2 : BitVec 5
  pg : BitVec 3
  scalar : Bool
  deriving DecidableEq, Repr

/-- A scalar memory operation of a hart (R225): integer loads, signed or not, and stores, floating-point loads and stores, LR,
SC, and the read-modify-write operations of the A extension. -/
inductive ScalarOp where
  | load | loadU | store | fload | fstore | lr | sc
  | swap | add | xor | and | or | min | max | minu | maxu
  deriving DecidableEq, Repr

/-- A scalar memory access of a hart (R227, R235): operation, log2 of its size in bytes, registers and offset. -/
structure ScalarMem where
  op : ScalarOp
  size : BitVec 2
  rd : BitVec 5
  rs1 : BitVec 5
  rs2 : BitVec 5
  imm : BitVec 12
  deriving DecidableEq, Repr

/-- An inbound PCIe access (R517): the BAR or DMA, the offset, the bytes written (none: a read of `len` bytes). -/
structure Inbound where
  bar : Option Nat
  off : Nat
  len : Nat
  data : Option (List Byte)
  deriving DecidableEq, Repr

/-- What a background wipe was wiping (R287). -/
inductive Wipe where
  | far | window (st : Nat) | stack (st : Nat)
  deriving DecidableEq, Repr

/-- The commands of the package: one constructor per row of the table of operations and events. -/
inductive Instr where
  /-- NOP (R79): Sequencer command that does nothing and earns an OK reply. -/
  | nop (q seq : Nat)
  /-- FENCE (R90): Blocks later packets of its queue until earlier replies are written and, for GLOBAL scope, every remote destination has acknowledged. -/
  | fence (q seq : Nat)
  /-- TICKWAIT (R91): Waits until a given cycle of a target frame, or answers LATE at once if that cycle has already passed. -/
  | tickwait (q seq : Nat)
  /-- SIGNAL (R92): After earlier replies are written, atomically adds a value to a semaphore in the rack domain. -/
  | signal (q seq : Nat)
  /-- WAITSEM (R93): Waits until a semaphore meets a GE, EQ or GE_SUB condition, with an optional timeout. -/
  | waitsem (q seq : Nat)
  /-- QDISABLE (R94): Takes a queue or engine toward DISABLED in DRAIN or ABORT mode. -/
  | qdisable (q seq : Nat)
  /-- QENABLE (R94): Enables a queue in RESUME or FLUSH mode, or re-enables an engine. -/
  | qenable (q seq : Nat)
  /-- COPY (R275): Mover copies len bytes between global addresses in the rack domain. -/
  | copy (q seq : Nat)
  /-- GATHER (R98): Fetches indexed elements into a packed destination under the first-fault rule. -/
  | gather (q seq : Nat)
  /-- SCATTER (R98): Writes packed elements to indexed addresses under the first-fault rule. -/
  | scatter (q seq : Nat)
  /-- INVAL (R320): Drops all lines, or a range of lines, from the tile's read cache. -/
  | inval (q seq : Nat)
  /-- MMA (R142): Planish matrix product run in passes, with an optional fused prologue and epilogue. -/
  | mma (q seq : Nat)
  /-- WLOAD (R138): Loads the first slab of a stationary operand into the array and sets the slab tag. -/
  | wload (q seq : Nat)
  /-- VCHAIN (R176): Chaser runs a chain of up to eight element-wise stages over a rows by L matrix. -/
  | vchain (q seq : Nat)
  /-- COMPRESS (R190): Packs the masked elements into a dense output, up to a cap. -/
  | compress (q seq : Nat)
  /-- EXPAND (R191): Writes packed elements back to the masked positions, up to avail. -/
  | expand (q seq : Nat)
  /-- HISTO (R127): Reads, clears or sets the base of a tile exponent histogram at one snapshot cycle. -/
  | histo (q seq : Nat)
  /-- SOLVE (R211): Anvil solves a batch of banded systems in fixed point. -/
  | solve (q seq : Nat)
  /-- FACTOR (R214): Anvil computes dense LU or Cholesky factorisations, with optional solves. -/
  | factor (q seq : Nat)
  /-- ITERATE (R217): Anvil runs a fixed number of Jacobi, Gauss-Seidel or CG iterations. -/
  | iterate (q seq : Nat)
  /-- PUT (R322): Writes local bytes to a global address, with an optional signal after the last byte. -/
  | put (q seq : Nat)
  /-- GET (R323): Reads bytes from a global address into local memory. -/
  | get (q seq : Nat)
  /-- RRED (R324): Adds local elements atomically into remote elements. -/
  | rred (q seq : Nat)
  /-- MCAST (R325): Writes local bytes to the same offset on every node of a set. -/
  | mcast (q seq : Nat)
  /-- RATOM (R326): Performs an atomic operation on one 8-byte word in the rack domain. -/
  | ratom (q seq : Nat)
  /-- SEND (R328): Offers bytes to a queue of another node or to a storage enclosure, to be taken when a RECV matches. -/
  | send (q seq : Nat)
  /-- RECV (R328): Matches an announcement by tag and receives its data into a buffer. -/
  | recv (q seq : Nat)
  /-- COLL (R340): Runs a collective operation (reduction, gather, broadcast or barrier) over a group. -/
  | coll (q seq : Nat)
  /-- COLL_REFORM (R336): Forms, re-forms or dissolves a collective group, agreeing parameters and touchmarks. -/
  | collReform (q seq : Nat)
  /-- COLL_BATCH (R361): Runs up to 64 small ALLREDUCE entries as one collective instance. -/
  | collBatch (q seq : Nat)
  /-- SHARD_SAVE (R417): Writes a snapshot ingot of extents using copy-before-write sessions, sealing it in stages. -/
  | shardSave (q seq : Nat)
  /-- SHARD_LOAD (R422): Checks an ingot and writes the intersections of its extents into the selections. -/
  | shardLoad (q seq : Nat)
  /-- SHARD_VERIFY (R420): Checks the seal, header and digests of an ingot without writing anything. -/
  | shardVerify (q seq : Nat)
  /-- REPLICA_CTL (R428): Opens, arms, disarms or cancels replica sessions toward the twin. -/
  | replicaCtl (q seq : Nat)
  /-- MREAD (R530): Reads words of the control window into a buffer. -/
  | mread (q seq : Nat)
  /-- MWRITE (R530): Writes words from a buffer into the control window, refusing changes to locked RWL fields. -/
  | mwrite (q seq : Nat)
  /-- CFG_COMMIT (R477): Locks RWL fields and/or stores the current configuration into a flash copy. -/
  | cfgCommit (q seq : Nat)
  /-- TRACE_MARK (R501): Records a MARK trace event when tracing is enabled, and answers OK. -/
  | traceMark (q seq : Nat)
  /-- PACKET_ISSUE (R87): Each cycle the sequencer issues the head command of one ready context, chosen by class and round-robin. -/
  | packetIssue (t : Nat)
  /-- SEQUENCE_MISMATCH_TIMEOUT (R74): A slot whose sequence number is still wrong after 2 us answers BAD_PACKET detail 0x0005, and the queue is held. -/
  | sequenceMismatchTimeout (q : Nat)
  /-- COMMAND_COMPLETION (R82): A command ends: its status reply is written, retire advances, and the notify interrupt is raised. -/
  | commandCompletion (q seq : Nat)
  /-- WAITSEM_WAKE (R93): A write to a watched semaphore line re-tests pending WAITSEMs. -/
  | waitsemWake (addr : Nat)
  /-- WAITSEM_TIMEOUT (R93): A WAITSEM whose timeout expires answers ABORTED detail 0x0002. -/
  | waitsemTimeout (q seq : Nat)
  /-- DOORBELL_WRITE (R73): A doorbell value advances tail, is refused as an overflow, or is ignored as stale. -/
  | doorbellWrite (q : Nat) (value : BitVec 16)
  /-- QCTL_ENABLE_RESUME (R97): A write of A_QCTL enables a queue in RESUME mode. -/
  | qctlEnableResume (q : Nat) (by' : Agent)
  /-- QCTL_ENABLE_FLUSH (R97): A write of A_QCTL enables a queue in FLUSH mode. -/
  | qctlEnableFlush (q : Nat) (by' : Agent)
  /-- QCTL_DISABLE_DRAIN (R97): A write of A_QCTL disables a queue in DRAIN mode. -/
  | qctlDisableDrain (q : Nat) (by' : Agent)
  /-- QCTL_DISABLE_ABORT (R97): A write of A_QCTL disables a queue in ABORT mode. -/
  | qctlDisableAbort (q : Nat) (by' : Agent)
  /-- TILEMAP_WRITE (R16): A write of A_TILEMAP is checked and held until the next frame tick, or rejected under R17. -/
  | tilemapWrite (a : Nat) (value : Word) (by' : Agent)
  /-- BRIDLECFG_WRITE (R58): A write of F_BRIDLECFG sets time roles, taking effect at the next tick. -/
  | bridlecfgWrite (value : Word) (by' : Agent)
  /-- BRIDLE_ENABLE (R62): Setting enable ends the current local frame and moves the package toward pod frames. -/
  | bridleEnable (value : Word) (by' : Agent)
  /-- BRIDLE_DISABLE (R62): Clearing enable returns the package to local frames. -/
  | bridleDisable (value : Word) (by' : Agent)
  /-- PLAN_STAGE (R67): The stage bit of F_PLANCTL reads and checks a frame-plan image into the standby bank. -/
  | planStage (withDrop : Bool)
  /-- PLAN_DROP (R67): The drop bit of F_PLANCTL discards the staged plan. -/
  | planDrop (withStage : Bool)
  /-- PLANAPPLY_WRITE (R67): At the root, a write of F_PLANAPPLY arms or disarms a plan apply frame. -/
  | planapplyWrite (frame : Word)
  /-- PLAN_ANNOUNCE (R67): A member receives the root's announced apply frame and geometry and mirrors them. -/
  | planAnnounce (frame : Word) (geo : Geometry)
  /-- PLAN_APPLY (R65): When the apply frame is reached, each node adopts the root geometry and activates its checked plan. -/
  | planApply
  /-- PORT_ENABLE (R297): The enable operation of F_PORTCTL starts training of a port. -/
  | portEnable (p : Nat)
  /-- PORT_DISABLE_DRAIN (R297): The disable DRAIN operation of F_PORTCTL drains a port, then disables it. -/
  | portDisableDrain (p : Nat)
  /-- PORT_DISABLE_ABORT (R297): The disable ABORT operation of F_PORTCTL disables a port at the next flit boundary and re-routes its flits. -/
  | portDisableAbort (p : Nat)
  /-- PORT_TRAINED (R291): Link training completes and the identity check decides whether the port comes up or is miswired. -/
  | portTrained (p lanesUp : Nat) (peer : Identity)
  /-- PORT_TRAIN_TIMEOUT (R297): A port that has not come up within 50 ms becomes failed. -/
  | portTrainTimeout (p : Nat)
  /-- LANE_FAULT (R296): A lane loses lock or fails to correct too often, and is removed so that the port narrows or fails. -/
  | laneFault (p lane : Nat)
  /-- LANE_RETRAIN (R481): Myeles retrains one lane of a port, which leaves and later rejoins at ticks. -/
  | laneRetrain (p lane : Nat)
  /-- PORT_FAIL (R312): A port leaves up other than by DRAIN, and its queued messages are routed again. -/
  | portFail (p : Nat)
  /-- LINK_NOTICE (R297): A peer's link notice makes this end treat the link as down at once. -/
  | linkNotice (p : Nat)
  /-- FLIT_RECEIVE (R301): A receiver accepts a sequenced flit, or discards it and requests a replay. -/
  | flitReceive (p : Nat) (flit : Flit) (fecFailed : Nat)
  /-- REPLAY_REQUEST (R301): A sender resends from the named lseq, and the port fails after eight failures of the same flit. -/
  | replayRequest (p lseq : Nat)
  /-- CREDIT_RETURN (R302): A LINK flit returns buffer credits to the sender. -/
  | creditReturn (p pool n : Nat)
  /-- FLIT_FORWARD (R310): An F-die chooses the next hop of a flit, or drops it as unreachable. -/
  | flitForward (src : Nat)
  /-- MESSAGE_RECEIVE (R306): A destination assembles a message and applies, drops or acknowledges it by its dseq. -/
  | messageReceive (src : Nat)
  /-- ACK_SEND (R307): The destination sends a cumulative ACK at least every 2 us and after every 32 applied messages. -/
  | ackSend (src : Nat)
  /-- ACK_RECEIVE (R307): A source receives an ACK, releases covered messages, and resends on a repeated ACK. -/
  | ackReceive (src : Nat)
  /-- RESEND_TIMEOUT (R307): After 20 us without progress, the source resends every unacknowledged message. -/
  | resendTimeout (dst : Nat)
  /-- MCAST_RESEND (R325): After 20 us without acknowledgement, an MCAST is resent as direct copies to the missing members. -/
  | mcastResend (ident : Nat)
  /-- SEND_ANNOUNCE (R328): A SEND_ANN is received and listed, or refused when the list is full. -/
  | sendAnnounce (src : Nat)
  /-- SEND_ANN_RETRY (R328): A refused announcement is sent again every 10 us. -/
  | sendAnnRetry (q seq : Nat)
  /-- SEND_GO (R328): A matched RECV's SEND_GO starts the data flow of the SEND. -/
  | sendGo (q seq : Nat)
  /-- COLL_STAGE_MESSAGE (R353): A collective stage message is received and added by the port adder, held in the pool, or checked. -/
  | collStageMessage (src : Nat)
  /-- COLL_NOTICE (R356): A failure NOTICE for an instance makes the member answer with its status. -/
  | collNotice (src : Nat)
  /-- COLL_DEADLINE (R357): At the deadline tick, a member still waiting answers GROUP_LATE and sends a notice. -/
  | collDeadline (grp cseq : Nat)
  /-- FORM_MESSAGE (R337): The first REFORM exchange of a group ends its in-flight collectives with GROUP_CHANGED. -/
  | formMessage (src : Nat)
  /-- REFORM_TIMEOUT (R336): A FORM or REFORM whose timeout expires answers UNREACHABLE. -/
  | reformTimeout (q seq : Nat)
  /-- FRAME_TICK (R39): A frame tick starts a new frame; every tick-timed change takes effect in it. -/
  | frameTick
  /-- SLACK_START (R34): The slack window begins, where refresh, Bridle exchanges, heartbeats and the control loops act. -/
  | slackStart
  /-- REFRESH_OWED (R47): A refresh becomes owed at a pod-time multiple, and 512 are forced when the owed count would overflow. -/
  | refreshOwed (st : Nat)
  /-- REFRESH_PAUSE (R48): At each offset k times P in a long frame, the stack pays all owed refresh. -/
  | refreshPause (st : Nat)
  /-- FORCED_REFRESH (R49): A carried refresh is issued at tick plus k times Tf. -/
  | forcedRefresh (st : Nat)
  /-- SLACK_REFRESH_RESUME (R50): A stack's slack refresh proceeds after a bound command's accesses end or 100 us pass. -/
  | slackRefreshResume (st : Nat)
  /-- BRIDLE_TIMESTAMP (R53): Two-way timestamps are exchanged on a link to discipline pod time. -/
  | bridleTimestamp (p : Nat) (residual : BitVec 16) (root : Option RootTick)
  /-- HEARTBEAT (R56): A Bridle heartbeat carrying node, mode and boot count is received on a port. -/
  | heartbeat (p : Nat) (hb : Heartbeat)
  /-- HEARTBEAT_LOST (R56): Missing heartbeats for two frames set the port's bit in F_HBLOST. -/
  | heartbeatLost (p : Nat)
  /-- HOLDOVER_EXPIRY (R55): A member without a path to the root clears locked after 10 ms of holdover. -/
  | holdoverExpiry
  /-- ROOT_TAKEOVER (R55): The backup root takes over after two frames without root heartbeats. -/
  | rootTakeover
  /-- PPS_PULSE (R508): A 1PPS pulse at the root marks a second, setting the origin or disciplining pod time. -/
  | ppsPulse (offNs : Int)
  /-- PPS_LOST (R508): A missing or misplaced pulse clears src_locked and starts holdover. -/
  | ppsLost
  /-- CLK100_LOST (R25): No CLK100 edge for 1 us sends the PLLs into holdover and leads to tether mode. -/
  | clk100Lost
  /-- CLK156_LOST (R26): No CLK156 edge for 1 us sends the SerDes PLLs into holdover. -/
  | clk156Lost
  /-- PDIE_HEARTBEAT (R29): Myeles sends a heartbeat to the F-die controller over the P-F link. -/
  | pdieHeartbeat
  /-- PDIE_HEARTBEAT_LOST (R29): After 1 ms without a heartbeat, the F-die takes the flash and blocks the P-die port. -/
  | pdieHeartbeatLost
  /-- NODE_LOST_DECLARE (R396): A node is declared lost on the evidence of its neighbours or its own tether report. -/
  | nodeLostDeclare (node links : Nat)
  /-- NODE_LOST_ACTION (R397): On a declaration, each package resets dseq state, fails fences and refuses traffic toward the lost node. -/
  | nodeLostAction (node : Nat)
  /-- PAIRING_RECORD (R393): A twin's pairing record is received and decides PAIRED or MISMATCH. -/
  | pairingRecord (src : Nat) (rec' : PairRec)
  /-- UNPAIRED_TIMEOUT (R394): A package not PAIRED 10 s after the wipe becomes UNPAIRED. -/
  | unpairedTimeout
  /-- REPLICA_SESSION_OPEN (R428): An armed replica session opens, or is skipped, at its scheduled tick. -/
  | replicaSessionOpen
  /-- REPLICA_COMPLETE (R395): A replica generation completes when its seal is acknowledged, updating the step registers. -/
  | replicaComplete (src : Nat)
  /-- GRANULE_TAKEN (R280): A granule is staged into a slot, and its held writes proceed. -/
  | granuleTaken (a session granule : Nat)
  /-- LAUNCH_RECORD (R403): A node stores and relays a launch record and acknowledges it to its parent. -/
  | launchRecord (src : Nat) (rec' : LaunchRec)
  /-- LAUNCH_REBROADCAST (R404): At the deadline frame, the root rebroadcasts the launch over a rebuilt tree. -/
  | launchRebroadcast (silent : List Nat)
  /-- TILE_FAULT (R387): A detected tile fault fences the tile within 2 us. -/
  | tileFault (a tile : Nat)
  /-- PSEUDO_CHANNEL_FAULT (R386): A failing pseudo-channel starts retraining, and its accesses wait. -/
  | pseudoChannelFault (st pc : Nat)
  /-- PSEUDO_CHANNEL_RETRAIN_DONE (R386): Retraining succeeds within 40 us, or the channel is marked failed. -/
  | pseudoChannelRetrainDone (st pc : Nat) (ok : Bool)
  /-- SWITCH_PLANE_FAULT (R385): A failed residue check moves all inputs to the standby plane, or leads to tether mode on a second failure. -/
  | switchPlaneFault
  /-- CORE_FAULT (R231): A core with an uncorrectable fault stops and is taken offline. -/
  | coreFault (core : Nat)
  /-- FAR_TIER_PORT_FAIL (R285): A far-tier port that goes down is marked failed, and its accesses answer UNREACHABLE. -/
  | farTierPortFail (port : Nat)
  /-- SENSOR_SAMPLE (R452): A sensor is sampled at its interval. -/
  | sensorSample (sensor : Nat) (value : Word)
  /-- FAST_GUARD (R444): Excess input power over the counted samples holds issue on every A-die until the next tick. -/
  | fastGuard
  /-- SENSOR_RECORD (R455): Readings of selected sensor groups are recorded to the sensor ring at the recording interval. -/
  | sensorRecord
  /-- COUNTER_SAMPLE (R491): A counter sample set is captured at an interval or at a tick. -/
  | counterSample
  /-- TRACE_DRAIN (R496): Staged trace records are written to the region in idle cycles, with GAP records for drops. -/
  | traceDrain
  /-- FRAME_RECORD_WRITE (R380): A frame's record is written within 20 us after the tick that follows the frame's end. -/
  | frameRecordWrite
  /-- CHTABAPPLY_WRITE (R196): Myeles arms a Chaser table switch frame in M_CHTABAPPLY. -/
  | chtabapplyWrite (frame : Word) (by' : Agent)
  /-- CHTAB_SWITCH (R196): At the armed frame, every tile switches to its staged table set, or none does. -/
  | chtabSwitch
  /-- TETHER_REQUEST (R408): A write of M_TETHER.enter requests tether mode at the next tick. -/
  | tetherRequest (by' : Agent)
  /-- DRAIN_DONE (R408): Every replica session open at tether entry has ended. -/
  | drainDone
  /-- POWER_ON (R434): The input reaches 38 V, and the package powers up in sequence. -/
  | powerOn (pins : Pins)
  /-- POWER_FAIL (R435): Input or bus below threshold for 10 us stops everything, writes the ledger and turns the rails off. -/
  | powerFail
  /-- ORDERLY_POWER_DOWN (R436): A write of M_PWRCTL.off enters tether mode, drains, and then turns the rails off. -/
  | orderlyPowerDown (by' : Agent)
  /-- PACKAGE_RESET (R511): PKG_RST_N held low resets the package. -/
  | packageReset (pulse : Nat) (pins : Pins)
  /-- TEST_HOLD_RELEASE (R513): TEST_HOLD falls, and the package runs the power-up from the boot ROM row. -/
  | testHoldRelease
  /-- PCIE_PERST (R515): PERST_N low on an endpoint resets that port's link and configuration space. -/
  | pciePerst (p : Nat)
  /-- BOOT (R462): The boot ROM verifies a slot's image and loads the firmware. -/
  | boot
  /-- BOOT_WATCHDOG (R463): No first heartbeat within 10 s makes the ROM reset the package. -/
  | bootWatchdog
  /-- STACK_WIPE_DONE (R287): The stack wipe completes, local frames begin and doorbells are accepted. -/
  | stackWipeDone
  /-- RECOVERY_GO (R518): The go bit of P_RECOVERY checks a recovery image and writes it to slot A. -/
  | recoveryGo
  /-- ARM_TRIAL (R467): Arms a trial boot of the slot that is not running. -/
  | armTrial (by' : Agent)
  /-- CONFIRM (R467): Makes the running trial slot preferred. -/
  | confirm (by' : Agent)
  /-- CANCEL_TRIAL (R467): Disarms a trial boot. -/
  | cancelTrial (by' : Agent)
  /-- BURN (R467): Blows svn fuse bits up to svn_run when both slots allow it. -/
  | burn (by' : Agent)
  /-- LIVE (R478): Starts a live switch to the other slot, part by part. -/
  | live (by' : Agent)
  /-- FDIE_CONTROLLER_RESTART (R479): The F-die controller restarts while forwarding continues. -/
  | fdieControllerRestart
  /-- AUTH_GO (R473): The go bit of M_AUTHCTL checks a signed request and acts on it. -/
  | authGo (by' : Agent)
  /-- MARGIN_START (R286): The start bit of A_MARGCTL runs an eye-margin test on a stack channel. -/
  | marginStart (a : Nat) (value : Word) (by' : Agent)
  /-- MARGIN_DONE (R286): A margining run completes and its eye maps are written. -/
  | marginDone (a : Nat)
  /-- MEMCFG_APPLY (R482): A change of A_MEMCFG takes effect at a tick after the copy sessions close, and the window is wiped. -/
  | memcfgApply (a : Nat)
  /-- LLCCFG_WRITE (R233): A change of spad_ways completes after the affected ways are written back and zeroed. -/
  | llccfgWrite (value : Word) (by' : Agent)
  /-- MGMT_DATAGRAM (R520): A signed management UDP request is checked and run on a management queue. -/
  | mgmtDatagram (port : Nat) (datagram : List Byte)
  /-- LEDGER_SUMMARY (R484): An hourly summary record is appended to the lifetime ledger. -/
  | ledgerSummary
  /-- REGISTER_WRITE (R7): A write to a register without a row of its own acts by access type. -/
  | registerWrite (off : Nat) (value : Word) (by' : Agent)
  /-- HLVCFG_WRITE (R243): A write of hlvcfg changes overlay or group mode and clears state as specified. -/
  | hlvcfgWrite (h : Nat) (value : Word)
  /-- RISCV_FENCE (R236): A core FENCE with W waits for every earlier remote store to be acknowledged. -/
  | riscvFence (h : Nat) (pw : Bool)
  /-- VSETL (R256): Sets hlvl to min of x[rs1] and VLMAX. -/
  | vsetl (h : Nat) (v : VOp)
  /-- VLD (R252): Loads contiguous vector elements. -/
  | vld (h : Nat) (v : VOp)
  /-- VST (R253): Stores contiguous vector elements, resuming from hlvstart. -/
  | vst (h : Nat) (v : VOp)
  /-- VLDS (R252): Loads strided vector elements. -/
  | vlds (h : Nat) (v : VOp)
  /-- VSTS (R253): Stores strided vector elements. -/
  | vsts (h : Nat) (v : VOp)
  /-- VGATHER (R252): Loads indexed vector elements. -/
  | vgather (h : Nat) (v : VOp)
  /-- VSCATTER (R253): Stores indexed vector elements. -/
  | vscatter (h : Nat) (v : VOp)
  /-- VLDFF (R254): First-fault contiguous load that reports the first faulting element. -/
  | vldff (h : Nat) (v : VOp)
  /-- VGATHERFF (R254): First-fault gather that reports the first faulting element. -/
  | vgatherff (h : Nat) (v : VOp)
  /-- PLD (R256): Loads 256 bytes into a predicate register. -/
  | pld (h : Nat) (v : VOp)
  /-- PST (R256): Stores a predicate register. -/
  | pst (h : Nat) (v : VOp)
  /-- VCMP (R251): Writes a predicate from an element comparison. -/
  | vcmp (h : Nat) (v : VOp)
  /-- PLOGIC (R251): Combines two predicates by a logic operation. -/
  | plogic (h : Nat) (v : VOp)
  /-- SADD (R248): Saturating integer add. -/
  | sadd (h : Nat) (v : VOp)
  /-- SSUB (R248): Saturating integer subtract. -/
  | ssub (h : Nat) (v : VOp)
  /-- SMULR (R248): Rounded, saturating fixed-point multiply. -/
  | smulr (h : Nat) (v : VOp)
  /-- RSHR (R248): Rounding right shift by hlvxrm. -/
  | rshr (h : Nat) (v : VOp)
  /-- SSHL (R248): Saturating left shift. -/
  | sshl (h : Nat) (v : VOp)
  /-- CVT (R249): Converts elements between an HLV width and a format. -/
  | vcvt (h : Nat) (v : VOp)
  /-- PERM (R251): Permutes elements by an index vector. -/
  | vperm (h : Nat) (v : VOp)
  /-- REDSUM (R250): Ordered sum reduction into element 0. -/
  | redsum (h : Nat) (v : VOp)
  /-- REDMAX (R250): Ordered maximum reduction into element 0. -/
  | redmax (h : Nat) (v : VOp)
  /-- REDMIN (R250): Ordered minimum reduction into element 0. -/
  | redmin (h : Nat) (v : VOp)
  /-- ADD (R247): Vector add. -/
  | vadd (h : Nat) (v : VOp)
  /-- SUB (R247): Vector subtract. -/
  | vsub (h : Nat) (v : VOp)
  /-- MUL (R247): Vector multiply. -/
  | vmul (h : Nat) (v : VOp)
  /-- FMA (R247): Vector fused multiply-add. -/
  | vfma (h : Nat) (v : VOp)
  /-- NFMA (R247): Vector negated fused multiply-add. -/
  | vnfma (h : Nat) (v : VOp)
  /-- DIV (R247): Vector floating-point divide. -/
  | vdiv (h : Nat) (v : VOp)
  /-- SQRT (R247): Vector floating-point square root. -/
  | vsqrt (h : Nat) (v : VOp)
  /-- MIN (R247): Vector minimum. -/
  | vmin (h : Nat) (v : VOp)
  /-- MAX (R247): Vector maximum. -/
  | vmax (h : Nat) (v : VOp)
  /-- AND (R248): Vector bitwise AND. -/
  | vand (h : Nat) (v : VOp)
  /-- OR (R248): Vector bitwise OR. -/
  | vor (h : Nat) (v : VOp)
  /-- XOR (R248): Vector bitwise XOR. -/
  | vxor (h : Nat) (v : VOp)
  /-- SHL (R248): Vector wrapping left shift. -/
  | vshl (h : Nat) (v : VOp)
  /-- SRA (R248): Vector arithmetic right shift without rounding. -/
  | vsra (h : Nat) (v : VOp)
  /-- SCALAR_LOAD_STORE (R227): A Phiwista scalar load, store, LR, SC or AMO is performed, faults on misalignment or a lost node, or goes remote as a rack-domain message. -/
  | scalarLoadStore (h : Nat) (m : ScalarMem)
  /-- SCALAR_F_D_WRITE (R242): A scalar F or D instruction writes f_n, which in overlay mode sets bits [63:0] of v_n with NaN-boxing. -/
  | scalarFDWrite (h rd : Nat) (value : Word) (single : Bool)
  /-- INBOUND_ACCESS (R517): An inbound PCIe access through a BAR, or DMA from a device on a root port, reaches memory or is refused with Unsupported Request. -/
  | inboundAccess (p : Nat) (a : Inbound)
  /-- PCIE_LINK_UP (R516): A PCIe port completes training and P_PCIESTAT.up, width, rate and sris are set. -/
  | pcieLinkUp (p width rate : Nat) (sris : Bool)
  /-- PCIE_LINK_DOWN (R516): A PCIe link goes down, and P_PCIESTAT.up clears. -/
  | pcieLinkDown (p : Nat)
  /-- FAR_TIER_PORT_UP (R284): A CXL port's link and device become ready, setting M_FARSTAT.up so that its set contributes to the populated far tier. -/
  | farTierPortUp (port cap : Nat)
  /-- A_DIE_UNCONTAINED_FAULT (R405): Failure of an A-die's HBM3 controllers, ring links or A-F link is detected, leading to tether mode at the next tick with class 0xC. -/
  | aDieUncontainedFault (a : Nat)
  /-- REFERENCE_CLOCK_RETURN (R26): A lost CLK100 or CLK156 reference returns, and its PLLs may relock while the lost bits stay set until Myeles clears them. -/
  | referenceClockReturn (clk156 : Bool)
  /-- IEEE_1588_EVENT_MESSAGE (R54): At a root with an IEEE 1588 source, a grandmaster event message timestamped at the PCS gives the origin or disciplines pod time. -/
  | ieee1588EventMessage (tai : Nat)
  /-- IEEE_1588_SOURCE_LOST (R54): A root loses its IEEE 1588 grandmaster, clears src_locked and holds over on its own oscillator. -/
  | ieee1588SourceLost
  /-- TAP_INSTRUCTION (R521): An instruction shifted into the boundary-scan TAP acts: IDCODE, SAMPLE/PRELOAD, EXTEST under test hold, private instructions under scope 3, or BYPASS. -/
  | tapInstruction (ir : BitVec 8)
  /-- STAGING_SLOT_FREE (R280): A staged granule finishes draining to its destination, its slot comes free, and a write waiting for a slot can proceed. -/
  | stagingSlotFree (a slot : Nat)
  /-- BACKGROUND_WIPE_DONE (R287): The background wipe of the far tier, of a reconfigured window or of a returned stack completes, and M_FARSTAT.wiping clears where it applies. -/
  | backgroundWipeDone (what : Wipe)
  /-- STACK_RETRAIN_DONE (R273): Re-training of a parked or returned stack completes, so that its return takes effect at the next frame tick. -/
  | stackRetrainDone (st : Nat)
  /-- LANE_RETRAIN_DONE (R481): A lane under retraining finishes, so that it rejoins at the next tick, or it fails within 20 ms and is recorded as a lane fault. -/
  | laneRetrainDone (p lane : Nat) (ok : Bool)
  /-- TABLE_SET_STAGE (R193): A Chaser table set is staged into a tile's standby table store and its digest is checked, setting staged_rev and staged_ok. -/
  | tableSetStage (t rev addr len : Nat)
  /-- SLOT_WRITE (R467): Myeles writes an image into the firmware slot that is not running: writing is set, any trial of that slot is cancelled, and the slot fails verification until the write completes. -/
  | slotWrite (addr len off : Nat) (last : Bool)
  /-- DAILY_LEDGER_RECORD (R484): Once a day the ledger owner appends the daily stack-error and lane-margin records. -/
  | dailyLedgerRecord
  deriving DecidableEq, Repr

end Sys2Proof
end

