-- ==== Sys2Proof/Decode.lean ====
section
/-!
DEFINITION. Decode.lean: words that spell commands.
-/
namespace Sys2Proof

/-- The command a word spells by the table's bits. The rows are operations and events of a block, not encoded instructions: none
has bits, so every word is refused (log entry 1). -/
def decodeTableWord (_nbits _w : Nat) : Option Instr := none

end Sys2Proof
end

