-- ==== Sys2Proof/Machine/Bits.lean ====
section
/-!
DEFINITION. Machine/Bits.lean: bit fields, little-endian byte strings (R5), two's complement, and small integer helpers.
-/
namespace Sys2Proof.Machine

/-- Field of `n` bits of `w` from bit `lo` (R4). -/
def bits (w lo n : Nat) : Nat := (w >>> lo) % 2 ^ n

/-- Bit `i` of `w` (R4). -/
def bitAt (w i : Nat) : Bool := bits w i 1 == 1

/-- `w` with its `n`-bit field at `lo` replaced by `v`. -/
def putBits (w lo n v : Nat) : Nat := w - (bits w lo n) <<< lo + (v % 2 ^ n) <<< lo

/-- The `n`-bit pattern `v` as a two's-complement integer. -/
def sext (n v : Nat) : Int := if 2 * (v % 2 ^ n) < 2 ^ n then ((v % 2 ^ n : Nat) : Int) else ((v % 2 ^ n : Nat) : Int) - 2 ^ n

/-- The `n`-bit two's-complement pattern of `x`, wrapped. -/
def wrapBits (n : Nat) (x : Int) : Nat := (x % (2 ^ n : Int)).toNat

/-- A truth value as 0 or 1. -/
def b2n (b : Bool) : Nat := if b then 1 else 0

/-- Field of a register word. -/
def wbits (w : Word) (lo n : Nat) : Nat := bits w.toNat lo n

/-- Bit of a register word. -/
def wbit (w : Word) (i : Nat) : Bool := bitAt w.toNat i

/-- Register word with one field replaced. -/
def wput (w : Word) (lo n v : Nat) : Word := BitVec.ofNat 64 (putBits w.toNat lo n v)

/-- Field of `len` bytes of a packet from byte `at'` (R5, R76). -/
def pbytes (p : Packet) (at' len : Nat) : Nat := bits p.toNat (8 * at') (8 * len)

/-- Field of `n` bits of a packet: bit `lo` of byte `at'`. -/
def pbits (p : Packet) (at' lo n : Nat) : Nat := bits p.toNat (8 * at' + lo) n

/-- Little-endian bytes of a number (R5). -/
def bytesOf : Nat → Nat → List Byte
  | 0, _ => []
  | n + 1, v => BitVec.ofNat 8 v :: bytesOf n (v >>> 8)

/-- The number a little-endian byte string spells (R5). -/
def natOf : List Byte → Nat
  | [] => 0
  | b :: t => b.toNat + 256 * natOf t

/-- Quotient rounded up. -/
def cdiv (a b : Nat) : Nat := (a + b - 1) / b

/-- Round `a` up to a multiple of `b`. -/
def roundUp (a b : Nat) : Nat := cdiv a b * b

/-- Clamp to at most `m` (a saturating counter, R526). -/
def satTo (m a : Nat) : Nat := if a ≤ m then a else m

/-- Number of bits needed to write `n` in binary (0 for 0), for `n` below 2^fuel. -/
def bitLenF : Nat → Nat → Nat
  | 0, _ => 0
  | f + 1, n => if n = 0 then 0 else 1 + bitLenF f (n / 2)

/-- Number of bits of `n`. -/
def bitLen (n : Nat) : Nat := Nat.log2 n + b2n (n != 0)

/-- Number of 1 bits among the low `n` bits of `w`. -/
def popCount : Nat → Nat → Nat
  | 0, _ => 0
  | n + 1, w => w % 2 + popCount n (w / 2)

/-- Lowest set bit below `n` of `w`, from bit `i`. -/
def lowBit : Nat → Nat → Nat → Option Nat
  | 0, _, _ => none
  | n + 1, i, w => if bitAt w i then some i else lowBit n (i + 1) w

/-- The list `0 … n-1`. -/
def upto (n : Nat) : List Nat := List.range n

/-- Repeat a state change for `i = a, a+1, …, a+n-1`. -/
def forUp {σ : Type} (f : Nat → σ → σ) : Nat → Nat → σ → σ
  | 0, _, s => s
  | n + 1, a, s => forUp f n (a + 1) (f a s)

/-- First index below `n`, counting from `a`, at which `p` holds. -/
def findUp (p : Nat → Bool) : Nat → Nat → Option Nat
  | 0, _ => none
  | n + 1, a => if p a then some a else findUp p n (a + 1)

/-- The sum of `f` over `a … a+n-1`. -/
def sumUp (f : Nat → Nat) : Nat → Nat → Nat
  | 0, _ => 0
  | n + 1, a => f a + sumUp f n (a + 1)

/-- Replace the first list entry that satisfies `p` by its image. -/
def updFirst {α : Type} (p : α → Bool) (f : α → α) : List α → List α
  | [] => []
  | x :: t => if p x then f x :: t else x :: updFirst p f t

/-- Drop the first list entry that satisfies `p`. -/
def dropFirst {α : Type} (p : α → Bool) : List α → List α
  | [] => []
  | x :: t => if p x then t else x :: dropFirst p t

/-- Whether a list of numbers has no repeats. -/
def allDistinct : List Nat → Bool
  | [] => true
  | x :: t => !t.contains x && allDistinct t

/-- Insert a number into a rising list without repeats. -/
def insUp (x : Nat) : List Nat → List Nat
  | [] => [x]
  | y :: t => if x < y then x :: y :: t else if x = y then y :: t else y :: insUp x t

end Sys2Proof.Machine
end

