-- ==== Sys2Proof/Machine/Hash.lean ====
section
/-!
DEFINITION. Machine/Hash.lean: CRC-32 with the IEEE 802.3 polynomial (R64, R298) and SHAKE256 (Keccak-f[1600]), the
extendable-output hash the digests of chapters 15 and 17 are taken with.
-/
namespace Sys2Proof.Machine

/-- One bit step of the reflected CRC-32 of IEEE 802.3. -/
def crcBit (c : Nat) : Nat := if c % 2 = 1 then (c / 2) ^^^ 0xEDB88320 else c / 2

/-- One byte step of the reflected CRC-32. -/
def crcByte (c : Nat) (b : Byte) : Nat :=
  let c := c ^^^ b.toNat
  crcBit (crcBit (crcBit (crcBit (crcBit (crcBit (crcBit (crcBit c)))))))

/-- CRC-32, IEEE 802.3: initial value and final exclusive-or all ones. -/
def crc32 (bs : List Byte) : Nat := (bs.foldl crcByte 0xFFFFFFFF) ^^^ 0xFFFFFFFF

/-- Rotate a 64-bit lane left. -/
def rotl64 (x n : Nat) : Nat := ((x <<< n) ||| (x >>> (64 - n))) % 2 ^ 64

/-- Round constants of Keccak-f[1600]. -/
def keccakRC : List Nat :=
  [0x0000000000000001, 0x0000000000008082, 0x800000000000808A, 0x8000000080008000, 0x000000000000808B,
   0x0000000080000001, 0x8000000080008081, 0x8000000000008009, 0x000000000000008A, 0x0000000000000088,
   0x0000000080008009, 0x000000008000000A] ++
  [0x000000008000808B, 0x800000000000008B, 0x8000000000008089, 0x8000000000008003, 0x8000000000008002,
   0x8000000000000080, 0x000000000000800A, 0x800000008000000A, 0x8000000080008081, 0x8000000000008080,
   0x0000000080000001, 0x8000000080008008]

/-- Rotation offsets of Keccak, lane x + 5 y. -/
def keccakRot : List Nat :=
  [0, 1, 62, 28, 27, 36, 44, 6, 55, 20, 3, 10, 43, 25, 39, 41, 45, 15, 21, 8, 18, 2, 61, 56, 14]

/-- Lane `i` of a Keccak state, which is one number of 1,600 bits. -/
def lane (a i : Nat) : Nat := (a >>> (64 * i)) % 2 ^ 64
/-- The state whose first `n` lanes are `f 0`, `f 1`, …. -/
def packLanes (f : Nat → Nat) : Nat → Nat
  | 0 => 0
  | n + 1 => packLanes f n + f n <<< (64 * n)

/-- One round of Keccak-f[1600]: theta, rho and pi, chi, iota. -/
def keccakRound (a rc : Nat) : Nat :=
  let c := packLanes (fun x => lane a x ^^^ lane a (x + 5) ^^^ lane a (x + 10) ^^^ lane a (x + 15) ^^^ lane a (x + 20)) 5
  let d := packLanes (fun x => lane c ((x + 4) % 5) ^^^ rotl64 (lane c ((x + 1) % 5)) 1) 5
  let a := packLanes (fun i => lane a i ^^^ lane d (i % 5)) 25
  -- pi moves lane (x, y) to (y, 2x + 3y): new lane (x', y') comes from (x' + 3y', x')
  let b := packLanes (fun i => let j := (i % 5 + 3 * (i / 5)) % 5 + 5 * (i % 5); rotl64 (lane a j) (keccakRot.getD j 0)) 25
  let e := packLanes (fun i =>
    lane b i ^^^ ((2 ^ 64 - 1 - lane b ((i + 1) % 5 + 5 * (i / 5))) &&& lane b ((i + 2) % 5 + 5 * (i / 5)))) 25
  e ^^^ rc

/-- Keccak-f[1600]. -/
def keccakF (a : Nat) : Nat := keccakRC.foldl keccakRound a

/-- Absorb `n` blocks of 136 bytes. -/
def absorb : Nat → List Byte → Nat → Nat
  | 0, _, a => a
  | n + 1, bs, a => absorb n (bs.drop 136) (keccakF (a ^^^ natOf (bs.take 136)))

/-- SHAKE256 padding to whole 136-byte blocks. -/
def shakePad (bs : List Byte) : List Byte :=
  let r := 136 - bs.length % 136
  bs ++ (if r = 1 then [0x9F#8] else 0x1F#8 :: (List.replicate (r - 2) 0#8 ++ [0x80#8]))

/-- SHAKE256 with an output of at most 136 bytes. -/
def shake256 (outLen : Nat) (bs : List Byte) : List Byte :=
  let p := shakePad bs
  bytesOf outLen (absorb (p.length / 136) p 0)

end Sys2Proof.Machine
end

