-- ==== Sys2Proof/Config.lean ====
section
/-!
DEFINITION. Config.lean: what a package carries from the factory (fuses, boot ROM) and what the spec leaves open, as
constants without a body: no proof can see what they are.
-/
namespace Sys2Proof.Config

/-- A value the spec leaves open, fresh at each draw (log entry 3). -/
opaque freeValue : Nat → Nat
/-- Physical tiles of each A-die that passed factory test, from fuses (R20). -/
opaque goodTiles : Nat → Nat
/-- Cores that passed factory test, from fuses (R230). -/
opaque goodCores : Nat
/-- Serial number, from fuses (R473, R503). -/
opaque serial : Nat
/-- Chaser table revision held in the boot ROM (R194). -/
opaque romTabRev : Nat
/-- Fuse words at the factory (R459): 0 vkh0, 1 vkh1, 2 vrev0, 3 okh, 4 to 6 lc1 to lc3, 7 svn, 8 step. -/
opaque factoryFuse : Nat → Nat
/-- Whether a measured rail voltage (mV) is in regulation at a setpoint (mV): no tolerance is stated (R405, R433). -/
opaque inRegulation : Nat → Nat → Bool
/-- A byte of the flash die as the factory leaves it (R457). -/
opaque factoryFlash : Nat → Byte
/-- Result bits of a bounded function within its bound (R113): revision, refined, function, format, operands. -/
opaque boundedBits : Nat → Nat → Nat → Nat → Nat → Nat → Nat
/-- What the sequencer takes a packet for whose ring slot lies on an uncorrectable line: nothing says (R74, R266). -/
opaque badPacket : Nat → Nat → Packet
/-- Whether a Falcon-1024 signature verifies: key, message, signature. -/
opaque falconOk : List Byte → List Byte → List Byte → Bool
/-- Bytes per cycle, less one, at which a COPY end in the control window is predicted: R277's table has no such row. -/
opaque windowRate : Nat

end Sys2Proof.Config
end

