-- ==== Sys2Proof/Machine/Tab.lean ====
section
/-!
DEFINITION. Machine/Tab.lean: sparse tables as plain data: a list of (key, value) pairs with strictly rising keys and no
entry equal to what an unlisted key reads as. Memory, flash and the register file are such tables.
-/
namespace Sys2Proof.Machine

/-- A sparse table: rising keys, values that differ from the default of their key. -/
abbrev Tab (α : Type) := List (Nat × α)

/-- The value at key `k`; `d k` where the table lists none. -/
def tabGet {α : Type} (d : Nat → α) : Tab α → Nat → α
  | [], k => d k
  | (a, v) :: t, k => if k = a then v else tabGet d t k

/-- The table without key `k`. -/
def tabCut {α : Type} (k : Nat) (t : Tab α) : Tab α := t.filter (fun e => e.1 != k)

/-- The table with `v` at key `k`, in canonical form where it was. -/
def tabSet {α : Type} [DecidableEq α] (d : Nat → α) : Tab α → Nat → α → Tab α
  | [], k, v => if v = d k then [] else [(k, v)]
  | (a, w) :: t, k, v =>
    if k < a then (if v = d k then (a, w) :: tabCut k t else (k, v) :: (a, w) :: tabCut k t)
    else if k = a then (if v = d k then tabCut k t else (k, v) :: tabCut k t)
    else (a, w) :: tabSet d t k v

/-- The canonical form from key `lo` on. -/
def tabWfFrom {α : Type} [DecidableEq α] (d : Nat → α) : Nat → Tab α → Bool
  | _, [] => true
  | lo, (a, v) :: t => decide (lo ≤ a) && decide (v ≠ d a) && tabWfFrom d (a + 1) t

/-- Whether a table is in canonical form. -/
def tabWf {α : Type} [DecidableEq α] (d : Nat → α) (t : Tab α) : Bool := tabWfFrom d 0 t

/-- The table in canonical form; the identity on tables that are. -/
def tabCanon {α : Type} [DecidableEq α] (d : Nat → α) (t : Tab α) : Tab α :=
  t.foldr (fun e acc => tabSet d acc e.1 e.2) []

/-- The table without the keys of `[lo, hi)`, which then read as their defaults. -/
def tabDrop {α : Type} (lo hi : Nat) (t : Tab α) : Tab α := t.filter (fun e => decide (e.1 < lo) || decide (hi ≤ e.1))

/-- Change the value at one key. -/
def tabMod {α : Type} [DecidableEq α] (d : Nat → α) (t : Tab α) (k : Nat) (f : α → α) : Tab α :=
  tabSet d t k (f (tabGet d t k))

end Sys2Proof.Machine
end

