-- ==== Sys2Proof/Machine/Regs.lean ====
section
/-!
DEFINITION. Machine/Regs.lean: the register map of the control window (R524, R527 to R529), each register's fields with
their access types and reset values (R7 and the register tables of every chapter), and the job set (R525).
Registers are named by their offset from the start of the control window.
-/
namespace Sys2Proof.Machine

/-- Access types of R7; `w1cAny`: any write to the field clears it; `rwM`: RW by Myeles, RO otherwise. -/
inductive Acc where
  | rw | ro | wo | w1c | w1cAny | rwl | rwM
  deriving DecidableEq, Repr

/-- A field: lowest bit, width, access type, reset value. Bits no field names are reserved (R6). -/
structure Fld where
  lo : Nat
  n : Nat
  acc : Acc
  reset : Nat
  deriving DecidableEq, Repr

-- M block (R527)
def mStatus := 0x000
def mSerial := 0x008
def mBootCnt := 0x010
def mLifecycle := 0x018
def mTouchmark := 0x020
def mNumCfg := 0x028
def mChtabApply := 0x030
def mFlashOwn := 0x038
def mFwStat := 0x100
def mFwCtl := 0x108
def mAuthCtl := 0x110
def mAuthStat := 0x118
def mErrRing := 0x200
def mErrPtr := 0x208
def mMemIrq := 0x210
def mFarCfg := 0x218
def mFarStat := 0x220
def mFrmRing := 0x300
def mFrmPtr := 0x308
def mFaultStat := 0x400
def mTether := 0x408
def mTwinCfg := 0x410
def mTwinStat := 0x418
def mTwinHeld := 0x420
def mTwinPrev := 0x428
def mTwinMine := 0x430
def mReplStat := 0x438
def mPwrCtl := 0x500
def mPwrStat := 0x508
def mPwrPol := 0x510
def mOvrStat := 0x518
def mOvrFrame := 0x520
def mIdlePlan := 0x528
def mRailPol (d : Nat) := 0x600 + 8 * d
def mRailStat (d : Nat) := 0x680 + 8 * d
def mSensRing := 0x700
def mSensRate := 0x708
def mSensPtr := 0x710
def mCntSamp := 0x800
def mCntTiles := 0x808
def mTrcCfg := 0x810
def mTrcEPtr := 0x818
def mTrcSPtr := 0x820
def mTrcEvt := 0x828
-- F block (R528)
def fNodeCfg := 0x100000
def fChord := 0x100008
def fCollPool := 0x100010
def fCollErr := 0x100018
def fHotLine := 0x100020
def fPodTime := 0x100100
def fFrameNum := 0x100108
def fFrameStart := 0x100110
def fPodSec := 0x100118
def fBridleCfg := 0x100120
def fBridleStat := 0x100128
def fHbLost := 0x100130
def fFrameGeo := 0x100138
def fExchGeo := 0x100140
def fPlanBase := 0x100200
def fPlanApply := 0x100208
def fPlanCtl := 0x100210
def fPlanStat := 0x100218
def fPortCtl (p : Nat) := 0x101000 + 0x20 * p
def fPortStat (p : Nat) := 0x101008 + 0x20 * p
def fLinkCnt (p : Nat) := 0x101010 + 0x20 * p
-- A-die blocks (R529)
def aBlk (a : Nat) := 0x200000 + 0x100000 * a
def aTileMap (a : Nat) := aBlk a
def aTileStat (a : Nat) := aBlk a + 0x08
def aMemCfg (a : Nat) := aBlk a + 0x10
def aCbwStat (a : Nat) := aBlk a + 0x18
def aMargCtl (a : Nat) := aBlk a + 0x20
/-- A_STACKTHERM of stack `st`. -/
def aStackTherm (st : Nat) := aBlk (st / 2) + 0x28 + 8 * (st % 2)
/-- Per-tile registers of logical tile `t` of the package. -/
def aTileBlk (t : Nat) := aBlk (t / 8) + 0x1000 + 0x100 * (t % 8)
def aSeqErr (t : Nat) := aTileBlk t
def aFpXcpt (t : Nat) := aTileBlk t + 0x08
def aChTab (t : Nat) := aTileBlk t + 0x10
def aQCtl (t : Nat) := aTileBlk t + 0x18
-- P block (R529)
def pCoreStat := 0x1000000
def pLlcCfg := 0x1000008
def pPcieStat (p : Nat) := 0x1000010 + 8 * p
-- queue descriptors and doorbells (R524, R72)
def qRing (q : Nat) := 0x2000000 + 32 * q
def qStatus (q : Nat) := 0x2000000 + 32 * q + 8
def qCfg (q : Nat) := 0x2000000 + 32 * q + 16
def qPtr (q : Nat) := 0x2000000 + 32 * q + 24
/-- F_GROUPTAB, word `k` of entry `e` (R334). -/
def fGroupTab (e k : Nat) := 0x7000000 + 64 * e + 8 * k
/-- F_LOSTTAB, word `k` of entry `e` (R398). -/
def fLostTab (e k : Nat) := 0x7001000 + 16 * e + 8 * k
/-- P_RECOVERY: it stands in the recovery window of R518, outside the control window; keyed here at the unassigned P-block
slot 0xFFFF8 of the state's register table. -/
def pRecovery := 0x10FFFF8
/-- TAP instruction register of R521, keyed at an unassigned P-block slot. -/
def tapIr := 0x10FFFF0

/-- Fields of the M block. -/
def mFields (o : Nat) : Option (List Fld) :=
  if o = mStatus then some [⟨0, 1, .w1c, 0⟩, ⟨1, 1, .w1c, 0⟩, ⟨2, 4, .ro, 0⟩]
  else if o = mSerial then some [⟨0, 64, .ro, 0⟩]
  else if o = mBootCnt then some [⟨0, 32, .ro, 0⟩]
  else if o = mLifecycle then some [⟨0, 11, .ro, 0⟩]
  else if o = mTouchmark then some [⟨0, 32, .ro, 0⟩]
  else if o = mNumCfg then some [⟨0, 1, .rwl, 0⟩]
  else if o = mChtabApply then some [⟨0, 64, .rwM, 0⟩]
  else if o = mFlashOwn then some [⟨0, 3, .ro, 0⟩]
  else if o = mFwStat then some [⟨0, 52, .ro, 0⟩]
  else if o = mFwCtl then some [⟨0, 3, .wo, 0⟩]
  else if o = mAuthCtl then some [⟨0, 48, .rwM, 0⟩, ⟨48, 1, .wo, 0⟩]
  else if o = mAuthStat then some [⟨0, 5, .ro, 0⟩]
  else if o = mErrRing then some [⟨6, 42, .rw, 0⟩, ⟨48, 5, .rw, 8⟩, ⟨53, 1, .rw, 0⟩, ⟨54, 1, .rw, 0⟩]
  else if o = mErrPtr ∨ o = mFrmPtr then some [⟨0, 24, .ro, 0⟩, ⟨24, 24, .rw, 0⟩, ⟨48, 16, .ro, 0⟩]
  else if o = mMemIrq then some [⟨0, 10, .rw, 0⟩, ⟨10, 10, .rw, 0⟩]
  else if o = mFarCfg then some [⟨0, 2, .rwl, 0⟩, ⟨2, 4, .rwl, 0⟩]
  else if o = mFarStat then some [⟨0, 4, .ro, 0⟩, ⟨4, 4, .w1c, 0⟩, ⟨8, 49, .ro, 0⟩]
  else if o = mFrmRing then some [⟨6, 42, .rw, 0⟩, ⟨48, 5, .rw, 10⟩, ⟨53, 1, .rw, 0⟩]
  else if o = mFaultStat then
    some [⟨0, 4, .ro, 0⟩, ⟨8, 8, .ro, 0⟩, ⟨16, 8, .ro, 0⟩, ⟨24, 1, .ro, 0⟩, ⟨25, 1, .w1c, 0⟩, ⟨26, 16, .w1cAny, 0⟩,
      ⟨42, 10, .rw, 0⟩]
  else if o = mTether then some [⟨0, 1, .ro, 0⟩, ⟨1, 1, .wo, 0⟩, ⟨2, 6, .ro, 0⟩]
  else if o = mTwinCfg then some [⟨0, 1, .rwl, 0⟩, ⟨1, 1, .rwl, 0⟩, ⟨2, 12, .rwl, 0⟩, ⟨14, 12, .rwl, 0⟩]
  else if o = mTwinStat then some [⟨0, 52, .ro, 0⟩]
  else if o = mTwinHeld ∨ o = mTwinPrev ∨ o = mTwinMine then some [⟨0, 64, .ro, 0xFFFFFFFFFFFFFFFF⟩]
  else if o = mReplStat then some [⟨0, 10, .ro, 0⟩, ⟨10, 16, .w1cAny, 0⟩, ⟨26, 10, .rw, 0⟩]
  else if o = mPwrCtl then some [⟨0, 1, .wo, 0⟩]
  else if o = mPwrStat then some [⟨0, 35, .ro, 0⟩, ⟨35, 1, .w1c, 0⟩]
  else if o = mPwrPol then some [⟨0, 12, .rw, 0x7D0⟩, ⟨12, 10, .rw, 0⟩, ⟨22, 1, .w1c, 0⟩]
  else if o = mOvrStat then some [⟨0, 4, .ro, 0⟩, ⟨4, 1, .w1c, 0⟩, ⟨5, 36, .ro, 0⟩]
  else if o = mOvrFrame then some [⟨0, 64, .ro, 0⟩]
  else if o = mIdlePlan then some [⟨0, 16, .rw, 0⟩, ⟨16, 1, .rw, 0⟩]
  else if 0x600 ≤ o ∧ o < 0x650 then some [⟨0, 10, .rw, 0x2EE⟩, ⟨10, 10, .rw, 0x384⟩, ⟨20, 1, .w1c, 0⟩]
  else if 0x680 ≤ o ∧ o < 0x6D0 then some [⟨0, 10, .ro, 0x352⟩, ⟨10, 32, .ro, 0⟩, ⟨42, 1, .w1c, 0⟩, ⟨43, 2, .ro, 0⟩]
  else if o = mSensRing then some [⟨6, 42, .rw, 0⟩, ⟨48, 5, .rw, 12⟩]
  else if o = mSensRate then some [⟨0, 16, .rw, 0x3E8⟩, ⟨16, 10, .rw, 0⟩, ⟨26, 1, .rw, 0⟩]
  else if o = mSensPtr ∨ o = mTrcEPtr ∨ o = mTrcSPtr then some [⟨0, 28, .ro, 0⟩, ⟨28, 28, .rw, 0⟩, ⟨56, 8, .ro, 0⟩]
  else if o = mCntSamp then some [⟨0, 16, .rw, 0x3E8⟩, ⟨16, 1, .rw, 0⟩, ⟨17, 8, .rw, 0⟩, ⟨25, 1, .rw, 0⟩]
  else if o = mCntTiles then some [⟨0, 64, .rw, 0xFFFFFFFFFFFFFFFF⟩]
  else if o = mTrcCfg then
    some [⟨0, 28, .rw, 0⟩, ⟨28, 5, .rw, 14⟩, ⟨33, 5, .rw, 14⟩, ⟨38, 1, .rw, 0⟩, ⟨39, 1, .rw, 0⟩, ⟨40, 1, .rw, 0⟩,
      ⟨41, 1, .w1c, 0⟩]
  else if o = mTrcEvt then some [⟨0, 6, .rw, 0⟩, ⟨6, 4, .rw, 0⟩, ⟨10, 1, .rw, 0⟩, ⟨11, 1, .rw, 0⟩]
  else none

/-- Lanes of external port `p` (R505). -/
def portLanes (p : Nat) : Nat :=
  if p = 0 then 16 else if p ≤ 6 then 8 else if p ≤ 13 then 4 else if p ≤ 15 then 8 else 4

/-- Fields of the F block. -/
def fFields (o : Nat) : Option (List Fld) :=
  if o = fNodeCfg then some [⟨0, 14, .rwl, 0⟩, ⟨14, 4, .rwl, 0⟩]
  else if o = fChord then some [⟨0, 14, .rwl, 0⟩, ⟨14, 14, .rwl, 0⟩]
  else if o = fCollPool then some [⟨0, 6, .rwl, 0x10⟩]
  else if o = fCollErr then some [⟨0, 56, .ro, 0⟩, ⟨56, 1, .w1c, 0⟩]
  else if o = fHotLine then some [⟨0, 16, .w1cAny, 0⟩, ⟨16, 43, .ro, 0⟩]
  else if o = fPodTime ∨ o = fFrameNum ∨ o = fFrameStart then some [⟨0, 64, .ro, 0⟩]
  else if o = fPodSec then some [⟨0, 64, .wo, 0⟩]
  else if o = fBridleCfg then some [⟨0, 14, .rw, 0⟩, ⟨14, 14, .rw, 1⟩, ⟨28, 2, .rw, 0⟩, ⟨30, 1, .rw, 0⟩]
  else if o = fBridleStat then some [⟨0, 3, .ro, 0⟩, ⟨3, 5, .ro, 0x1F⟩, ⟨8, 5, .ro, 0⟩, ⟨16, 32, .ro, 0⟩]
  else if o = fHbLost then some [⟨0, 16, .w1c, 0⟩]
  else if o = fFrameGeo then some [⟨0, 24, .ro, 0x186A0⟩, ⟨24, 24, .ro, 0x1633C⟩]
  else if o = fExchGeo then some [⟨0, 24, .ro, 0x1633C⟩, ⟨24, 16, .ro, 0⟩, ⟨40, 13, .ro, 0⟩]
  else if o = fPlanBase then some [⟨0, 48, .rw, 0⟩]
  else if o = fPlanApply then some [⟨0, 64, .rw, 0⟩]
  else if o = fPlanCtl then some [⟨0, 2, .wo, 0⟩]
  else if o = fPlanStat then some [⟨0, 38, .ro, 0⟩]
  else if 0x101000 ≤ o ∧ o < 0x101240 then
    let p := (o - 0x101000) / 0x20
    let k := o % 0x20
    let s := p = 14 ∨ p = 15
    if k = 0 then
      some ([⟨0, portLanes p, .rwM, 2 ^ portLanes p - 1⟩] ++ (if s then [⟨16, 2, .rwM, 0⟩, ⟨18, 4, .rwM, 0⟩] else []) ++
        [⟨22, 3, .wo, 0⟩])
    else if k = 8 then some [⟨0, 3, .ro, 0⟩, ⟨3, 1, .w1c, 0⟩, ⟨4, 30, .ro, 0⟩, ⟨34, 5, .ro, 0x1F⟩]
    else if k = 16 then some [⟨0, 16, .w1cAny, 0⟩, ⟨16, 16, .w1cAny, 0⟩, ⟨32, 16, .w1cAny, 0⟩]
    else none
  else none

/-- Fields of an A-die block, by the offset inside it. -/
def aFields (k : Nat) : Option (List Fld) :=
  if k = 0x00 then some ((upto 8).map fun i => ⟨4 * i, 4, .rw, i⟩)
  else if k = 0x08 then some [⟨0, 9, .ro, 0⟩, ⟨9, 9, .w1c, 0⟩, ⟨18, 1, .w1c, 0⟩]
  else if k = 0x10 then some [⟨0, 1, .rwM, 0⟩, ⟨1, 1, .rwM, 0⟩]
  else if k = 0x18 then some [⟨0, 38, .ro, 0⟩, ⟨38, 16, .w1cAny, 0⟩, ⟨54, 2, .ro, 0⟩]
  else if k = 0x20 then
    some [⟨0, 1, .wo, 0⟩, ⟨1, 1, .rw, 0⟩, ⟨2, 4, .rw, 0⟩, ⟨6, 7, .rw, 0⟩, ⟨13, 2, .rw, 0⟩, ⟨15, 1, .ro, 0⟩, ⟨16, 1, .w1c, 0⟩,
      ⟨17, 42, .rw, 0⟩]
  else if k = 0x28 ∨ k = 0x30 then some [⟨0, 12, .ro, 0⟩, ⟨12, 1, .w1c, 0⟩, ⟨13, 1, .w1c, 0⟩]
  else if 0x1000 ≤ k ∧ k < 0x1800 then
    let j := k % 0x100
    if j = 0x00 then some [⟨0, 3, .w1c, 0⟩, ⟨3, 10, .ro, 0⟩, ⟨13, 1, .w1c, 0⟩, ⟨14, 3, .ro, 0⟩]
    else if j = 0x08 then some [⟨0, 6, .w1c, 0⟩]
    else if j = 0x10 then some [⟨0, 33, .ro, 0⟩, ⟨33, 1, .w1c, 0⟩]
    else if j = 0x18 then some [⟨0, 13, .wo, 0⟩]
    else none
  else none

/-- Fields of the P block. -/
def pFields (o : Nat) : Option (List Fld) :=
  if o = pCoreStat then some [⟨0, 64, .ro, 0⟩]
  else if o = pLlcCfg then some [⟨0, 4, .rwl, 0⟩]
  else if o = pPcieStat 0 ∨ o = pPcieStat 1 then some [⟨0, 11, .ro, 0⟩, ⟨11, 1, .w1c, 0⟩]
  else none

/-- Fields of a queue descriptor register, by its place in the descriptor (R70). -/
def qFields (k : Nat) : List Fld :=
  if k = 0 then [⟨6, 42, .rw, 0⟩, ⟨48, 4, .rw, 4⟩]
  else if k = 1 then [⟨4, 44, .rw, 0⟩]
  else if k = 2 then [⟨0, 2, .rw, 2⟩, ⟨2, 1, .rwM, 0⟩, ⟨4, 10, .rw, 0⟩, ⟨14, 9, .ro, 0⟩]
  else [⟨0, 59, .ro, 0⟩]

/-- The fields of the register at offset `o` of the control window; none where no register is assigned. The counter and
sensor blocks, the group and lost tables, the P-die region and the flash window are not made of such fields. -/
def regFields (o : Nat) : Option (List Fld) :=
  if o % 8 ≠ 0 then none
  else if o < 0x100000 then mFields o
  else if o < 0x200000 then fFields o
  else if o < 0xA00000 then aFields (o % 0x100000)
  else if 0x1000000 ≤ o ∧ o < 0x1100000 then
    if o = pRecovery then some [⟨0, 28, .rw, 0⟩, ⟨28, 2, .ro, 0⟩, ⟨63, 1, .wo, 0⟩] else pFields o
  else if 0x2000000 ≤ o ∧ o < 0x2200000 then some (qFields (o / 8 % 4))
  else if 0x4000000 ≤ o ∧ o < 0x4080000 then some [⟨0, 16, .wo, 0⟩]
  else none

/-- The reset value the fields spell. -/
def resetOf (fs : List Fld) : Nat := fs.foldl (fun w f => w + (f.reset % 2 ^ f.n) <<< f.lo) 0

/-- The reset value of the register at offset `o` (values from fuses and from the boot ROM are put in when it is read). -/
def regReset (o : Nat) : Word := BitVec.ofNat 64 (match regFields o with | some fs => resetOf fs | none => 0)

/-- What a job agent may write of a register (R525): nothing, its W1C fields, its rd field, or all it holds. -/
inductive JobSet where
  | nothing | w1cOnly | rdOnly | all
  deriving DecidableEq, Repr

/-- The job set of R525. -/
def jobSet (o : Nat) : JobSet :=
  if (0x2000000 ≤ o ∧ o < 0x2200000) ∨ (0x4000000 ≤ o ∧ o < 0x4080000) then .all
  else if 0x200000 ≤ o ∧ o < 0xA00000 then
    let k := o % 0x100000
    if k = 0x28 ∨ k = 0x30 then .w1cOnly
    else if 0x1000 ≤ k ∧ k < 0x1800 then
      if k % 0x100 = 0 ∨ k % 0x100 = 8 then .w1cOnly else if k % 0x100 = 0x18 then .all else .nothing
    else .nothing
  else if o = fCollErr ∨ o = mOvrStat then .w1cOnly
  else if o = mErrPtr ∨ o = mFrmPtr ∨ o = mSensPtr ∨ o = mTrcEPtr ∨ o = mTrcSPtr then .rdOnly
  else if o = mErrRing ∨ o = mMemIrq ∨ o = mFrmRing ∨ o = mSensRing ∨ o = mSensRate ∨ o = mCntSamp ∨ o = mCntTiles ∨
      o = mTrcCfg ∨ o = mTrcEvt ∨ o = mIdlePlan ∨ o = fPlanBase ∨ o = fPlanCtl ∨ o = fPlanApply then .all
  else .nothing

/-- What a write of `v` leaves of one field that holds `c` (R7): the new contents, and whether a locked field refused a
change. `priv`: the writer is Myeles or stands for it; `locked`: CFG_COMMIT has completed. -/
def fieldWrite (priv locked : Bool) (f : Fld) (c v : Nat) : Nat × Bool :=
  match f.acc with
  | .rw => (v, false)
  | .rwM => (if priv then v else c, false)
  | .ro => (c, false)
  | .wo => (c, false)
  | .w1c => (c - (c &&& v), false)
  | .w1cAny => (0, false)
  | .rwl => if locked then (c, decide (v ≠ c)) else (v, false)

/-- What a job agent's write changes of a field under its job set. -/
def jobMay (js : JobSet) (f : Fld) : Bool :=
  match js with
  | .nothing => false
  | .w1cOnly => f.acc == .w1c
  | .rdOnly => f.acc == .rw
  | .all => true

/-- A write of the word `v` over the word `c` of a register with fields `fs` (R6, R7, R525). -/
def wordWrite (fs : List Fld) (priv locked : Bool) (js : JobSet) (c v : Word) : Word × Bool :=
  fs.foldl (fun (acc : Word × Bool) f =>
    if priv || jobMay js f then
      let r := fieldWrite priv locked f (wbits c f.lo f.n) (wbits v f.lo f.n)
      (wput acc.1 f.lo f.n r.1, acc.2 || r.2)
    else acc) (c, false)

end Sys2Proof.Machine
end

