-- ==== Sys2Proof/Machine/State.lean ====
section
/-!
DEFINITION. Machine/State.lean: everything the spec gives the package to hold, as plain data; the state right after reset;
the two ways a step can stop.
-/
namespace Sys2Proof.Machine

/-- Why the machine stops. -/
inductive Fault where
  /-- A core reached the device window of a PCIe root port (R524, R525): what the attached device answers is not given.
  Raised by `execScalarLoadStore` and the HLV memory meanings. Safe: the hardware goes on, the model stops. -/
  | deviceWindow
  deriving DecidableEq, Repr

/-- Why an instruction is turned away. -/
inductive Refusal where
  /-- The command has no meaning yet. Raised by `exec` only. Safe. -/
  | notModelled (mnemonic : String)
  /-- A Holtez private TAP instruction under debug scope 3 (R521): the spec does not say what it does. Raised by
  `execTapInstruction`. Safe. -/
  | privateTap
  deriving DecidableEq, Repr

/-- Where the package stands between power-off and running (R434, R464, R511, R513). -/
inductive Phase where
  | off | testHold | rom | recovery | wiping | running
  deriving DecidableEq, Repr

/-- Local frames, waiting for the first pod tick, or pod frames (R61, R62). -/
inductive TimeMode where
  | local' | waiting | pod
  deriving DecidableEq, Repr

/-- What has become of a command in flight. -/
inductive Stage where
  | waiting
  | done (status detail count : Nat)
  deriving DecidableEq, Repr

/-- The clocks (R24, R39, R51); `everPod`: a later enable of Bridle is not the first since reset (R32). Pod time is kept in units of 1/24 ns, of which an arithmetic cycle is 40. -/
structure Clock where
  cyc : Nat
  podT : Nat
  cyc0 : Nat
  ticked : Bool
  inSlack : Bool
  mode : TimeMode
  originTaken : Bool
  everPod : Bool
  changeAt : Option Nat
  nextTick : Option Nat
  deriving DecidableEq, Repr

/-- Bridle time keeping beside its registers (R52 to R62): the frame each port was last heard in, peers' last reported mode
and boot count, the cycles at which the current holdover began and Bridle was enabled, what a member knows of the root's next tick, the second written to
F_PODSEC, and the offset last given by an IEEE 1588 grandmaster. -/
structure Bridle where
  heard : Tab Nat
  peerMode : Tab Nat
  peerBoots : Tab Nat
  holdStart : Option Nat
  enabledAt : Nat
  rootTick : Option RootTick
  podSec : Nat
  ptp : Option Int
  refsLost : Nat
  deriving DecidableEq, Repr

/-- The plan banks (R63 to R67): the standby and active images as bytes, and what the root has announced. -/
structure Plans where
  standby : List Byte
  active : List Byte
  announced : Option (Nat × Geometry)
  inbox : Option (Nat × Geometry)
  outbox : Option Nat
  snap : List Byte
  snapOk : Bool
  deriving DecidableEq, Repr

/-- A command in flight (R87): its packets; the cycle it issued; the frame it is bound to, the absolute cycle of its
deadline and of its predicted finish; why it must stop (0 no reason, 1 ABORT, 2 a tether entry); what has become of it;
progress and auxiliary numbers of commands that take several steps, what a matched SEND or RECV remembers, and the bytes of an ingot it has read, by offset. -/
structure Flight where
  q : Nat
  seq : Nat
  npkt : Nat
  head : Packet
  cont : List Packet
  issued : Nat
  bound : Bool
  frame : Nat
  deadline : Option Nat
  predEnd : Nat
  stks : List Nat
  stop : Nat
  stage : Stage
  prog : Nat
  aux : Nat
  mark : List Nat
  buf : Tab Byte
  deriving DecidableEq, Repr

/-- What the sequencer holds for a queue beside its descriptor registers (R82, R89, R318). -/
structure QueueX where
  written : List Nat
  dests : Tab Nat
  mcasts : List Nat
  refusal : Option (Nat × Nat)
  absIdx : Nat
  absTag : Nat
  after : List Bool
  deriving DecidableEq, Repr

/-- Who makes a memory access, as error records name it (R268): queue, tag, requester kind and index. -/
structure Req where
  queue : Nat
  tag : Nat
  rkind : Nat
  rindex : Nat
  seq : Nat
  deriving DecidableEq, Repr

/-- A write held by a copy session until its granule is taken (R279). -/
structure Held where
  req : Req
  addr : Nat
  data : List Byte
  deriving DecidableEq, Repr

/-- An open copy-before-write session of an A-die (R278 to R281): granules `[lo, hi)` of its window, those taken, those bad,
staged granules by slot with the bytes as taken, and the command that closes it. -/
structure Session where
  owner : Nat
  lo : Nat
  hi : Nat
  snap : Nat
  taken : List Nat
  badG : List Nat
  slots : List (Nat × Nat)
  snapBytes : Tab Byte
  badLines : List Nat
  deriving DecidableEq, Repr

/-- Copy-before-write state of an A-die: its two sessions and its held writes in arrival order. -/
structure Tracker where
  s0 : Option Session
  s1 : Option Session
  held : List Held
  deriving DecidableEq, Repr

/-- What a stack's controller holds beside A_STACKTHERM (R47 to R50, R267, R271 to R273, R386). -/
structure Stack where
  owed : Nat
  carried : Nat
  carriedDone : Nat
  pause : Nat
  pausesDone : Nat
  owedAt : Nat
  slackPaid : Nat
  waitUntil : Option Nat
  noticeSince : Tab Nat
  coolSince : Tab Nat
  parked : Bool
  retrained : Bool
  logged : List Nat
  pcs : Tab Nat
  scrubAt : Nat
  deriving DecidableEq, Repr

/-- The counts of one frame's record (R378), by byte offset of the field, with the values latched at its tick. -/
structure FrameRec where
  frame : Nat
  tick : Nat
  period : Nat
  plan : Nat
  tmark : Nat
  cnt : Tab Nat
  flags : Nat
  ended : Bool
  due : Bool
  deriving DecidableEq, Repr

/-- An exponent histogram (R125). -/
structure Hist where
  bins : Tab Nat
  total : Nat
  sat : Nat
  base : Int
  deriving DecidableEq, Repr

/-- The slab a Planish array holds (R139): its tag and the element codes its cells read, row after row; a ZB4 code carries its
block exponent above the element. -/
structure Slab where
  bfmt : Nat
  shape : Nat
  b : Nat
  ldb : Nat
  kk : Nat
  nn : Nat
  vals : List Nat
  deriving DecidableEq, Repr

/-- What a tile holds beside its store and its registers (R125, R139, R194, R319): slab, histograms, read-cache lines by
address with their contents, the digest-checked table set in its standby store. -/
structure TileSt where
  slab : Option Slab
  h0 : Hist
  h1 : Hist
  rcache : List (Nat × Nat)
  deriving DecidableEq, Repr

/-- Chaser table switching (R196, R197): the common staged revision found at the tick before the armed frame; the cycle of the
last switch and the revision in use before it. -/
structure Tables where
  snap : Option Nat
  prev : Option (Nat × Nat)
  deriving DecidableEq, Repr

/-- A flit as it stands in a package (R299): its header as it arrived, the dimension it arrived on (15: none), the layer and
last dimension it leaves with, its body, the port it arrived on (18: the package port) and the cycle it arrived in. -/
structure FlitX where
  dest : Nat
  src : Nat
  typ : Nat
  cls : Nat
  layer : Nat
  lastdim : Nat
  arr : Nat
  outLayer : Nat
  outLast : Nat
  body : List Byte
  port : Nat
  came : Nat
  deriving DecidableEq, Repr

/-- The link layer of a port (R296 to R302): next sequence numbers, the replay buffer with its sequence numbers, flits queued,
flits out per credit pool, whether a replay is awaited, failures of the same flit, what the peer declared when training
succeeded, whether DRAIN is under way and the pod time by which training must end. -/
structure Link where
  rxNext : Nat
  txNext : Nat
  replay : List (Nat × FlitX)
  txq : List FlitX
  used : Tab Nat
  asked : Bool
  fails : Nat
  failSeq : Nat
  trained : Option (Nat × Identity)
  upAt : Option Nat
  since : Nat
  retrain : List (Nat × Nat)
  deriving DecidableEq, Repr

/-- A message (R304). -/
structure Msg where
  dseq : Nat
  op : Nat
  sub : Nat
  off : Nat
  args : Nat
  data : List Byte
  deriving DecidableEq, Repr

/-- A message in the resend store (R309): destination, class and the queue it counts against (0xFFFF: none). -/
structure Sent where
  dst : Nat
  cls : Nat
  q : Nat
  msg : Msg
  deriving DecidableEq, Repr

/-- End-to-end state toward and from one node (R303, R306, R307): next dseq to send, next dseq the peer expects, times in a row
it said so, when progress was last made (mono); next dseq expected from it, its incomplete message and that message's length, messages applied since an ACK, whether the message at
its front has been counted as held. -/
structure Peer where
  txNext : Nat
  acked : Nat
  dup : Nat
  since : Nat
  rxNext : Nat
  part : Option Msg
  want : Nat
  got : Nat
  fresh : Nat
  deriving DecidableEq, Repr

/-- A read or atomic another node must answer: node, dseq of the request, the command or hart it is for, the byte or element it
is there, its length, its address, and whether its lines may enter the read cache (R320). -/
structure Ask where
  dst : Nat
  dseq : Nat
  q : Nat
  seq : Nat
  idx : Nat
  len : Nat
  off : Nat
  fill : Bool
  deriving DecidableEq, Repr

/-- An MCAST not yet acknowledged by every member (R325). -/
structure McOut where
  ident : Nat
  q : Nat
  cls : Nat
  missing : List Nat
  msg : Msg
  since : Nat
  deriving DecidableEq, Repr

/-- An announcement that waits for its RECV (R328): its source node, path, the SEND, target queue, tag and length. -/
structure Ann where
  src : Nat
  path : Nat
  id : Nat
  queue : Nat
  mtag : Nat
  len : Nat
  deriving DecidableEq, Repr

/-- The fabric side of the F-die (R296 to R331): links, resend store, peers, flits accepted and not yet forwarded or assembled,
messages with a row of their own not yet acted on, answers awaited, MCASTs, announcements, lines hot in this frame, lines that received merged messages in it. -/
structure Fabric where
  links : Tab Link
  store : List Sent
  peers : Tab Peer
  inq : List FlitX
  inbox : List (Nat × Msg)
  asks : List Ask
  mcout : List McOut
  mcin : Tab (List Nat)
  nextId : Nat
  anns : List Ann
  hot : List Nat
  merged : List Nat
  lost : List Nat
  deriving DecidableEq, Repr

/-- A collective instance in flight (R342, R349, R351): the command, group, epoch and number; the phase (0 exponents, 1 reduce,
2 assay, 3 assay result, 4 results and data movement, 5 closing exchange), its level and chunk, whether the level's messages
were sent; the data held by slot and slice; the shared exponents of its blocks; blocks to be redone, whether the redo runs; the
elements written, whether a write of dst failed, slots whose closing message came, its deadline frame. -/
structure Coll where
  q : Nat
  seq : Nat
  grp : Nat
  epoch : Nat
  cseq : Nat
  phase : Nat
  lvl : Nat
  chunk : Nat
  sent : Bool
  held : Tab (List Byte)
  gs : Tab Nat
  redo : List Nat
  inRedo : Bool
  count : Nat
  werr : Bool
  closed : List Nat
  dl : Option Nat
  deriving DecidableEq, Repr

/-- The collective engine of the F-die (R332 to R361): instances, stage messages staged in the pool, FORM messages received, and
epochs ended by a REFORM. -/
structure CollEng where
  insts : List Coll
  rx : List (Nat × Msg)
  forms : List (Nat × List Byte)
  ended : List (Nat × Nat)
  deriving DecidableEq, Repr

/-- An ingot or replica generation being written (R412 to R418, R427): the command it belongs to (2^32: the replica session),
where it goes, what its header says, its extent descriptors as they were read, the stage of R414 it is in, the last message
sent, extent bytes delivered, blocks sent on a T port, the first refusal. -/
structure Ingot where
  owner : Nat
  cls : Nat
  dkind : Nat
  node : Nat
  dst : Nat
  kind : Nat
  gen : Nat
  step : Nat
  job : Nat
  shard : Nat
  nshards : Nat
  tm : Nat
  exts : List (List Byte)
  stage : Nat
  last : Nat
  bytes : Nat
  block : Nat
  sent : Bool
  fail : Option (Nat × Nat)
  deriving DecidableEq, Repr

/-- An armed replica (R426, R428): first frame, frames between sessions, step of the first, job, class, descriptors. -/
structure Arm where
  first : Nat
  every : Nat
  step : Nat
  job : Nat
  cls : Nat
  exts : List (List Byte)
  deriving DecidableEq, Repr

/-- Replicas and the twin (R391 to R395, R426 to R430): what is armed, the frame of the last armed session, the OPEN that waits
for its session, the partner's replica region and acceptance, the generation of ours it completed last, its boot count. -/
structure Twin where
  arm : Option Arm
  lastFrame : Option Nat
  opener : Option Nat
  rsize : Nat
  accepts : Bool
  gen : Option Nat
  boots : Nat
  deriving DecidableEq, Repr

/-- A load of a hart that waits for other nodes (R235, R253, R254): 0 a scalar load, 1 VLD and its kin, 2 a first-fault form,
3 PLD, 4 an atomic, 5 a floating-point load; its destination, element size, whether a scalar is sign-extended, the element addresses in order (virtual
address and element number), the elements read so far, and the lowest fault so far as (element, cause, virtual address). -/
structure Pend where
  what : Nat
  rd : Nat
  pd : Nat
  size : Nat
  signed : Bool
  left : List Nat
  got : Tab Nat
  vaddr : Tab Nat
  fault : Option (Nat × Nat × Nat)
  deriving DecidableEq, Repr

/-- A hart (R225, R239): its x, f, vector and predicate registers, the HLV CSRs, fcsr, the privileged state its memory
accesses use (mode, satp, mstatus, PMP), the cause and value of the exception it raised last, its reservation, whether a FENCE
has not completed, and the load it waits for. -/
structure Hart where
  x : Tab Nat
  f : Tab Nat
  v : Tab Nat
  p : Tab Nat
  hlvcfg : Nat
  hlvxrm : Nat
  hlvstat : Nat
  hlvstart : Nat
  hlvff : Nat
  hlvffaddr : Nat
  hlvl : Nat
  shlvctl : Nat
  frm : Nat
  fflags : Nat
  priv : Nat
  satp : Nat
  mstatus : Nat
  pmpcfg : Tab Nat
  pmpaddr : Tab Nat
  cause : Option Nat
  tval : Nat
  resv : Option Nat
  fence : Bool
  pend : Option Pend
  deriving DecidableEq, Repr

/-- What the lifetime ledger's owner keeps (R484): the next record number, whether a time source was seen since boot, the last
TAI seconds known, the lifetime totals, the peaks of the hour, the dies that have been below 40 degrees since their last
cycle; the day's corrected and uncorrectable reads of each stack and the lowest timing margin of each lane (plus one). -/
structure Ledger where
  next : Nat
  cal : Bool
  lastTai : Nat
  secs : Nat
  energy : Nat
  cycles : Nat
  peakJ : Nat
  peakS : Nat
  cold : List Nat
  ce : Tab Nat
  ue : Tab Nat
  margin : Tab Nat
  deriving DecidableEq, Repr

/-- The latest reading of a sensor (R453): its time, value and whether Bridle was unlocked. -/
structure Sens where
  time : Nat
  value : Nat
  unlocked : Bool
  deriving DecidableEq, Repr

/-- Power, die temperatures and sensors (R432 to R456): readings; input power and die power samples as (ns, W); the frame's sum and
number of samples; samples in a row above 2,300 W; since when input power exceeds pcap, and since when a rail is out of regulation
(ns); each A-die's core target below its base; the frame from which every second frame is idled for power; die stages: frame of
entry, of the pre-notice, of cooling (each plus one); cycle up to which issue is held on a die's engines; whether the fast guard
holds; A-dies idled in this frame by hardware, whether the plan idles it; written idle plans not yet in force; when each sensor
group was last recorded. -/
structure Power where
  sens : Tab Sens
  samples : List (Nat × Nat)
  dieW : Tab (List (Nat × Nat))
  sum : Nat
  num : Nat
  overRun : Nat
  overSince : Option Nat
  outSince : Tab Nat
  cut : Tab Nat
  idleFrom : Option Nat
  entered : Tab Nat
  noticed : Tab Nat
  cooled : Tab Nat
  hold : Tab Nat
  guard : Bool
  idle : List Nat
  plan : Bool
  planQ : List (Nat × Nat)
  recAt : Tab Nat
  deriving DecidableEq, Repr

/-- Trust, firmware and reset (R434 to R436, R457 to R480, R510 to R520): the sampled lands; fuses blown since the factory, by index;
the boot record (preferred slot, armed trial, boot count); the slot being written; scopes granted for the next boot; the last
management nonce; the cycle Myeles started; the progress of a live switch; what follows a drain (1 reset, 2 power off); the image
in the recovery window; tiles and stacks the ledger records as retired. -/
structure Firm where
  pins : Pins
  fuse : Tab Nat
  preferred : Nat
  trial : Option Nat
  boots : Nat
  slotBusy : Option Nat
  grant : Option Nat
  nonce : Option Nat
  bootAt : Nat
  live : Option Nat
  after : Nat
  window : Tab Byte
  deadTiles : List (Nat × Nat)
  deadStacks : List Nat
  deriving DecidableEq, Repr

/-- Evidence of lost nodes (R396, R398): suspicions of this frame as (node, neighbour), nodes declared lost in Bridle, and boot
counts heard of listed nodes as (node, neighbour, boot count). -/
structure Loss where
  suspects : List (Nat × Nat)
  declared : List Nat
  back : List (Nat × Nat × Nat)
  deriving DecidableEq, Repr

/-- Job launch (R403, R404): the record stored, the nodes whose acknowledgement is awaited, the parents to be told, what has been
sent in class MANAGEMENT since the record came, and whether the root's launch is complete. -/
structure Launch where
  last : Option LaunchRec
  waiting : List Nat
  parents : List Nat
  sent : List (Nat × LaunchRec)
  complete : Bool
  deriving DecidableEq, Repr

/-- Counters and trace (R490 to R497): records and sample sets in the trace staging store, oldest first (`true`: a sample set);
records dropped since it was full, with the pod time of the first; samples taken since enable; each counter at its engine's last
sample; the cycle and pod time (ns) of the last sample or of enable, and the frame of the last. -/
structure Trace where
  staged : List (Bool × List Byte)
  gap : Option (Nat × Nat)
  sseq : Nat
  last : Tab Nat
  lastCyc : Nat
  lastNs : Nat
  lastFrame : Option Nat
  deriving DecidableEq, Repr

/-- A management request that Myeles has put on a queue (R520): the port it came in on, its command, the datagram's first twenty
bytes, its data area, and the data its MREAD has read. -/
structure MgmtJob where
  port : Nat
  q : Nat
  seq : Nat
  head : List Byte
  area : List Byte
  out : List Byte
  deriving DecidableEq, Repr

/-- Everything the package holds but the queue of commands that wait. `hostRead` is the data of the latest inbound PCIe read's
completion (none: it completed with Unsupported Request); `mgmtOut` the latest answer datagram, with its port. -/
structure Dev where
  phase : Phase
  clk : Clock
  regs : Tab Word
  eff : Tab Word
  mem : Tab Byte
  flash : Tab Byte
  bad : List Nat
  weak : List Nat
  plic : List Nat
  bridle : Bridle
  plans : Plans
  queues : Tab QueueX
  flights : List Flight
  reserved : Tab Nat
  rr : Tab Nat
  disabled : List Nat
  tiles : Tab TileSt
  tables : Tables
  stackSt : Tab Stack
  trackers : Tab Tracker
  frecs : List FrameRec
  counters : Tab Nat
  trc : Trace
  farLost : List Nat
  fab : Fabric
  harts : Tab Hart
  colls : CollEng
  ingots : List Ingot
  twin : Twin
  led : Ledger
  pwr : Power
  firm : Firm
  tetherReq : Option Nat
  fenced : List Nat
  loss : Loss
  launch : Launch
  pdieBeat : Nat
  hostRead : Option (List Byte)
  mgmtJobs : List MgmtJob
  mgmtOut : Option (Nat × List Byte)
  wipedAt : Nat
  plane : Nat
  planeBad : Bool
  collUse : Nat
  draws : Nat
  deriving DecidableEq, Repr

/-- The package and the commands that wait, first in first out. -/
structure State where
  dev : Dev
  pending : List Instr
  deriving DecidableEq, Repr

/-- The package with its input off: nothing mapped, nothing running, every register at its reset value. -/
def Dev.reset : Dev where
  phase := .off
  clk := ⟨0, 0, 0, false, false, .local', false, false, none, none⟩
  regs := []
  eff := []
  mem := []
  flash := []
  bad := []
  weak := []
  plic := []
  bridle := ⟨[], [], [], none, 0, none, 0, none, 0⟩
  plans := ⟨[], [], none, none, none, [], false⟩
  queues := []
  flights := []
  reserved := []
  rr := []
  disabled := []
  tiles := []
  tables := ⟨none, none⟩
  stackSt := []
  trackers := []
  frecs := []
  counters := []
  trc := ⟨[], none, 0, [], 0, 0, none⟩
  farLost := []
  fab := ⟨[], [], [], [], [], [], [], [], 0, [], [], [], []⟩
  harts := []
  colls := ⟨[], [], [], []⟩
  ingots := []
  twin := ⟨none, none, none, 0, false, none, 0⟩
  led := ⟨0, false, 0, 0, 0, 0, 0, 0, [], [], [], []⟩
  pwr := ⟨[], [], [], 0, 0, 0, none, [], [], none, [], [], [], [], false, [], false, [], []⟩
  firm := ⟨⟨false, false, false⟩, [], 0, none, 0, none, none, none, 0, none, 0, [], [], []⟩
  tetherReq := none
  fenced := []
  loss := ⟨[], [], []⟩
  launch := ⟨none, [], [], [], false⟩
  pdieBeat := 0
  hostRead := none
  mgmtJobs := []
  mgmtOut := none
  wipedAt := 0
  plane := 0
  planeBad := false
  collUse := 0
  draws := 0

/-- The package before its first power-up (R434): no command waits. -/
def State.reset : State := ⟨Dev.reset, []⟩

/-- What a command answers. -/
abbrev Out := Host.Outcome State Fault Refusal

end Sys2Proof.Machine
end

