-- ==== Sys2Proof/Machine/Ops.lean ====
section
/-!
DEFINITION. Machine/Ops.lean: the shared operations on registers, clocks, interrupts, memory (R258 to R287), error records,
copy-before-write holds and free values. Every command reads and writes the package through them.
-/
namespace Sys2Proof.Machine

/-- What memory reads as where nothing is listed: zero, as the wipe at reset leaves it (R287). -/
def memRest (_ : Nat) : Byte := 0#8

/-- Flash as the factory leaves it (R457). -/
def flashRest (a : Nat) : Byte := Config.factoryFlash a

/-! What an unlisted entry of the device's tables reads as. -/

/-- What a stack's controller holds after reset (R270, R386). -/
def stack0 (_ : Nat) : Stack := ⟨0, 0, 0, 0, 0, 0, 0, none, [], [], false, false, [], [], 0⟩
/-- A copy-before-write tracker with no session. -/
def tracker0 (_ : Nat) : Tracker := ⟨none, none, []⟩
/-- Histograms and slab of a tile after reset (R125, R139). -/
def hist0 : Hist := ⟨[], 0, 0, -30⟩
def tile0 (_ : Nat) : TileSt := ⟨none, hist0, hist0, []⟩
/-- What the sequencer holds for a queue after reset. -/
def queueX0 (_ : Nat) : QueueX := ⟨[], [], [], none, 0, 0, []⟩
/-- A hart after reset: machine mode, every register zero. -/
def hart0 (_ : Nat) : Hart :=
  ⟨[], [], [], [], 0, 0, 0, 0, 0, 0, 0, 0, 0, 0, 3, 0, 0, [], [], none, 0, none, false, none⟩

/-- The device with its tables in canonical form; the identity where they are already. -/
def canonDev (d : Dev) : Dev :=
  { d with mem := tabCanon memRest d.mem, regs := tabCanon regReset d.regs, eff := tabCanon regReset d.eff,
           flash := tabCanon flashRest d.flash, queues := tabCanon queueX0 d.queues, reserved := tabCanon (fun _ => 0) d.reserved,
           rr := tabCanon (fun _ => 0) d.rr, tiles := tabCanon tile0 d.tiles, stackSt := tabCanon stack0 d.stackSt,
           trackers := tabCanon tracker0 d.trackers, counters := tabCanon (fun _ => 0) d.counters, harts := tabCanon hart0 d.harts }

/-- The outcome of a command that changes the device by `f` and leaves the queue of waiting commands alone. -/
def onDev (s : State) (f : Dev → Dev) : Out := .next { s with dev := canonDev (f s.dev) }

/-! Registers. -/

/-- The word a register holds. -/
def rg (d : Dev) (o : Nat) : Word := tabGet regReset d.regs o
/-- A field of a register. -/
def rf (d : Dev) (o lo n : Nat) : Nat := wbits (rg d o) lo n
/-- A one-bit field of a register. -/
def rb (d : Dev) (o i : Nat) : Bool := wbit (rg d o) i
/-- Hardware sets a register. -/
def setReg (d : Dev) (o : Nat) (v : Word) : Dev := { d with regs := tabSet regReset d.regs o v }
/-- Hardware sets a register from a number. -/
def setRegN (d : Dev) (o v : Nat) : Dev := setReg d o (BitVec.ofNat 64 v)
/-- Hardware sets a field. -/
def setF (d : Dev) (o lo n v : Nat) : Dev := setReg d o (wput (rg d o) lo n v)
/-- Hardware sets a bit. -/
def setB (d : Dev) (o i : Nat) (b : Bool) : Dev := setF d o i 1 (b2n b)
/-- A saturating counter field counts `k` more (R526). -/
def addSat (d : Dev) (o lo n k : Nat) : Dev := setF d o lo n (satTo (2 ^ n - 1) (rf d o lo n + k))
/-- The value in force of a register whose writes take effect at a tick. -/
def ef (d : Dev) (o lo n : Nat) : Nat := wbits (tabGet regReset d.eff o) lo n
/-- The written value of a tick-timed register comes into force. -/
def latch (d : Dev) (o : Nat) : Dev := { d with eff := tabSet regReset d.eff o (rg d o) }

/-! Free values, clocks and interrupts. -/

/-- Draw a fresh free value (log entry 3). -/
def draw (d : Dev) : Nat × Dev := (Config.freeValue d.draws, { d with draws := d.draws + 1 })
/-- Draw a free value below `n` (0 for `n` = 0). -/
def drawBelow (n : Nat) (d : Dev) : Nat × Dev := (Config.freeValue d.draws % n, { d with draws := d.draws + 1 })

/-- Pod time in whole nanoseconds (R57). -/
def podNs (d : Dev) : Nat := d.clk.podT / 24
/-- The current cycle within the frame (R39). -/
def frameCycle (d : Dev) : Nat := d.clk.cyc - d.clk.cyc0
/-- Number of the current frame (R57). -/
def frameNum (d : Dev) : Nat := (rg d fFrameNum).toNat
/-- `n` arithmetic cycles pass; a cycle is 5/3 ns (R8). -/
def pass (n : Nat) (d : Dev) : Dev := { d with clk := { d.clk with cyc := d.clk.cyc + n, podT := d.clk.podT + 40 * n } }
/-- Time passes to the first cycle boundary at or after pod time `t` (1/24 ns); none passes where `t` is past. -/
def passTo (t : Nat) (d : Dev) : Dev := pass (cdiv (t - d.clk.podT) 40) d
/-- Time since power was applied, in units of 1/24 ns: unlike pod time it takes no step (R62). -/
def mono (d : Dev) : Nat := 40 * d.clk.cyc
/-- Time passes to the first cycle boundary at or after `t` on that scale; none passes where `t` is past. -/
def passMono (t : Nat) (d : Dev) : Dev := pass (cdiv (t - mono d) 40) d
/-- Raise an interrupt source at the platform-level interrupt controller; source 0 is none (R238). -/
def raise (src : Nat) (d : Dev) : Dev := if src = 0 then d else { d with plic := insUp src d.plic }
/-- Whether the package runs (the stacks are wiped and no reset is in force). -/
def running (d : Dev) : Bool := d.phase == .running
/-- F_BRIDLESTAT.locked (R59). -/
def locked (d : Dev) : Bool := rb d fBridleStat 0
/-- Whether tether mode is in force (R408). -/
def inTether (d : Dev) : Bool := rb d mTether 0
/-- This package's node number (R290). -/
def myNode (d : Dev) : Nat := rf d fNodeCfg 0 14
/-- Period of the current frame in ns. -/
def periodNs (d : Dev) : Nat := 10 * rf d fFrameGeo 0 24
/-- Start of slack of the current frame in ns. -/
def slackNs (d : Dev) : Nat := 10 * rf d fFrameGeo 24 24
/-- The geometry registers as a geometry (R37, R38). -/
def geoOf (d : Dev) : Geometry :=
  { period := rf d fFrameGeo 0 24, slackStart := rf d fFrameGeo 24 24, exchStart := rf d fExchGeo 0 24,
    slotLen := rf d fExchGeo 24 16, slotCount := rf d fExchGeo 40 13 }
/-- Hardware shows a geometry in F_FRAMEGEO and F_EXCHGEO. -/
def setGeo (g : Geometry) (d : Dev) : Dev :=
  setRegN (setRegN d fFrameGeo (g.period % 2 ^ 24 + (g.slackStart % 2 ^ 24) <<< 24)) fExchGeo
    (g.exchStart % 2 ^ 24 + (g.slotLen % 2 ^ 16) <<< 24 + (g.slotCount % 2 ^ 13) <<< 40)
/-- The default geometry (R36). -/
def defaultGeo : Geometry := ⟨100000, 90940, 90940, 0, 0⟩

/-! Frame records (R378, R380): counts by the byte offset of their field. -/

/-- Change the record kept for frame `n`. -/
def frecMod (n : Nat) (f : FrameRec → FrameRec) (d : Dev) : Dev := { d with frecs := updFirst (fun r => r.frame == n) f d.frecs }
/-- Count `k` more in the field at byte `off` of a frame record, saturating at `m`. -/
def frecAdd (off m k : Nat) (r : FrameRec) : FrameRec :=
  { r with cnt := tabMod (fun _ => 0) r.cnt off (fun x => satTo m (x + k)) }
/-- Count an event in the record of the current frame. -/
def note (off m k : Nat) (d : Dev) : Dev := frecMod (frameNum d) (frecAdd off m k) d
/-- Or bits into a field of the current frame's record. -/
def noteBits (off v : Nat) (d : Dev) : Dev :=
  frecMod (frameNum d) (fun r => { r with cnt := tabMod (fun _ => 0) r.cnt off (fun x => x ||| v) }) d
/-- Set flag bits of the current frame's record. -/
def noteFlag (v : Nat) (d : Dev) : Dev := frecMod (frameNum d) (fun r => { r with flags := r.flags ||| v }) d

/-! The address map (R258 to R262, R284, R285). -/

def stackSpan : Nat := 0x000C00000000
def tileBase : Nat := 0x008000000000
def tileSpan : Nat := 0x02000000
def tilePop : Nat := 0x01600000
def fBuf : Nat := 0x008080000000
def ctrlBase : Nat := 0x00C000000000
def ctrlEnd : Nat := 0x010000000000
def pRegionOff : Nat := 0x08000000
def farBase : Nat := 0x040000000000
def mib : Nat := 0x100000
def gib : Nat := 0x40000000

/-- What an address names. `fStage` is the staging region, which is populated for copy sessions only. -/
inductive Region where
  | stack (st pc : Nat) | tile (t : Nat) | absent (t : Nat) | fUser | fPool | ctrl | pRegion | far (port : Nat) | hole
  deriving DecidableEq, Repr

/-- Physical tile that serves logical tile `t` of the package; 0xF where absent (R14, R15). -/
def physTile (d : Dev) (t : Nat) : Nat := ef d (aTileMap (t / 8)) (4 * (t % 8)) 4
/-- Whether logical tile `t` is absent (R15, R19). -/
def tileAbsent (d : Dev) (t : Nat) : Bool := physTile d t == 0xF
/-- Whether nothing answers at logical tile `t`: it is absent, or fenced after a fault (R19, R387). -/
def tileGone (d : Dev) (t : Nat) : Bool := tileAbsent d t || d.fenced.contains t
/-- Whether stack `st` is retired (R262). -/
def retired (d : Dev) (st : Nat) : Bool := ef d (aMemCfg (st / 2)) (st % 2) 1 == 1
/-- Size of the collective pool in bytes (R260). -/
def poolBytes (d : Dev) : Nat := ef d fCollPool 0 6 * mib

/-- Stack and pseudo-channel of an address in stacked memory (R261); none beyond the populated length. -/
def stackOf (d : Dev) (a : Nat) : Option (Nat × Nat) :=
  let die := a / stackSpan
  let w := a % stackSpan
  let u := w >>> 8
  if !retired d (2 * die) && !retired d (2 * die + 1) then
    some (2 * die + u % 2, ((u >>> 1) ^^^ (u >>> 6)) % 32)
  else if retired d (2 * die) && retired d (2 * die + 1) then none
  else if w < 24 * gib then some (2 * die + b2n (retired d (2 * die)), (u ^^^ (u >>> 5)) % 32)
  else none

/-- Whether far-tier port `i` counts toward the populated far tier: enabled, and up or lost since it was up (R284, R285). -/
def farIn (d : Dev) (i : Nat) : Bool := rb d mFarCfg (2 + i) && (rb d mFarStat i || d.farLost.contains i)
/-- Capacity of far-tier port `i` in bytes (R284). -/
def farCap (d : Dev) (i : Nat) : Nat := rf d mFarStat (8 + 12 * i) 12 * gib
/-- The far tier's sets in order: first port, ways, length (R284). -/
def farSets (d : Dev) : List (Nat × Nat × Nat) :=
  let one (p w : Nat) : Nat × Nat × Nat :=
    if (upto w).all (fun k => farIn d (p + k)) then
      (p, w, w * (upto w).foldl (fun m k => Nat.min m (farCap d (p + k))) (2 ^ 48))
    else (p, w, 0)
  let ways := rf d mFarCfg 0 2
  -- with ways 1 an enabled port stands in the concatenation, a port that is not contributes nothing
  if ways = 0 then [one 0 1, one 1 1, one 2 1, one 3 1]
  else if ways = 1 then [one 0 2, one 2 2]
  else if ways = 2 then [one 0 4]
  else []
/-- Populated length of the far tier, capped at 4 TiB (R284). -/
def farLen (d : Dev) : Nat := Nat.min (2 ^ 42) ((farSets d).foldl (fun n e => n + e.2.2) 0)
/-- The port a far-tier offset lies on (R284). -/
def farPortIn : List (Nat × Nat × Nat) → Nat → Nat
  | [], _ => 0
  | (p, w, len) :: t, off => if off < len then p + (off >>> 12) % w else farPortIn t (off - len)

/-- The region an address lies in (R258, R259). -/
def regionOf (d : Dev) (a : Nat) : Region :=
  if a < 8 * stackSpan then match stackOf d a with | some (s, p) => .stack s p | none => .hole
  else if tileBase ≤ a ∧ a < fBuf then
    let t := (a - tileBase) / tileSpan
    if (a - tileBase) % tileSpan < tilePop then (if tileGone d t then .absent t else .tile t)
    else if tileGone d t then .absent t else .hole
  else if fBuf ≤ a ∧ a < fBuf + 48 * mib then
    if a < fBuf + 48 * mib - poolBytes d then .fUser else .fPool
  else if ctrlBase ≤ a ∧ a < ctrlEnd then
    let o := a - ctrlBase
    if pRegionOff ≤ o ∧ o < pRegionOff + 64 * mib then
      if o - pRegionOff < ef d pLlcCfg 0 4 * 4 * mib then .pRegion else .hole
    else .ctrl
  else if farBase ≤ a ∧ a < farBase + farLen d then .far (farPortIn (farSets d) (a - farBase))
  else .hole

/-! Words of the control window (R524, R525). -/

/-- Whether an identifier names a counted engine (R485). -/
def eidValid (e : Nat) : Bool :=
  (decide (e < 0x200) && decide (e % 8 < 5)) || (decide (0x200 ≤ e ∧ e < 0x220) && decide (e % 4 < 3)) ||
    decide (0x220 ≤ e ∧ e < 0x234)

/-- Groups of the sensor set as (first index, count, sample interval in µs), in table order (R452). -/
def sensGroups : List (Nat × Nat × Nat) :=
  [(0, 192, 10), (192, 32, 10), (224, 32, 10), (256, 16, 10), (272, 30, 1), (302, 30, 1), (332, 104, 1), (436, 4, 1), (440, 4, 100),
    (444, 116, 1000)]

/-- Sample interval of sensor `i` in µs; 0 for a reserved index. -/
def sensEvery (i : Nat) : Nat :=
  match sensGroups.find? fun g => decide (g.1 ≤ i ∧ i < g.1 + g.2.1) with | some g => g.2.2 | none => 0

/-- Whether an offset lies in one of the register blocks (R524). -/
def inBlock (off : Nat) : Bool :=
  decide (off < 0xA00000) || decide (0x1000000 ≤ off ∧ off < 0x1100000) || decide (0x2000000 ≤ off ∧ off < 0x2200000) ||
    decide (0x4000000 ≤ off ∧ off < 0x4080000)
/-- Whether an offset lies in F_GROUPTAB or F_LOSTTAB. -/
def inTables (off : Nat) : Bool := decide (0x7000000 ≤ off ∧ off < 0x7001400)
/-- Engine of a word of the counter block, and sensor of a word of the sensor block, where they name one (R487, R456). -/
def counterOf (off : Nat) : Option Nat :=
  if 0x5000000 ≤ off ∧ off < 0x6000000 ∧ eidValid ((off - 0x5000000) / 256) then some ((off - 0x5000000) / 256) else none
def sensorOf (off : Nat) : Option Nat :=
  if 0x6000000 ≤ off ∧ off < 0x6100000 ∧ sensEvery ((off - 0x6000000) / 16) ≠ 0 then some ((off - 0x6000000) / 16) else none
/-- Flash offset of a word of the flash window that is populated: the configuration copies and the ledger (R457). -/
def flashOf (off : Nat) : Option Nat :=
  let x := off - 0x10000000
  if 0x10000000 ≤ off ∧ ((0x10000000 ≤ x ∧ x < 0x10200000) ∨ (0x12000000 ≤ x ∧ x < 0x1E000000)) then some x else none

/-- Whether an offset of the control window lies in a populated region that is read and written in words (R259, R524, R525). -/
def ctrlSlot (off : Nat) : Bool :=
  inBlock off || inTables off || (counterOf off).isSome || (sensorOf off).isSome || (flashOf off).isSome
/-- Whether an address lies in the P-die addressable region's range of the window. -/
def inPRange (a : Nat) : Bool := decide (ctrlBase + pRegionOff ≤ a ∧ a < ctrlBase + pRegionOff + 64 * mib)

/-- Whether a local address is of a register or table, not of memory. -/
def inCtrl (a : Nat) : Bool := decide (ctrlBase ≤ a ∧ a < ctrlEnd) && !inPRange a

/-- The first address after `a` at which the region may change; ranges are checked from boundary to boundary. -/
def regionEnd (d : Dev) (a : Nat) : Nat :=
  if a < 8 * stackSpan then
    let w := a % stackSpan
    if w < 24 * gib then a - w + 24 * gib else a - w + stackSpan
  else if a < tileBase then tileBase
  else if a < fBuf then
    let x := (a - tileBase) % tileSpan
    if x < tilePop then a - x + tilePop else a - x + tileSpan
  else if a < fBuf + 48 * mib then
    if a < fBuf + 48 * mib - poolBytes d then fBuf + 48 * mib - poolBytes d else fBuf + 48 * mib
  else if a < ctrlBase then ctrlBase
  else if a < ctrlBase + pRegionOff then ctrlBase + pRegionOff
  else if a < ctrlBase + pRegionOff + ef d pLlcCfg 0 4 * 4 * mib then ctrlBase + pRegionOff + ef d pLlcCfg 0 4 * 4 * mib
  else if a < ctrlBase + pRegionOff + 64 * mib then ctrlBase + pRegionOff + 64 * mib
  else if a < ctrlEnd then ctrlEnd
  else if a < farBase then farBase
  else if a < farBase + farLen d then farBase + farLen d
  else 2 ^ 48

/-- Bytes of the trace region (R493): its start and its end; empty while it is not enabled. -/
def traceRange (d : Dev) : Nat × Nat :=
  if rb d mTrcCfg 40 then
    let b := rf d mTrcCfg 0 28 <<< 20
    (b, b + 64 * (2 ^ rf d mTrcCfg 28 5 + 2 ^ rf d mTrcCfg 33 5))
  else (0, 0)

/-- Why `n` bytes from `a` in one region may not be touched, as (status, detail) (R19, R259, R344, R494); `wr`: they are
written. Registers and table entries are no memory: only accesses in aligned 8-byte words reach them (R525). -/
def regionIssue (d : Dev) (wr : Bool) (a n : Nat) : Option (Nat × Nat) :=
  match regionOf d a with
  | .absent t => some (0x06, 0x8000 + t)
  | .hole => some (0x0E, 0x0002)
  | .ctrl => if ctrlSlot (a - ctrlBase) then some (0x0D, 0x0006) else some (0x0E, 0x0002)
  | .fPool => if d.collUse = 0 then none else some (0x0E, 0x0009)
  | .stack _ _ =>
    let tr := traceRange d
    if wr && decide (a < tr.2 ∧ tr.1 < a + n) then some (0x0E, 0x0009) else none
  | _ => none

/-- Why a range of local memory may not be touched: the cause at its lowest address. -/
def rangeFault (d : Dev) (wr : Bool) : Nat → Nat → Nat → Option (Nat × Nat)
  | 0, _, _ => some (0x0E, 0x0002)
  | fuel + 1, a, n =>
    if n = 0 then none
    else
      let e := regionEnd d a
      match regionIssue d wr a (Nat.min n (e - a)) with
      | some x => some x
      | none => if a + n ≤ e then none else rangeFault d wr fuel e (a + n - e)

/-- Populated-range check with fuel for every region boundary of the map. -/
def badRange (d : Dev) (wr : Bool) (a n : Nat) : Option (Nat × Nat) := rangeFault d wr 256 a n

/-! Lines (R264 to R266, R273, R285, R386). -/

/-- The 64-byte line of an address. -/
def lineOf (a : Nat) : Nat := a - a % 64

/-- The controller state of stack `st`. -/
def stackAt (d : Dev) (st : Nat) : Stack := tabGet stack0 d.stackSt st
/-- Change the controller state of stack `st`. -/
def modStack (st : Nat) (f : Stack → Stack) (d : Dev) : Dev := { d with stackSt := tabMod stack0 d.stackSt st f }

/-- How a read of the line fails: its error type of R268 (2 uncorrectable, 3 parked, 5 poison, 6 far port unreachable). -/
def lineErr (d : Dev) (line : Nat) : Option Nat :=
  match regionOf d line with
  | .stack st pc =>
    if (stackAt d st).parked then some 3
    else if tabGet (fun _ => 0) (stackAt d st).pcs pc = 2 then some 2
    else if d.bad.contains line then some 2 else none
  | .far p => if !rb d mFarStat p then some 6 else if d.bad.contains line then some 5 else none
  | _ => if d.bad.contains line then some 2 else none

/-- First line that fails among `n` lines from `line` on. -/
def firstErr (d : Dev) : Nat → Nat → Option (Nat × Nat)
  | 0, _ => none
  | n + 1, line => match lineErr d line with
    | some e => some (line, e)
    | none => firstErr d n (line + 64)

/-- Number of lines a byte range touches. -/
def lineSpan (a n : Nat) : Nat := if n = 0 then 0 else (a + n - 1) / 64 - a / 64 + 1

/-- First line of a byte range whose read fails. -/
def readErr (d : Dev) (a n : Nat) : Option (Nat × Nat) := firstErr d (lineSpan a n) (lineOf a)

/-- Whether a write of `[a, a+n)` fails on line `line`, with the error type: a failing line written only in part, a parked
line, a failed pseudo-channel or a lost far port (R266, R273, R285, R386). -/
def lineWriteErr (d : Dev) (a n line : Nat) : Option Nat :=
  match lineErr d line with
  | none => none
  | some e =>
    if e = 3 ∨ e = 6 then some e
    else if e = 5 then none
    else if line < a ∨ a + n < line + 64 then some e
    else match regionOf d line with
      | .stack st pc => if tabGet (fun _ => 0) (stackAt d st).pcs pc = 2 then some e else none
      | _ => none

/-- First line of `[a, a+n)` on which a write of the range fails, among `k` lines from `line` on. -/
def firstWriteErr (d : Dev) (a n : Nat) : Nat → Nat → Option (Nat × Nat)
  | 0, _ => none
  | k + 1, line => match lineWriteErr d a n line with
    | some e => some (line, e)
    | none => firstWriteErr d a n k (line + 64)

/-- First line of a byte range a write of the range fails on. -/
def writeErr (d : Dev) (a n : Nat) : Option (Nat × Nat) := firstWriteErr d a n (lineSpan a n) (lineOf a)

/-- Status of an error type: far-port loss is UNREACHABLE, everything else MEM_UNCORRECTABLE (R285). -/
def errStatus (e : Nat) : Nat := if e = 6 then 0x06 else 0x05

/-! Bytes. -/

/-- The byte stored at an address. -/
def byteAt (d : Dev) (a : Nat) : Byte := tabGet memRest d.mem a
/-- The little-endian number in `n` bytes from `a`. -/
def ld (d : Dev) (a : Nat) : Nat → Nat
  | 0 => 0
  | n + 1 => (byteAt d a).toNat + 256 * ld d (a + 1) n
/-- `n` bytes from `a`. -/
def ldBytes (d : Dev) (a : Nat) : Nat → List Byte
  | 0 => []
  | n + 1 => byteAt d a :: ldBytes d (a + 1) n
/-- The memory table with bytes stored from `a` on. -/
def putMem (m : Tab Byte) (a : Nat) : List Byte → Tab Byte
  | [] => m
  | b :: t => putMem (tabSet memRest m a b) (a + 1) t
/-- Whether a hart's reservation lies on a line that `[a, a+n)` touches. -/
def resvHit (a n : Nat) (t : Hart) : Bool := match t.resv with | some l => decide (a < l + 64 ∧ l < a + n) | none => false
/-- Reservations of harts on lines that `[a, a+n)` touches are lost. -/
def dropResv (a n : Nat) (hs : Tab Hart) : Tab Hart :=
  if hs.any fun e => resvHit a n e.2 then
    tabCanon hart0 (hs.map fun e => if resvHit a n e.2 then (e.1, { e.2 with resv := none }) else e)
  else hs
/-- Store bytes without any tracking: what a line holds once the write is performed; whole lines come out good (R266). -/
def poke (a : Nat) (bs : List Byte) (d : Dev) : Dev :=
  let whole (l : Nat) : Bool := decide (a ≤ l ∧ l + 64 ≤ a + bs.length) ||
    (match regionOf d l with | .far _ => decide (a < l + 64 ∧ l < a + bs.length) | _ => false)
  { d with harts := dropResv a bs.length d.harts, mem := putMem d.mem a bs, bad := d.bad.filter (fun l => !whole l), weak := d.weak.filter (fun l => !whole l) }
/-- Every byte of `[a, a+n)` reads as zero again, with good lines (R287). -/
def wipe (a n : Nat) (d : Dev) : Dev :=
  { d with mem := tabDrop a (a + n) d.mem, bad := d.bad.filter (fun l => decide (l < a) || decide (a + n ≤ l)),
           weak := d.weak.filter (fun l => decide (l < a) || decide (a + n ≤ l)) }

/-! Error records (R268, R269). -/

/-- Unit and pseudo-channel bytes of an error record. -/
def errUnit (d : Dev) (a : Nat) : Nat × Nat :=
  match regionOf d a with
  | .stack st pc => (st, pc)
  | .tile t | .absent t => (0x40 + t, 0xFF)
  | .far p => (p, 0xFF)
  | .pRegion => (0xF1, 0xFF)
  | .fUser | .fPool => (0xF0, 0xFF)
  | .ctrl | .hole => (0xF0, 0xFF)

/-- A requester with no queue: a core, a remote requester, the scrub, the tracker or the F-die. -/
def reqOf (rkind rindex : Nat) : Req := ⟨0xFFFF, 0, rkind, rindex, 0⟩

/-- The 32 bytes of an error record. -/
def errBytes (d : Dev) (typ addr sym : Nat) (r : Req) : List Byte :=
  let u := errUnit d addr
  bytesOf 8 (podNs d) ++ bytesOf 6 addr ++ bytesOf 1 typ ++ bytesOf 1 u.1 ++ bytesOf 1 u.2 ++ bytesOf 1 sym ++
    bytesOf 2 r.queue ++ bytesOf 4 (if r.queue = 0xFFFF then 0 else r.tag) ++ bytesOf 1 r.rkind ++ bytesOf 1 r.rindex ++
    bytesOf 6 0

/-- Whether a ring with record pointers at `ptr` (wr and rd of `n` bits) has no room for another of `2^k` records. -/
def ringFull (d : Dev) (ptr n k : Nat) : Bool :=
  decide ((rf d ptr 0 n + 2 ^ n - rf d ptr n n) % 2 ^ n + 1 > 2 ^ k)

/-- Write an error record, or count it lost (R268, R269). -/
def errRecord (typ addr sym : Nat) (r : Req) (d : Dev) : Dev :=
  let k := rf d mErrRing 48 5
  if !rb d mErrRing 54 then d
  else if ringFull d mErrPtr 24 k then addSat d mErrPtr 48 16 1
  else
    let slot := rf d mErrPtr 0 24 % 2 ^ k
    let a := rf d mErrRing 6 42 * 64 + 32 * slot
    let d := if (writeErr d a 32).isSome then d else poke a (errBytes d typ (lineOf addr) sym r) d
    raise (rf d mMemIrq 0 10) (setF d mErrPtr 0 24 (rf d mErrPtr 0 24 + 1))

/-- Count a corrected (`ce`) or uncorrectable read of a line in the day's totals of its stack (R484). -/
def countErr (ce : Bool) (line : Nat) (d : Dev) : Dev :=
  match regionOf d line with
  | .stack st _ =>
    let up (t : Tab Nat) : Tab Nat := tabMod (fun _ => 0) t st (· + 1)
    { d with led := if ce then { d.led with ce := up d.led.ce } else { d.led with ue := up d.led.ue } }
  | _ => d

/-- A failed read is logged under its type; a lost far port also sets M_FARSTAT.failed (R266, R285). -/
def logErr (e : Nat × Nat) (r : Req) (d : Dev) : Dev :=
  let d := errRecord e.2 e.1 0xFF r (if e.2 = 2 then countErr false e.1 d else d)
  if e.2 = 6 then match regionOf d e.1 with | .far p => setB d mFarStat (4 + p) true | _ => d else d

/-- A refused partial write is logged with type 4, an access to a parked stack with type 3 (R266, R273). -/
def logWriteErr (e : Nat × Nat) (r : Req) (d : Dev) : Dev := logErr (e.1, if e.2 = 2 then 4 else e.2) r d

/-- Reads of lines with one symbol in error deliver the corrected line and rewrite it; with log_ce the first in each
pseudo-channel of each frame is logged (R265, R268). -/
def correctReads (a n : Nat) (r : Req) (d : Dev) : Dev :=
  (d.weak.filter (fun l => decide (a < l + 64 ∧ l < a + n))).foldl (fun d l =>
    let d := countErr true l { d with weak := d.weak.filter (· != l) }
    match regionOf d l with
    | .stack st pc =>
      if rb d mErrRing 53 && !(stackAt d st).logged.contains pc then
        let sd := draw (modStack st (fun x => { x with logged := insUp pc x.logged }) d)
        errRecord 1 l (sd.1 % 67) r sd.2
      else d
    | _ => d) d

/-- Reads of the ranges of a list (`correctReads`); nothing to do where no line has a symbol in error. -/
def correctSpans (l : List (Nat × Nat)) (r : Req) (d : Dev) : Dev :=
  if d.weak.isEmpty then d else l.foldl (fun d s => correctReads s.1 s.2 r d) d

/-- The ranges read among ranges read or written. -/
def readsOf (l : List (Nat × Nat × Bool)) : List (Nat × Nat) := (l.filter fun s => !s.2.2).map fun s => (s.1, s.2.1)

/-! Copy-before-write (R278 to R282). -/

/-- The tracker of A-die `a`. -/
def trackerAt (d : Dev) (a : Nat) : Tracker := tabGet tracker0 d.trackers a
/-- Change the tracker of A-die `a`. -/
def modTracker (a : Nat) (f : Tracker → Tracker) (d : Dev) : Dev := { d with trackers := tabMod tracker0 d.trackers a f }

/-- Whether a session still owes granule `g`. -/
def owesGranule (g : Nat) : Option Session → Bool
  | none => false
  | some s => decide (s.lo ≤ g ∧ g < s.hi) && !s.taken.contains g && !s.badG.contains g

/-- Granules of a session not taken (R282). -/
def leftOf : Option Session → Nat
  | none => 0
  | some s => (s.hi - s.lo) - s.taken.length - s.badG.length

/-- A_CBWSTAT shows the sessions (R282); `stalls` stays. -/
def showTracker (a : Nat) (d : Dev) : Dev :=
  let t := trackerAt d a
  let d := setB (setB d (aCbwStat a) 0 t.s0.isSome) (aCbwStat a) 1 t.s1.isSome
  let d := setF (setF d (aCbwStat a) 2 18 (leftOf t.s0)) (aCbwStat a) 20 18 (leftOf t.s1)
  let bad (s : Option Session) : Bool := match s with | some x => !x.badG.isEmpty | none => false
  setB (setB d (aCbwStat a) 54 (bad t.s0)) (aCbwStat a) 55 (bad t.s1)

/-- Whether a write at a stacked address must be held: a session has not taken its granule, or a write to the granule is
already held (R279). -/
def mustHold (d : Dev) (addr : Nat) : Bool :=
  if addr < 8 * stackSpan then
    let t := trackerAt d (addr / stackSpan)
    let g := (addr % stackSpan) >>> 18
    owesGranule g t.s0 || owesGranule g t.s1
  else false

/-- Perform or hold one piece of a write that lies within one granule. -/
def writePiece (r : Req) (a : Nat) (bs : List Byte) (d : Dev) : Dev :=
  if mustHold d a then
    let die := a / stackSpan
    let d := modTracker die (fun t => { t with held := t.held ++ [⟨r, a, bs⟩] }) d
    note 36 0xFFFF 1 (addSat d (aCbwStat die) 38 16 1)
  else poke a bs d

/-- A write of bytes by requester `r`: performed granule by granule, or held by the copy sessions of its A-die. -/
def memWriteF (r : Req) : Nat → Nat → List Byte → Dev → Dev
  | 0, _, _, d => d
  | f + 1, a, bs, d =>
    if bs.isEmpty then d
    else
      let n := 0x40000 - a % 0x40000
      memWriteF r f (a + n) (bs.drop n) (writePiece r a (bs.take n) d)

/-! What a tile holds beside its store. -/

def tileAt (d : Dev) (t : Nat) : TileSt := tabGet tile0 d.tiles t
def modTile (t : Nat) (f : TileSt → TileSt) (d : Dev) : Dev := { d with tiles := tabMod tile0 d.tiles t f }

/-- A write a tile issues removes its lines from that tile's read cache (R319). -/
def ownLines (r : Req) (a n : Nat) (d : Dev) : Dev :=
  if (r.rkind ≤ 2 ∨ r.rkind = 9) ∧ !(tileAt d r.rindex).rcache.isEmpty then
    modTile r.rindex (fun x => { x with rcache := x.rcache.filter fun e => !decide (a < e.1 + 64 ∧ e.1 < a + n) }) d
  else d

/-- A write of bytes by requester `r`. -/
def memWrite (r : Req) (a : Nat) (bs : List Byte) (d : Dev) : Dev :=
  ownLines r a bs.length (memWriteF r (bs.length / 0x40000 + 2) a bs d)

/-- A write of an `n`-byte little-endian number. -/
def memWriteN (r : Req) (a n v : Nat) (d : Dev) : Dev := memWrite r a (bytesOf n v) d

/-- Whether a held write of requester `r` still waits; its command has not completed (R82, R279). -/
def hasHeld (d : Dev) (q seq : Nat) : Bool :=
  (upto 8).any fun a => (trackerAt d a).held.any fun h => h.req.queue == q && h.req.seq == seq

/-- A ring record of the hardware: written unless its line fails a partial write. -/
def ringWrite (a : Nat) (bs : List Byte) (d : Dev) : Dev := if (writeErr d a bs.length).isSome then d else poke a bs d

end Sys2Proof.Machine
end

