-- ==== Sys2Proof/Machine/Queue.lean ====
section
/-!
DEFINITION. Machine/Queue.lean: what queues, replies, commands in flight and engines share (R68 to R97).
-/
namespace Sys2Proof.Machine

/-! Queues (R68 to R70). -/

/-- Logical tile of a queue. -/
def qTile (q : Nat) : Nat := q >>> 10
/-- Index of a queue in its tile. -/
def qIndex (q : Nat) : Nat := q % 1024
def qHead (d : Dev) (q : Nat) : Nat := rf d (qPtr q) 0 16
def qTail (d : Dev) (q : Nat) : Nat := rf d (qPtr q) 16 16
def qRetire (d : Dev) (q : Nat) : Nat := rf d (qPtr q) 32 16
/-- Queue state: 0 DISABLED, 1 RUNNING, 2 HELD, 3 DRAINING, 4 ABORTING. -/
def qState (d : Dev) (q : Nat) : Nat := rf d (qPtr q) 48 3
def qLog (d : Dev) (q : Nat) : Nat := rf d (qRing q) 48 4
def qBase (d : Dev) (q : Nat) : Nat := rf d (qRing q) 6 42 * 64
def qSBase (d : Dev) (q : Nat) : Nat := rf d (qStatus q) 4 44 * 16
def qClass (d : Dev) (q : Nat) : Nat := rf d (qCfg q) 0 2
def qMgmt (d : Dev) (q : Nat) : Bool := rb d (qCfg q) 2
def setQState (q v : Nat) (d : Dev) : Dev := setF d (qPtr q) 48 3 v
def setHead (q v : Nat) (d : Dev) : Dev := setF d (qPtr q) 0 16 v
def setTail (q v : Nat) (d : Dev) : Dev := setF d (qPtr q) 16 16 v
/-- Sequence arithmetic mod 65,536. -/
def seqSub (a b : Nat) : Nat := (a + 65536 - b % 65536) % 65536
def seqAdd (a b : Nat) : Nat := (a + b) % 65536
/-- Address of command slot of sequence number `s` (R69). -/
def slotAddr (d : Dev) (q s : Nat) : Nat := qBase d q + 64 * (s % 2 ^ qLog d q)
/-- Address of reply slot of sequence number `s` (R69). -/
def replyAddr (d : Dev) (q s : Nat) : Nat := qSBase d q + 16 * (s % 2 ^ qLog d q)
/-- The packet in the slot of sequence number `s`; free where the slot's line is uncorrectable (log entry 3). -/
def packetAt (d : Dev) (q s : Nat) : Packet :=
  if (readErr d (slotAddr d q s) 64).isSome then Config.badPacket d.draws (s % 2 ^ qLog d q)
  else BitVec.ofNat 512 (ld d (slotAddr d q s) 64)

def queueAt (d : Dev) (q : Nat) : QueueX := tabGet queueX0 d.queues q
def modQueue (q : Nat) (f : QueueX → QueueX) (d : Dev) : Dev := { d with queues := tabMod queueX0 d.queues q f }

/-! Packet fields (R76). -/

def pkOpcode (p : Packet) : Nat := pbytes p 0 1
def pkMore (p : Packet) : Bool := pbits p 1 0 1 == 1
def pkBind (p : Packet) : Nat := pbits p 1 1 2
def pkClass (p : Packet) : Nat := pbits p 1 3 2
def pkWait (p : Packet) : Bool := pbits p 1 5 1 == 1
def pkNotify (p : Packet) : Bool := pbits p 1 6 1 == 1
def pkSeq (p : Packet) : Nat := pbytes p 2 2
def pkTag (p : Packet) : Nat := pbytes p 4 4
def pkFrame (p : Packet) : Nat := pbytes p 8 2

/-- The sequencer has read `n` slots from sequence number `s`: corrected and uncorrectable lines are logged (R265, R266, R268). -/
def ringRead (q : Nat) : Nat → Nat → Dev → Dev
  | 0, _, d => d
  | n + 1, s, d =>
    let a := slotAddr d q s
    let r : Req := ⟨q, pkTag (packetAt d q s), 9, qTile q, s⟩
    let d := match readErr d a 64 with
      | some e => { (logErr e r d) with draws := d.draws + 1 }
      | none => correctReads a 64 r d
    ringRead q n (seqAdd s 1) d

/-! Engines (R79): key 4t + e of a tile's Planish, Chaser, mover, fabric unit; 256 + a of an Anvil; 512 + t of a sequencer;
600 the management path. -/

/-- Engine of an opcode on logical tile `t`; none for a reserved opcode. -/
def engineOf (t op : Nat) : Option Nat :=
  if op ≤ 0x06 ∨ op = 0xF0 then some (512 + t)
  else if (0x10 ≤ op ∧ op ≤ 0x13) ∨ (0x70 ≤ op ∧ op ≤ 0x73) then some (4 * t + 2)
  else if op = 0x20 ∨ op = 0x21 then some (4 * t)
  else if 0x30 ≤ op ∧ op ≤ 0x33 then some (4 * t + 1)
  else if 0x40 ≤ op ∧ op ≤ 0x42 then some (256 + t / 8)
  else if (0x50 ≤ op ∧ op ≤ 0x56) ∨ (0x60 ≤ op ∧ op ≤ 0x62) then some (4 * t + 3)
  else if 0x80 ≤ op ∧ op ≤ 0x82 then some 600
  else none

/-- Engines that run one command at a time (R87): Planish, Chaser and Anvil. -/
def serialEngine (e : Nat) : Bool := (decide (e < 256) && decide (e % 4 < 2)) || (decide (256 ≤ e) && decide (e < 264))

/-- Counter identifier of an engine (R485); the management path is not counted. -/
def eidOf (e : Nat) : Nat :=
  if e < 256 then 8 * (e / 4) + e % 4 else if e < 264 then 0x200 + 4 * (e - 256) else if e < 576 then 8 * (e - 512) + 4 else 0xFFFF

/-- Count one more command whose reply was written, for its engine (R487). Word `w` of the block of `eid` has key 32·eid + w. -/
def countCmd (e : Nat) (d : Dev) : Dev :=
  if eidOf e = 0xFFFF then d else { d with counters := tabMod (fun _ => 0) d.counters (32 * eidOf e + 18) (· + 1) }

/-! Flights. -/

def Flight.is (f : Flight) (q seq : Nat) : Bool := f.q == q && f.seq == seq
def Flight.op (f : Flight) : Nat := pkOpcode f.head
def Flight.eng (f : Flight) : Nat := (engineOf (qTile f.q) f.op).getD 600
def Flight.waitingNow (f : Flight) : Bool := f.stage == .waiting
def Flight.req (f : Flight) (rkind rindex : Nat) : Req := ⟨f.q, pkTag f.head, rkind, rindex, f.seq⟩
/-- The flight with its outcome decided. -/
def Flight.finish (f : Flight) (status detail count : Nat) : Flight := { f with stage := .done status detail count }

def findFlight (d : Dev) (q seq : Nat) : Option Flight := d.flights.find? (fun f => f.is q seq)
def modFlight (q seq : Nat) (f : Flight → Flight) (d : Dev) : Dev := { d with flights := updFirst (fun x => x.is q seq) f d.flights }
/-- A command in flight ends with a status, a detail and a count; COMMAND_COMPLETION writes its reply. -/
def finish (q seq status detail count : Nat) (d : Dev) : Dev := modFlight q seq (fun f => f.finish status detail count) d
/-- Commands of a queue in flight, other than a QDISABLE aimed at its own queue (R94). -/
def inFlight (d : Dev) (q : Nat) : List Flight :=
  d.flights.filter fun f => f.q == q && !(f.op == 0x05 && pbytes f.head 13 1 == 0 && pbytes f.head 10 2 == q && f.prog == 1)

/-- Whether a flight may run now on its engine: on an engine that runs one command at a time, bound commands accepted before
it and earlier commands of its own queue come first, and a bound command goes ahead of an unbound one (R87, R89). -/
def turn (d : Dev) (f : Flight) : Bool :=
  if serialEngine f.eng then go d.flights else true
where
  /-- Search the flights in the order they were accepted. -/
  go : List Flight → Bool
    | [] => true
    | g :: t =>
      if g.is f.q f.seq then f.bound || !(t.any fun h => h.bound && h.eng == f.eng && h.waitingNow)
      else if g.eng == f.eng && g.waitingNow && (g.bound || g.q == f.q) then false
      else go t

/-- Whether a pseudo-channel is being retrained; for at most 40 µs nothing in the package that touches memory goes on (R382,
R386, log entry 12). -/
def retraining (d : Dev) : Bool := d.stackSt.any fun e => e.2.pcs.any fun p => p.2 == 1

/-- Run a command in flight: `body` acts if the command (q, seq) of opcode `op` waits and its turn has come; otherwise nothing
changes (log entry 4). -/
def withFlight (op q seq : Nat) (body : Flight → Dev → Dev) (d : Dev) : Dev :=
  match findFlight d q seq with
  | some f => if f.op == op && f.waitingNow && turn d f && !retraining d then body f d else d
  | none => d

/-- How many of `total` units a command performs before it stops: all of them, or under ABORT the number at its safe point,
which is not given (R95). -/
def unitsDone (f : Flight) (total : Nat) (d : Dev) : Nat × Dev := if f.stop = 0 then (total, d) else drawBelow (total + 1) d

/-- Outcome of a command stopped after `n` units: PARTIAL, or ABORTED with nothing done; at a tether entry without a safe
point the detail is 4 (R95, R406). -/
def stopped (f : Flight) (n : Nat) : Nat × Nat × Nat :=
  if n = 0 then (0x02, if f.stop = 2 then 0x0004 else 0x0001, 0) else (0x01, 0, n)

/-! Replies (R81 to R83). -/

/-- Statuses that hold the queue (R83). -/
def holding (st : Nat) : Bool := st == 2 || st == 3 || st == 5 || st == 6 || (decide (9 ≤ st) && decide (st ≤ 15))

/-- The 16 bytes of a reply (R81); `k` is the ring's size_log2. -/
def replyBytes (k seq tag idx status detail count time : Nat) : List Byte :=
  bytesOf 4 tag ++ bytesOf 1 status ++ bytesOf 1 ((1 ^^^ bits seq k 1) + 2 * (idx % 8)) ++ bytesOf 2 detail ++
    bytesOf 4 count ++ bytesOf 4 time

/-- The queue is put in HELD; a queue being disabled keeps its state, and hold_status records the code in any case (R94). -/
def hold (q status : Nat) (d : Dev) : Dev :=
  let d := setF d (qPtr q) 51 8 status
  if qState d q = 1 then setQState q 2 d else d

/-- retire moves across the contiguous run of written replies (R82). -/
def advanceRetire (q : Nat) : Nat → Dev → Dev
  | 0, d => d
  | n + 1, d =>
    let r := qRetire d q
    if (queueAt d q).written.contains r then
      advanceRetire q n (setF (modQueue q (fun x => { x with written := x.written.filter (· != r) }) d) (qPtr q) 32 16 (r + 1))
    else d

/-- The management request a command was put on its queue for (R520). -/
def mgmtJob (d : Dev) (q seq : Nat) : Option MgmtJob := d.mgmtJobs.find? fun j => j.q == q && j.seq == seq
/-- A management request is answered: its header, the reply, and the data of an MREAD (R520). -/
def mgmtAnswer (q seq : Nat) (reply : List Byte) (d : Dev) : Dev :=
  match mgmtJob d q seq with
  | some j => { d with mgmtOut := some (j.port, j.head ++ reply ++ j.out), mgmtJobs := d.mgmtJobs.filter (· != j) }
  | none => d

/-- Write one reply: into its slot, or, where the slot's line is uncorrectable, as an error record with the queue HELD (R82).
The reply counts as written in either case. `holds`: a holding status holds the queue (a flush does not, R83). -/
def writeReply (q seq tag idx status detail count : Nat) (holds : Bool) (d : Dev) : Dev :=
  let a := replyAddr d q seq
  let r : Req := ⟨q, tag, 9, qTile q, seq⟩
  let bs := replyBytes (qLog d q) seq tag idx status detail count (podNs d % 2 ^ 32)
  let d := modQueue q (fun x => { x with written := insUp (seq % 65536) x.written }) (mgmtAnswer q seq bs d)
  match writeErr d a 16 with
  | some e => hold q 0x05 (advanceRetire q 65536 (logWriteErr e r d))
  | none =>
    let d := memWrite { r with queue := 0xFFFF } a bs d
    let d := advanceRetire q 65536 d
    if holds && holding status then hold q status d else d

/-- Replies to every packet of a command, heads first, with their packet indices (R77, R81). -/
def writeReplies (q seq npkt tag status detail count : Nat) (holds : Bool) (d : Dev) : Dev :=
  forUp (fun i d => writeReply q (seqAdd seq i) tag i status detail count holds d) npkt 0 d

/-- Raise the queue's notify interrupt (R82). -/
def notify (q : Nat) (d : Dev) : Dev := raise (rf d (qCfg q) 4 10) d

/-! Ranges a queue's rings may occupy (R69). -/

/-- Whether `[a, a+n)` lies in stacked memory, all populated. -/
def inStacks (d : Dev) (a n : Nat) : Bool := decide (a + n ≤ 8 * stackSpan) && (badRange d false a n).isNone
/-- Whether `[a, a+n)` lies in the populated part of logical tile `t`'s store. -/
def inTileStore (d : Dev) (t a n : Nat) : Bool :=
  !tileGone d t && decide (tileBase + tileSpan * t ≤ a) && decide (a + n ≤ tileBase + tileSpan * t + tilePop)
/-- Whether a range is placed where a ring of tile `t` may be. -/
def ringPlaced (d : Dev) (t a n : Nat) : Bool := inStacks d a n || inTileStore d t a n

/-! Enable and disable (R86, R94, R97). -/

/-- Queue numbers of tile `t` that are not DISABLED. -/
def liveQueues (d : Dev) (t : Nat) : List Nat :=
  d.regs.filterMap fun e =>
    if qPtr (1024 * t) ≤ e.1 ∧ e.1 ≤ qPtr (1024 * t + 1023) ∧ e.1 % 32 = 24 ∧ wbits e.2 48 3 ≠ 0 then
      some ((e.1 - 0x2000000) / 32) else none

/-- Context numbers bound on tile `t`. -/
def boundContexts (d : Dev) (t : Nat) : List Nat := (liveQueues d t).map fun q => rf d (qCfg q) 14 9

/-- The lowest free context of tile `t`. -/
def freeContext (d : Dev) (t : Nat) : Option Nat :=
  let used := boundContexts d t
  findUp (fun c => !used.contains c) (Nat.min 512 (used.length + 1)) 0

/-- Why an enable is refused (R69 to R71, R86), lowest cause first as R78 orders them: (status, detail, A_QCTL cause). -/
def enableRefusal (d : Dev) (q : Nat) : Option (Nat × Nat × Nat) :=
  let t := qTile q
  let k := qLog d q
  if k < 4 then some (0x0D, 0x0006, 1)
  else if qClass d q = 3 ∧ !qMgmt d q then some (0x0E, 0x0001, 3)
  else if (freeContext d t).isNone then some (0x0E, 0x0004, 4)
  else if !ringPlaced d t (qBase d q) (64 * 2 ^ k) || !ringPlaced d t (qSBase d q) (16 * 2 ^ k) then some (0x0E, 0x0007, 2)
  else none

/-- Every packet from head to tail answers ABORTED detail 3 and head becomes tail (R94). A command's packets share its tag and
carry their packet indices; a flush does not hold the queue. `n` packets from `s`, at packet index `idx` of a command with
tag `tag`. -/
def flushFrom (q : Nat) : Nat → Nat → Nat → Nat → Dev → Dev
  | 0, _, _, _, d => d
  | n + 1, s, idx, tag, d =>
    let p := packetAt d q s
    let tag := if idx = 0 then pkTag p else tag
    let d := writeReply q s tag idx 0x02 0x0003 0 false (ringRead q 1 s d)
    flushFrom q n (seqAdd s 1) (if pkMore p ∧ idx < 7 then idx + 1 else 0) tag d

/-- Flush a queue; answers the packets flushed. -/
def flushQueue (q : Nat) (d : Dev) : Nat × Dev :=
  let n := seqSub (qTail d q) (qHead d q)
  (n, setHead q (qTail d q) (flushFrom q n (qHead d q) 0 0 d))

/-- Bind a context and run the queue (R86). -/
def bindRun (q : Nat) (d : Dev) : Dev :=
  match freeContext d (qTile q) with
  | some c => setQState q 1 (setF d (qCfg q) 14 9 c)
  | none => d

/-- An enable acts on a queue that is DISABLED, HELD or RUNNING (R94); answers (status, detail, count). -/
def enableQueue (q : Nat) (flush : Bool) (d : Dev) : (Nat × Nat × Nat) × Dev :=
  if qState d q = 0 then
    match enableRefusal d q with
    | some (st, det, _) =>
      let d := if det = 0x0004 then setF (setB d (aSeqErr (qTile q)) 2 true) (aSeqErr (qTile q)) 3 10 (qIndex q) else d
      ((st, det, 0), d)
    | none =>
      let d := bindRun q d
      if flush then let r := flushQueue q d; ((0, 0, r.1), r.2) else ((0, 0, 0), d)
  else
    let d := setQState q 1 d
    if flush then let r := flushQueue q d; ((0, 0, r.1), r.2) else ((0, 0, 0), d)

/-- A wait of R95 stops at once; any other command in flight runs to its safe point. -/
def stopsAtOnce (op : Nat) : Bool := op == 0x01 || op == 0x02 || op == 0x04 || op == 0x05 || op == 0x06 || op == 0x56
/-- Commands that run to completion under ABORT (R95). -/
def runsOn (op : Nat) : Bool :=
  [0x41, 0x21, 0x33, 0x13, 0x54, 0x60, 0x61, 0x62, 0x73, 0x80, 0x81, 0x82, 0x00, 0x03, 0xF0].contains op

/-- ABORT reaches a command in flight (R95). -/
def abortFlight (f : Flight) : Flight :=
  if !f.waitingNow || runsOn f.op then f
  else if stopsAtOnce f.op then f.finish 0x02 0x0001 0
  else { f with stop := 1 }

/-- A refused A_QCTL enable is shown in A_SEQERR (R97). -/
def qctlRefused (q cause : Nat) (d : Dev) : Dev :=
  let e := aSeqErr (qTile q)
  setF (setF (setB d e 13 true) e 14 3 cause) e 3 10 (qIndex q)

/-- An enable through A_QCTL (R97). -/
def qctlEnable (q : Nat) (flush : Bool) (d : Dev) : Dev :=
  match (if qState d q = 0 then enableRefusal d q else none) with
  | some (_, _, cause) => qctlRefused q cause (enableQueue q flush d).2
  | none => (enableQueue q flush d).2

/-- A queue being disabled whose commands have all ended becomes DISABLED: its context is released, and the control commands
that wait for it act in the order they were accepted, packets before A_QCTL writes (R86, R94). -/
def settleQueue (q : Nat) (d : Dev) : Dev :=
  if (qState d q = 3 ∨ qState d q = 4) ∧ (inFlight d q).isEmpty then
    let d := setF (setQState q 0 d) (qCfg q) 14 9 0
    let d := d.flights.foldl (fun d f =>
      if f.waitingNow && f.prog == 1 && pbytes f.head 13 1 == 0 && pbytes f.head 10 2 == q then
        if f.op == 0x05 then finish f.q f.seq 0 0 f.aux d
        else if f.op == 0x06 then
          let r := enableQueue q (pbytes f.head 12 1 == 1) d
          finish f.q f.seq r.1.1 r.1.2.1 r.1.2.2 r.2
        else d
      else d) d
    let waits := (queueAt d q).after
    waits.foldl (fun d flush => qctlEnable q flush d) (modQueue q (fun x => { x with after := [] }) d)
  else d

/-- A disable acts on a queue (R94). -/
def disableQueue (q : Nat) (abort : Bool) (d : Dev) : Dev :=
  let st := qState d q
  if st = 0 ∨ (st = 4 ∧ !abort) ∨ (st = 3 ∧ !abort) then d
  else
    let d := setQState q (if abort then 4 else 3) d
    let d := if abort then
      { d with flights := d.flights.map fun f => if f.q == q && !(f.op == 0x05 && f.prog == 1 && pbytes f.head 13 1 == 0 &&
          pbytes f.head 10 2 == q) then abortFlight f else f }
      else d
    settleQueue q d

/-! Predictions (R42, R43, R48). -/

/-- Reserved-until cycle of an engine. -/
def reservedUntil (d : Dev) (e : Nat) : Nat := tabGet (fun _ => 0) d.reserved e
def setReserved (e c : Nat) (d : Dev) : Dev := { d with reserved := tabSet (fun _ => 0) d.reserved e c }

/-- Envelope end of a frame with slack at `slack` ns: floor(0.6 × slack × 0.9999) (R42). -/
def envelope (slack : Nat) : Nat := slack * 6 * 9999 / 100000

/-- The frame a selector names, from 32,768 before the current frame to 32,767 after it, as a signed distance (R41). -/
def frameDist (d : Dev) (sel : Nat) : Int :=
  let x := (sel + 65536 - frameNum d % 65536) % 65536
  if x < 32768 then (x : Int) else (x : Int) - 65536

/-- Geometry known for a frame `n` frames ahead: the announced plan's from its apply frame on (R65). -/
def geoAhead (d : Dev) (n : Nat) : Geometry :=
  match d.plans.announced with
  | some (ap, g) => if ap ≠ 0 ∧ ap ≤ frameNum d + n then g else geoOf d
  | none => geoOf d

/-- Nominal cycles of every period from now to the tick `n` frames ahead, in units of 1/10 ns × 0.6 (R42). -/
def cyclesAhead (d : Dev) (n : Nat) : Nat := sumUp (fun i => 6 * (geoAhead d i).period) n 0

/-- Deadline of the frame `n` frames ahead, in cycles from the current frame's tick (R42). -/
def deadlineAhead (d : Dev) (n : Nat) : Nat := envelope (10 * (geoAhead d n).slackStart) + cyclesAhead d n

/-- Cycles a full refresh pause takes: 1,024 refreshes of 350 ns (R47, R48). -/
def pauseCycles : Nat := 215040

/-- Pause instants of the current frame for the stacks in the list, as cycles in the frame (R48). -/
def pauseInstants (d : Dev) (sts : List Nat) : List Nat :=
  let ps := (sts.map fun st => (stackAt d st).pause).foldl (fun l p => insUp p l) []
  ps.foldl (fun acc p =>
    if p = 0 then acc
    else (upto (slackNs d / p)).foldl (fun acc k =>
      if (k + 1) * p < slackNs d then insUp (cdiv (6 * (k + 1) * p) 10) acc else acc) acc) []

/-- Predicted finish from cycle `start` of `n` cycles of work, with the pauses that fall into it (R46, R48). -/
def withPauses (start n : Nat) : List Nat → Nat
  | [] => start + n
  | p :: t => if start ≤ p ∧ p < start + n then withPauses start (n + pauseCycles) t else withPauses start n t

/-- Whether an engine holds an unbound command (R43). -/
def unboundHeld (d : Dev) (e : Nat) : Bool := d.flights.any fun f => f.eng == e && !f.bound && f.waitingNow

/-- Decision of R43 on a bound command. -/
inductive Bound where
  | wait
  | late (detail : Nat)
  | start (deadline : Option Nat) (predEnd : Nat)
  deriving DecidableEq, Repr

/-- Judge a bound command of mode `b` (R40) for the frame of selector `sel`, predicted at `n` cycles on engine `e` with
operands in stacks `sts`; `at'`: a predicted finish given by slots, in cycles of the frame (R43, R44). -/
def judgeBound (d : Dev) (e b sel n : Nat) (sts : List Nat) (at' : Option Nat) : Bound :=
  let dist := frameDist d sel
  if d.clk.mode == .waiting then .wait
  else if dist > 0 ∧ (b = 1 ∨ b = 3) then .wait
  else if dist < 0 then .late 0x0002
  else
    let base := Nat.max (frameCycle d) (reservedUntil d e - d.clk.cyc0)
    let extra := if unboundHeld d e then 4096 else 0
    let fin := match at' with
      | some c => c
      | none => if n = 0 then base else withPauses base (n + extra) (pauseInstants d sts)
    let dl := deadlineAhead d dist.toNat
    if (b = 2 ∨ b = 3) ∧ dl < fin then .late 0x0001
    else .start (if b = 1 then none else some (d.clk.cyc0 + dl)) (d.clk.cyc0 + fin)

end Sys2Proof.Machine
end

