-- ==== Sys2Proof/Machine/Fault.lean ====
section
/-!
DEFINITION. Machine/Fault.lean: fault records (R383, R384), the lifetime ledger (R484) and the request for tether mode (R405).
-/
namespace Sys2Proof.Machine

/-- Write bytes into the flash (R457). -/
def flashPut (a : Nat) (bs : List Byte) (d : Dev) : Dev :=
  { d with flash := bs.zipIdx.foldl (fun t (b, i) => tabSet flashRest t (a + i) b) d.flash }

/-- First byte of the lifetime ledger in flash (R457), and its number of records. -/
def ledgerBase : Nat := 0x12000000
def ledgerRecs : Nat := 3145728

/-- TAI seconds as far as they are known: pod time follows the root's source once one was seen (R54, R484). -/
def taiNow (d : Dev) : Nat := if d.led.cal then podNs d / 1000000000 else d.led.lastTai

/-- Append one record to the lifetime ledger (R484). -/
def ledger (kind subject : Nat) (data : List Byte) (d : Dev) : Dev :=
  let body := bytesOf 4 d.led.next ++ bytesOf 1 kind ++ bytesOf 1 (b2n (!d.led.cal)) ++ bytesOf 2 subject ++ bytesOf 8 (podNs d) ++
    bytesOf 8 (taiNow d) ++ (data ++ bytesOf 32 0).take 32 ++ bytesOf 4 (rg d mBootCnt).toNat
  let d := flashPut (ledgerBase + 64 * (d.led.next % ledgerRecs)) (body ++ bytesOf 4 (crc32 body)) d
  { d with led := { d.led with next := (d.led.next + 1) % 2 ^ 32 } }

/-- Record a fault in M_FAULTSTAT and in the ledger, and raise its interrupt (R383, R384). -/
def faultRec (cls unit sub : Nat) (contained : Bool) (d : Dev) : Dev :=
  let d := setF (setF (setF d mFaultStat 0 4 cls) mFaultStat 8 8 unit) mFaultStat 16 8 sub
  let d := addSat (setB (setB d mFaultStat 24 contained) mFaultStat 25 true) mFaultStat 26 16 1
  ledger 0x08 unit (bytesOf 1 cls ++ bytesOf 1 unit ++ bytesOf 1 sub) (raise (rf d mFaultStat 42 10) d)

/-- The touchmark has changed at this frame's tick (R366, R378, R393, R484). -/
def touchmarkChanged (old : Nat) (d : Dev) : Dev :=
  let d := ledger 0x0B 0 (bytesOf 4 old ++ bytesOf 4 (rg d mTouchmark).toNat) (noteFlag 16 d)
  if rb d mTwinStat 3 ∧ rf d mTwinStat 0 3 ≠ 5 then setF d mTwinStat 0 3 1 else d

/-- Ask for tether mode at the next tick; the first cause stands (R405). -/
def tetherNext (cause : Nat) (d : Dev) : Dev :=
  match d.tetherReq with
  | some _ => d
  | none => if inTether d then d else { d with tetherReq := some cause }

end Sys2Proof.Machine
end

