-- ==== Sys2Proof/Machine/Float.lean ====
section
/-!
DEFINITION. Machine/Float.lean: the number formats and their arithmetic (chapter 4): exact values, one rounder for every
floating-point format, conversions, fixed-point rounding, ZB4 and ZG64. Flags are sets of A_FPXCPT bits (R115).
-/
namespace Sys2Proof.Machine

-- flag bits of A_FPXCPT (R115)
def flNX : Nat := 1
def flUF : Nat := 2
def flOF : Nat := 4
def flDZ : Nat := 8
def flNV : Nat := 16
def flSAT : Nat := 32

/-- A number read from a format: a NaN (signalling or not), an infinity, or (−1)^neg × m × 2^e. -/
inductive Num where
  | nan (signalling : Bool)
  | inf (neg : Bool)
  | fin (neg : Bool) (m : Nat) (e : Int)
  deriving DecidableEq, Repr

/-- A value with the flags raised in making it. -/
abbrev Flagged (α : Type) := α × Nat

/-- A floating-point format (R99): width, exponent and fraction bits, bias, and whether it is one of the short byte formats
with no infinities and the one NaN 0x80. -/
structure Fmt where
  w : Nat
  ew : Nat
  fw : Nat
  bias : Nat
  short : Bool
  deriving DecidableEq, Repr

def fp64 : Fmt := ⟨64, 11, 52, 1023, false⟩
def fp32 : Fmt := ⟨32, 8, 23, 127, false⟩
def zh16 : Fmt := ⟨16, 7, 8, 63, false⟩
def zq8 : Fmt := ⟨8, 4, 3, 8, true⟩
def zq8w : Fmt := ⟨8, 5, 2, 16, true⟩

def Num.isNan : Num → Bool | .nan _ => true | _ => false
def Num.isSig : Num → Bool | .nan s => s | _ => false
def Num.isZero : Num → Bool | .fin _ 0 _ => true | _ => false
def Num.neg : Num → Bool | .nan _ => false | .inf s => s | .fin s _ _ => s
def Num.negate : Num → Num | .nan s => .nan s | .inf s => .inf (!s) | .fin s m e => .fin (!s) m e
def Num.abs : Num → Num | .nan s => .nan s | .inf _ => .inf false | .fin _ m e => .fin false m e

/-- Decode a code of a format (R99, R103, R105). -/
def decodeF (f : Fmt) (c : Nat) : Num :=
  let c := c % 2 ^ f.w
  let s := bitAt c (f.w - 1)
  let ex := bits c f.fw f.ew
  let fr := bits c 0 f.fw
  if f.short then
    if c = 0x80 then .nan false
    else if ex = 0 then .fin s fr (1 - (f.bias : Int) - f.fw)
    else .fin s (fr + 2 ^ f.fw) ((ex : Int) - f.bias - f.fw)
  else if ex = 2 ^ f.ew - 1 then
    if fr = 0 then .inf s else .nan (!bitAt fr (f.fw - 1))
  else if ex = 0 then .fin s fr (1 - (f.bias : Int) - f.fw)
  else .fin s (fr + 2 ^ f.fw) ((ex : Int) - f.bias - f.fw)

/-- The canonical NaN of a format (R101). -/
def canonNan (f : Fmt) : Nat := if f.short then 0x80 else (2 ^ f.ew - 1) <<< f.fw + 2 ^ (f.fw - 1)
/-- The infinity of a format that has one. -/
def infCode (f : Fmt) (neg : Bool) : Nat := b2n neg <<< (f.w - 1) + (2 ^ f.ew - 1) <<< f.fw
/-- The largest finite code, with a sign. -/
def maxCode (f : Fmt) (neg : Bool) : Nat :=
  b2n neg <<< (f.w - 1) + (if f.short then 2 ^ (f.w - 1) - 1 else (2 ^ f.ew - 1) <<< f.fw - 1)

/-- Whether discarding the remainder `r` of `2^sh` (`r` below it) rounds a magnitude up, under a mode of R102. -/
def roundsUp (rnd : Nat) (neg : Bool) (q r sh : Nat) : Bool :=
  if r = 0 then false
  else if rnd = 0 then decide (2 ^ sh < 2 * r) || (2 * r == 2 ^ sh && q % 2 == 1)
  else if rnd = 1 then false
  else if rnd = 2 then neg
  else if rnd = 3 then !neg
  else decide (2 ^ sh ≤ 2 * r)

/-- `m × 2^e` as a whole number of `2^qe`, rounded by mode: the magnitude and whether it is inexact. -/
def quantise (rnd : Nat) (neg : Bool) (m : Nat) (e qe : Int) : Nat × Bool :=
  if qe ≤ e then (m <<< (e - qe).toNat, false)
  else
    let sh := (qe - e).toNat
    let q := m >>> sh
    let r := m % 2 ^ sh
    (if roundsUp rnd neg q r sh then q + 1 else q, r != 0)

/-- Round a finite non-zero magnitude into a format (R100, R102, R104, R106). `sat`: the saturate option. -/
def roundFin (f : Fmt) (rnd : Nat) (sat neg : Bool) (m : Nat) (e : Int) : Flagged Nat :=
  let emin : Int := 1 - (f.bias : Int)
  let ev : Int := (bitLen m : Int) - 1 + e
  let qe : Int := (if ev < emin then emin else ev) - f.fw
  let r := quantise rnd neg m e qe
  let ev' : Int := (bitLen r.1 : Int) - 1 + qe
  let emax : Int := if f.short then (2 ^ f.ew : Int) - 1 - f.bias else (2 ^ f.ew : Int) - 2 - f.bias
  let nx := if r.2 then flNX else 0
  if r.1 = 0 then (if f.short then 0 else b2n neg <<< (f.w - 1), nx ||| flUF)
  else if emax < ev' then
    if f.short then (maxCode f neg, flSAT ||| flNX)
    else if sat then (maxCode f neg, flSAT ||| flNX)
    else
      let toInf := rnd = 0 ∨ rnd = 4 ∨ (rnd = 2 ∧ neg) ∨ (rnd = 3 ∧ !neg)
      (if toInf then infCode f neg else maxCode f neg, flOF ||| flNX)
  else
    -- tiny after rounding: the value rounded with no lower exponent bound stays below the smallest normal
    let full := quantise rnd neg m e (ev - f.fw)
    let tiny := decide (ev < emin) && !(ev + 1 == emin && full.1 == 2 ^ (f.fw + 1))
    let uf := if tiny && r.2 then flUF else 0
    let body :=
      if r.1 < 2 ^ f.fw then r.1
      else if r.1 = 2 ^ (f.fw + 1) then (ev' + f.bias).toNat <<< f.fw
      else (ev' + f.bias).toNat <<< f.fw + (r.1 - 2 ^ f.fw)
    (b2n neg <<< (f.w - 1) + body, nx ||| uf)

/-- Write a number into a format (R101, R104, R106). -/
def encodeF (f : Fmt) (rnd : Nat) (sat : Bool) (x : Num) : Flagged Nat :=
  match x with
  | .nan s => (canonNan f, if s then flNV else 0)
  | .inf s => if f.short then (maxCode f s, flSAT ||| flNX) else (infCode f s, 0)
  | .fin s 0 _ => (if f.short then 0 else b2n s <<< (f.w - 1), 0)
  | .fin s m e => roundFin f rnd sat s m e

/-! Exact arithmetic; the caller rounds once (R112). A quotient or root carries a last bit that says it is inexact. -/

/-- Flag of a signalling operand (R101). -/
def sigFlag (a b : Num) : Nat := if a.isSig || b.isSig then flNV else 0

/-- Exact sum; the sign of an exact zero follows the rounding mode. -/
def addN (rnd : Nat) (a b : Num) : Flagged Num :=
  match a, b with
  | .nan _, _ | _, .nan _ => (.nan false, sigFlag a b)
  | .inf s, .inf t => if s = t then (.inf s, 0) else (.nan false, flNV)
  | .inf s, _ => (.inf s, 0)
  | _, .inf t => (.inf t, 0)
  | .fin s m e, .fin t n g =>
    if m = 0 ∧ n = 0 then (.fin (if s = t then s else rnd == 2) 0 0, 0)
    else
      let lo := if e ≤ g then e else g
      let x : Int := (if s then -1 else 1) * ((m <<< (e - lo).toNat : Nat) : Int)
      let y : Int := (if t then -1 else 1) * ((n <<< (g - lo).toNat : Nat) : Int)
      let z := x + y
      if z = 0 then (.fin (rnd == 2) 0 0, 0) else (.fin (decide (z < 0)) z.natAbs lo, 0)

def subN (rnd : Nat) (a b : Num) : Flagged Num := addN rnd a b.negate

/-- Exact product. -/
def mulN (a b : Num) : Flagged Num :=
  match a, b with
  | .nan _, _ | _, .nan _ => (.nan false, sigFlag a b)
  | .inf s, y => if y.isZero then (.nan false, flNV) else (.inf (s != y.neg), 0)
  | x, .inf t => if x.isZero then (.nan false, flNV) else (.inf (t != x.neg), 0)
  | .fin s m e, .fin t n g => (.fin (s != t) (m * n) (e + g), 0)

/-- Exact fused multiply-add; zero times infinity raises nv even with a quiet NaN addend (R100). -/
def fmaN (rnd : Nat) (a b c : Num) : Flagged Num :=
  let p := mulN a b
  match c with
  | .nan s => (.nan false, p.2 ||| (if s then flNV else 0))
  | _ => let r := addN rnd p.1 c; (r.1, p.2 ||| r.2)

/-- Quotient, to 70 bits and a last bit that says it is inexact. -/
def divN (a b : Num) : Flagged Num :=
  match a, b with
  | .nan _, _ | _, .nan _ => (.nan false, sigFlag a b)
  | .inf s, .inf _ => let _ := s; (.nan false, flNV)
  | .inf s, y => (.inf (s != y.neg), 0)
  | x, .inf t => (.fin (x.neg != t) 0 0, 0)
  | .fin s m e, .fin t n g =>
    if n = 0 then (if m = 0 then (.nan false, flNV) else (.inf (s != t), flDZ))
    else if m = 0 then (.fin (s != t) 0 0, 0)
    else
      let sh := 70 + bitLen n
      let q := (m <<< sh) / n
      let r := (m <<< sh) % n
      (.fin (s != t) (2 * q + b2n (r != 0)) (e - g - sh - 1), 0)

/-- Integer square root by halving steps, `fuel` bits. -/
def isqrtF : Nat → Nat → Nat
  | 0, _ => 0
  | f + 1, n =>
    let r := 2 * isqrtF f (n >>> 2)
    if (r + 1) * (r + 1) ≤ n then r + 1 else r

/-- Square root, to at least 66 bits and a last bit that says it is inexact. -/
def sqrtN (a : Num) : Flagged Num :=
  match a with
  | .nan s => (.nan false, if s then flNV else 0)
  | .inf true => (.nan false, flNV)
  | .inf false => (.inf false, 0)
  | .fin s 0 _ => (.fin s 0 0, 0)
  | .fin true _ _ => (.nan false, flNV)
  | .fin false m e =>
    let sh := 132 + (e % 2).toNat
    let n := m <<< sh
    let r := isqrtF (bitLen n / 2 + 1) n
    (.fin false (2 * r + b2n (r * r != n)) ((e - sh) / 2 - 1), 0)

/-- Order of two numbers that are not NaN: negative zero below positive zero only where `zeros`. -/
def ltN (zeros : Bool) (a b : Num) : Bool :=
  match a, b with
  | .nan _, _ | _, .nan _ => false
  | .inf s, .inf t => s && !t
  | .inf s, _ => s
  | _, .inf t => !t
  | .fin s m e, .fin t n g =>
    let lo := if e ≤ g then e else g
    let x : Int := (if s then -1 else 1) * ((m <<< (e - lo).toNat : Nat) : Int)
    let y : Int := (if t then -1 else 1) * ((n <<< (g - lo).toNat : Nat) : Int)
    if m = 0 ∧ n = 0 then zeros && s && !t else decide (x < y)
/-- Equality of numbers that are not NaN; zeros are equal. -/
def eqN (a b : Num) : Bool :=
  match a, b with
  | .nan _, _ | _, .nan _ => false
  | _, _ => !ltN false a b && !ltN false b a

/-- Maximum (R114). -/
def maxN (a b : Num) : Flagged Num :=
  (if a.isNan then (if b.isNan then .nan false else b) else if b.isNan then a else if ltN true a b then b else a, sigFlag a b)
/-- Minimum (R114). -/
def minN (a b : Num) : Flagged Num :=
  (if a.isNan then (if b.isNan then .nan false else b) else if b.isNan then a else if ltN true b a then b else a, sigFlag a b)

/-- Round an exact result into a format, joining flags. -/
def encodeX (f : Fmt) (rnd : Nat) (sat : Bool) (r : Flagged Num) : Flagged Nat :=
  let c := encodeF f rnd sat r.1
  -- a non-zero value over 0 gives a byte format its largest value with dz (R112)
  if f.short && r.2 &&& flDZ != 0 then (c.1, r.2) else (c.1, r.2 ||| c.2)

/-- Convert between two floating-point formats (R111). -/
def convFF (src dst : Fmt) (rnd : Nat) (sat : Bool) (c : Nat) : Flagged Nat := encodeF dst rnd sat (decodeF src c)

/-! Integers and fixed point (R109 to R111). -/

/-- Clamp to the range of an `n`-bit word: the value and whether it was outside. -/
def clampInt (n : Nat) (signed : Bool) (x : Int) : Int × Bool :=
  let lo : Int := if signed then -(2 ^ (n - 1) : Int) else 0
  let hi : Int := if signed then 2 ^ (n - 1) - 1 else 2 ^ n - 1
  if x < lo then (lo, true) else if hi < x then (hi, true) else (x, false)

/-- An integer as a number. -/
def intN (x : Int) : Num := .fin (decide (x < 0)) x.natAbs 0

/-- A finite number rounded to an integer by a floating mode: the integer and whether it is inexact. -/
def roundInt (rnd : Nat) (neg : Bool) (m : Nat) (e : Int) : Int × Bool :=
  let r := quantise rnd neg m e 0
  ((if neg then -1 else 1) * (r.1 : Int), r.2)

/-- Floating point to an integer of `n` bits (R111). -/
def toIntN (rnd n : Nat) (signed : Bool) (x : Num) : Flagged Int :=
  match x with
  | .nan _ => (0, flNV)
  | .inf s => ((clampInt n signed (if s then -(2 ^ 200 : Int) else 2 ^ 200)).1, flNV)
  | .fin s m e =>
    let r := roundInt rnd s m e
    let c := clampInt n signed r.1
    if c.2 then (c.1, flNV) else (c.1, if r.2 then flNX else 0)

/-- Discard `sh` bits of an integer by a fixed-point code (R110). -/
def shiftRound (code : Nat) (x : Int) (sh : Nat) : Int :=
  let q := x / (2 ^ sh : Int)
  let r := (x % (2 ^ sh : Int)).toNat
  if r = 0 then q
  else if code = 0 then (if 2 ^ sh ≤ 2 * r then q + 1 else q)
  else if code = 1 then (if 2 ^ sh < 2 * r ∨ (2 * r = 2 ^ sh ∧ q % 2 = 1) then q + 1 else q)
  else if code = 2 then q
  else (if q % 2 = 0 then q + 1 else q)

/-- Whether a right shift by `sh` discards a 1 bit. -/
def shiftInexact (x : Int) (sh : Nat) : Bool := x % (2 ^ sh : Int) != 0

/-- A quotient rounded to an integer by a fixed-point code (R110), for a positive divisor. -/
def divRound (code : Nat) (x : Int) (y : Nat) : Int :=
  let q := x / (y : Int)
  let r := (x % (y : Int)).toNat
  if r = 0 then q
  else if code = 0 then (if y ≤ 2 * r then q + 1 else q)
  else if code = 1 then (if y < 2 * r ∨ (2 * r = y ∧ q % 2 = 1) then q + 1 else q)
  else if code = 2 then q
  else (if q % 2 = 0 then q + 1 else q)

/-- Change a binary point: `x × 2^-from` as a multiple of `2^-to`. -/
def rePoint (code : Nat) (x : Int) (from' goal : Nat) : Int × Bool :=
  if from' ≤ goal then (x * 2 ^ (goal - from'), false) else (shiftRound code x (from' - goal), shiftInexact x (from' - goal))

/-- Floating point to fixed point with `n` bits and point `p` (R111). -/
def toFix (code n p : Nat) (x : Num) : Flagged Int :=
  match x with
  | .nan _ => (0, flNV)
  | .inf s => ((clampInt n true (if s then -(2 ^ 200 : Int) else 2 ^ 200)).1, flSAT)
  | .fin s m e =>
    let v : Int := (if s then -1 else 1) * (m : Int)
    let ee := e + p
    let r : Int × Bool := if 0 ≤ ee then (v * 2 ^ ee.toNat, false) else (shiftRound code v (-ee).toNat, shiftInexact v (-ee).toNat)
    let c := clampInt n true r.1
    (c.1, (if r.2 then flNX else 0) ||| (if c.2 then flSAT else 0))

/-- Fixed point as a number (R110). -/
def fixN (p : Nat) (x : Int) : Num := .fin (decide (x < 0)) x.natAbs (-(p : Int))

/-! Exponents and the histogram bin (R126). -/

/-- floor(log2 |x|) of a non-zero finite number. -/
def expOf (m : Nat) (e : Int) : Int := (bitLen m : Int) - 1 + e

/-- Histogram bin of a value (R126). -/
def binOf (base : Int) (x : Num) : Nat :=
  match x with
  | .nan _ => 63
  | .inf _ => 62
  | .fin _ 0 _ => 0
  | .fin _ m e =>
    let v := expOf m e
    if v < base then 1 else if base + 59 < v then 62 else (2 + (v - base)).toNat

/-! ZB4 (R107, R108). -/

/-- Element `i` of a ZB4 block with element word `w` and exponent byte `ex`. -/
def zb4Elem (w ex i : Nat) : Num :=
  if ex = 0xFF then .nan false
  else
    let c := bits w (4 * i) 4
    let m := c % 8
    if m = 0 then .fin false 0 0 else .fin (bitAt c 3) m ((ex : Int) - 135)

/-- Elements rounded at block exponent `ex`: magnitudes with signs and inexactness. -/
def zb4Round (rnd ex : Nat) (xs : List Num) : List (Bool × Nat × Bool) :=
  xs.map fun x => match x with
    | .fin s m e => if m = 0 then (s, 0, false) else let r := quantise rnd s m e ((ex : Int) - 135); (s, r.1, r.2)
    | .inf s => (s, 2 ^ 200, false)
    | .nan _ => (false, 0, false)

/-- Convert sixteen numbers into a ZB4 block: element word and exponent byte, with flags (R108). -/
def zb4Encode (rnd : Nat) (xs : List Num) : Flagged (Nat × Nat) :=
  if xs.any Num.isNan then ((0, 0xFF), if xs.any Num.isSig then flNV else 0)
  else if xs.all Num.isZero then ((0, 0), 0)
  else
    let amax : Option Int := xs.foldl (fun a x => match x with
      | .fin _ m e => if m = 0 then a else match a with
        | some v => some (if v < expOf m e then expOf m e else v)
        | none => some (expOf m e)
      | _ => a) none
    let hasInf := xs.any fun x => match x with | .inf _ => true | _ => false
    let e0 : Int := if hasInf then 254 else (amax.getD (-1000)) + 133
    let ex := if e0 < 0 then 0 else if 254 < e0 then 254 else e0.toNat
    let r0 := zb4Round rnd ex xs
    let ex := if (r0.any fun t => decide (8 ≤ t.2.1)) && decide (ex < 254) then ex + 1 else ex
    let r := zb4Round rnd ex xs
    let codes := r.map fun t =>
      let m := if 7 < t.2.1 then 7 else t.2.1
      if m = 0 then 0 else m + 8 * b2n t.1
    let word := (codes.zipIdx.map fun (c, i) => c <<< (4 * i)).foldl (· + ·) 0
    let fl := (if r.any fun t => decide (7 < t.2.1) then flSAT ||| flNX else 0) ||| (if r.any fun t => t.2.2 then flNX else 0)
    ((word, ex), fl)

/-! ZG64 (R121 to R124). -/

/-- FP32 biased exponent field of a number widened to FP32; 0 for zero. -/
def biased32 (x : Num) : Nat :=
  match x with
  | .fin _ m e => if m = 0 then 0 else if expOf m e < -126 then 0 else (expOf m e + 127).toNat
  | _ => 0

/-- Integer of a contribution at shared exponent `g`: nearest-even (R122). Infinities and NaN enter as 0. -/
def zgInt (g : Nat) (x : Num) : Int :=
  match x with
  | .fin s m e => (roundInt 0 s m (e + 166 - g)).1
  | _ => 0
/-- Header flags of a contribution: pinf 1, ninf 2, nan 4 (R121). -/
def zgFlags (x : Num) : Nat :=
  match x with
  | .nan _ => 4
  | .inf s => if s then 2 else 1
  | .fin _ _ _ => 0

/-- Value of an element sum (R124): `hdr` are the header flags, `g` the shared exponent. -/
def zgNum (g hdr : Nat) (x : Int) : Num :=
  if g = 255 ∨ bitAt hdr 2 ∨ hdr % 4 = 3 then .nan false
  else if bitAt hdr 0 then .inf false
  else if bitAt hdr 1 then .inf true
  else .fin (decide (x < 0)) x.natAbs ((g : Int) - 166)

end Sys2Proof.Machine
end

