-- ==== Sys2Proof/Machine/Bounded.lean ====
section
/-!
DEFINITION. Machine/Bounded.lean: the bounded functions of class 2 (R113, R161, R179). Special values are the spec's; the bits
of every other result belong to the function tables in use and are a constant without a body (log entry 5).
-/
namespace Sys2Proof.Machine

/-- Codes of the bounded functions: ACT codes 2 to 7 (R161), FUNC codes above 0x100 (R179). -/
def fnTanh : Nat := 2
def fnSigmoid : Nat := 3
def fnSoftplus : Nat := 4
def fnSilu : Nat := 5
def fnGelu : Nat := 6
def fnExp : Nat := 7
def fnExp2 : Nat := 0x100
def fnLog : Nat := 0x101
def fnLog2 : Nat := 0x102
def fnRcp : Nat := 0x103
def fnRsqrt : Nat := 0x104

/-- The special value of a bounded function, where R113 gives one: the exact result with its flags. -/
def boundedSpecial (fn : Nat) (x : Num) : Option (Flagged Num) :=
  match x with
  | .nan s => some (.nan false, if s then flNV else 0)
  | .inf neg =>
    if fn = fnExp ∨ fn = fnExp2 ∨ fn = fnSoftplus then some (if neg then .fin false 0 0 else .inf false, 0)
    else if fn = fnLog ∨ fn = fnLog2 then some (if neg then (.nan false, flNV) else (.inf false, 0))
    else if fn = fnRcp then some (.fin neg 0 0, 0)
    else if fn = fnRsqrt then some (if neg then (.nan false, flNV) else (.fin false 0 0, 0))
    else if fn = fnTanh then some (.fin neg 1 0, 0)
    else if fn = fnSigmoid then some (if neg then .fin false 0 0 else .fin false 1 0, 0)
    else some (if neg then .fin true 0 0 else .inf false, 0)
  | .fin neg m e =>
    if fn = fnLog ∨ fn = fnLog2 then
      if m = 0 then some (.inf true, flDZ)
      else if neg then some (.nan false, flNV)
      else if expOf m e = 0 ∧ m = 2 ^ (-e).toNat then some (.fin false 0 0, 0)
      else none
    else if fn = fnRcp then (if m = 0 then some (.inf neg, flDZ) else none)
    else if fn = fnRsqrt then
      if m = 0 then some (.inf neg, flDZ) else if neg then some (.nan false, flNV) else none
    else if fn = fnTanh then (if m = 0 then some (.fin neg 0 0, 0) else none)
    else none

/-- Code of an operand as the tables see it: its sign, significand and exponent. -/
def numKey (x : Num) : Nat :=
  match x with
  | .nan _ => 0
  | .inf s => 1 + b2n s
  | .fin s m e => 4 + b2n s + 2 * (if e < 0 then 1 else 0) + 4 * (e.natAbs + 4096 * m)

/-- Code nearest toward zero of an exact value, moved by at most `b` units in the last place as the tables have it; an exact
value on a code may move to either side. -/
def nudge (f : Fmt) (b pick : Nat) (x : Flagged Num) : Nat :=
  let c := (encodeF f 1 false x.1).1
  let s := bits c (f.w - 1) 1
  let mag := bits c 0 (f.w - 1)
  let top := (2 ^ f.ew - 1) <<< f.fw
  let v := mag + pick % (2 * b + 1) - b
  s <<< (f.w - 1) + (if top < v then top else v)

/-- A bounded function into FP32 or ZH16 (R113): `rev` and `fpref` name the table entries in use. The two algebraic functions
are held within their bound of one unit in the last place. -/
def boundedFn (rev fpref fn : Nat) (f : Fmt) (x : Num) : Flagged Nat :=
  match boundedSpecial fn x with
  | some r => encodeX f 0 false r
  | none =>
    let pick := Config.boundedBits rev fpref fn f.w (numKey x) 0
    let fl := Config.boundedBits rev fpref fn f.w (numKey x) 1 % 8
    if fn = fnRcp then (nudge f 1 pick (divN (.fin false 1 0) x), fl)
    else if fn = fnRsqrt then (nudge f 1 pick (let r := divN (.fin false 1 0) x; sqrtN r.1), fl)
    else (pick % 2 ^ f.w, fl)

end Sys2Proof.Machine
end

