-- ==== Sys2Proof/Machine/Sequencer.lean ====
section
/-!
DEFINITION. Machine/Sequencer.lean: reading commands from rings, doorbells, A_QCTL, and the sequencer's own commands that
touch nothing outside the package (R73 to R97).
-/
namespace Sys2Proof.Machine

/-! Reading a command (R74, R77, R78). -/

/-- What stands at the head of a queue: nothing announced, a command whose packets are not all announced, a slot whose
sequence number does not match (the packets up to and including it), or a command, `bad` where it breaks R77. -/
inductive Parsed where
  | empty
  | incomplete
  | mismatch (pkts : List Packet)
  | command (pkts : List Packet) (bad : Bool)
  deriving DecidableEq, Repr

/-- Whether a continuation keeps R77: the head's opcode and tag, only `more` in its flags. -/
def contOk (h p : Packet) : Bool := pkOpcode p == pkOpcode h && pkTag p == pkTag h && pbits p 1 1 7 == 0

/-- Read the packets of a command from its `i`-th on; `acc` holds those read, newest first. -/
def readCmd (d : Dev) (q : Nat) : Nat → Nat → List Packet → Bool → Parsed
  | 0, _, acc, _ => .command acc.reverse true
  | n + 1, i, acc, bad =>
    let s := seqAdd (qHead d q) i
    if s = qTail d q then (if i = 0 then .empty else .incomplete)
    else
      let p := packetAt d q s
      if pkSeq p ≠ s then .mismatch (p :: acc).reverse
      else
        let bad := bad || (match acc.getLast? with | some h => !contOk h p | none => false)
        if pkMore p then readCmd d q n (i + 1) (p :: acc) bad
        else .command (p :: acc).reverse bad

/-- The command at the head of a queue; at most eight packets. -/
def parseHead (d : Dev) (q : Nat) : Parsed := readCmd d q 8 0 [] false

/-- Execution of SEQUENCE_MISMATCH_TIMEOUT (R74): the unmatched slot, with the packets read before it, answers BAD_PACKET
detail 5, head moves past it and the queue is HELD. -/
def seqMismatch (q : Nat) (d : Dev) : Dev :=
  if running d && qState d q == 1 && !tileAbsent d (qTile q) then
    match parseHead d q with
    | .mismatch pkts =>
      let tag := match pkts with | h :: _ => pkTag h | [] => 0
      let s := qHead d q
      let d := ringRead q pkts.length s d
      writeReplies q s pkts.length tag 0x0D 0x0005 0 true (setHead q (seqAdd s pkts.length) d)
    | _ => d
  else d

/-- SEQUENCE_MISMATCH_TIMEOUT (R74). -/
def execSequenceMismatchTimeout (q : Nat) (s : State) : Out := onDev s (seqMismatch q)

/-! Doorbells (R72, R73, R75). -/

/-- Replies of an absent tile's queue to `n` packets from `s` (R75). -/
def absentReplies (q : Nat) : Nat → Nat → Dev → Dev
  | 0, _, d => d
  | n + 1, s, d =>
    let t := qTile q
    let x := queueAt d q
    let d := if inStacks d (qBase d q) (64 * 2 ^ qLog d q) then
        let p := packetAt d q s
        let idx := x.absIdx
        let tag := if idx = 0 then pkTag p else x.absTag
        let d := modQueue q (fun x => { x with absIdx := if pkMore p ∧ idx < 7 then idx + 1 else 0, absTag := tag }) d
        writeReply q s tag idx 0x06 (0x8000 + t) 0 false (ringRead q 1 s d)
      else writeReply q s 0 0 0x06 (0x8000 + t) 0 false d
    absentReplies q n (seqAdd s 1) d

/-- A doorbell value reaches a queue (R73, R75, R287). -/
def doorbell (q v : Nat) (d : Dev) : Dev :=
  if !running d || inTether d then d
  else
    let r := qRetire d q
    let t := qTile q
    if tileAbsent d t then
      if !inStacks d (qSBase d q) (16 * 2 ^ qLog d q) then d
      else if 2 ^ qLog d q < seqSub v r then setF (setB d (aSeqErr t) 1 true) (aSeqErr t) 3 10 (qIndex q)
      else if seqSub (qTail d q) r < seqSub v r then
        let n := seqSub v (qTail d q)
        setHead q v (setTail q v (absentReplies q n (qTail d q) d))
      else d
    else if 2 ^ qLog d q < seqSub v r then setF (setB d (aSeqErr t) 1 true) (aSeqErr t) 3 10 (qIndex q)
    else if seqSub (qTail d q) r < seqSub v r then setTail q v d
    else d

/-- DOORBELL_WRITE (R73). -/
def execDoorbellWrite (q : Nat) (value : BitVec 16) (s : State) : Out := onDev s (doorbell (q % 65536) value.toNat)

/-! A_QCTL (R97). -/

/-- Operation `op` of A_QCTL on queue `q` by agent `by'`: 1 enable RESUME, 2 enable FLUSH, 3 disable DRAIN, 4 disable ABORT.
A queue with mgmt 1 answers Myeles only; an absent tile's register ignores writes (R525). -/
def qctl (q op : Nat) (by' : Agent) (d : Dev) : Dev :=
  if !running d || tileAbsent d (qTile q) || (qMgmt d q && by' == .job) then d
  else if op = 1 ∨ op = 2 then
    if qState d q = 3 ∨ qState d q = 4 then modQueue q (fun x => { x with after := x.after ++ [op == 2] }) d
    else qctlEnable q (op == 2) d
  else if op = 3 ∨ op = 4 then disableQueue q (op == 4) d
  else d

/-- QCTL_ENABLE_RESUME (R97). -/
def execQctlEnableResume (q : Nat) (by' : Agent) (s : State) : Out := onDev s (qctl (q % 65536) 1 by')
/-- QCTL_ENABLE_FLUSH (R97). -/
def execQctlEnableFlush (q : Nat) (by' : Agent) (s : State) : Out := onDev s (qctl (q % 65536) 2 by')
/-- QCTL_DISABLE_DRAIN (R97). -/
def execQctlDisableDrain (q : Nat) (by' : Agent) (s : State) : Out := onDev s (qctl (q % 65536) 3 by')
/-- QCTL_DISABLE_ABORT (R97). -/
def execQctlDisableAbort (q : Nat) (by' : Agent) (s : State) : Out := onDev s (qctl (q % 65536) 4 by')

/-! Sequencer commands. -/

/-- NOP (R79): OK with count 0. -/
def execNop (q seq : Nat) (s : State) : Out := onDev s (withFlight 0x00 q seq fun _ d => finish q seq 0 0 0 d)

/-- TICKWAIT (R91): at its cycle OK with the cycles waited; at once LATE where the cycle had passed at issue. -/
def tickwait (f : Flight) (d : Dev) : Dev :=
  let offset := pbytes f.head 12 4
  if f.aux = 1 then finish f.q f.seq 0x04 0 0 d
  else if f.frame < frameNum d ∨ (f.frame = frameNum d ∧ d.clk.mode ≠ .waiting ∧ d.clk.cyc0 + offset ≤ d.clk.cyc) then
    finish f.q f.seq 0 0 (satTo 0xFFFFFFFF (d.clk.cyc - f.issued)) d
  else d

/-- TICKWAIT (R91). -/
def execTickwait (q seq : Nat) (s : State) : Out := onDev s (withFlight 0x02 q seq tickwait)

/-! Control of queues and engines (R94 to R96). -/

/-- Engine a kind-1 or kind-2 target names (R96). -/
def targetEngine (f : Flight) : Nat := if pbytes f.head 13 1 = 1 then pbytes f.head 10 2 else 256 + pbytes f.head 10 2
/-- Logical tile a target lies on, where it lies on one (R94). -/
def targetTile (f : Flight) : Option Nat :=
  let k := pbytes f.head 13 1
  let v := pbytes f.head 10 2
  if k = 0 then some (qTile v) else if k = 1 then some (v / 4) else none
/-- Commands in flight on an engine, their replies not yet written. -/
def onEngine (d : Dev) (e : Nat) : List Flight := d.flights.filter fun f => f.eng == e

/-- The Planish of a tile, when QDISABLE reaches it, loses its slab (R140); `slabLost` is that effect. -/
def disableEngine (slabLost : Nat → Dev → Dev) (f : Flight) (e : Nat) (d : Dev) : Dev :=
  let n := (onEngine d e).length
  let d := { d with disabled := insUp e d.disabled }
  let d := if pbytes f.head 12 1 = 1 then
      { d with flights := d.flights.map fun g => if g.eng == e then abortFlight g else g } else d
  let d := if e < 256 ∧ e % 4 = 0 then slabLost (e / 4) d else d
  if n = 0 then finish f.q f.seq 0 0 0 d
  else modFlight f.q f.seq (fun x => { x with prog := 1, aux := n }) d

/-- A QDISABLE of an engine answers when the engine is idle (R96). -/
def settleEngine (e : Nat) (d : Dev) : Dev :=
  if (onEngine d e).isEmpty then
    { d with flights := d.flights.map fun f =>
        if f.op == 0x05 && f.waitingNow && f.prog == 1 && pbytes f.head 13 1 != 0 && targetEngine f == e then
          f.finish 0 0 f.aux else f }
  else d

/-- QDISABLE reaches its target (R94, R96). -/
def qdisable (slabLost : Nat → Dev → Dev) (f : Flight) (d : Dev) : Dev :=
  if f.prog = 1 then d
  else match (targetTile f).filter (tileAbsent d) with
    | some t => finish f.q f.seq 0x06 (0x8000 + t) 0 d
    | none =>
      if pbytes f.head 13 1 = 0 then
        let q := pbytes f.head 10 2
        if qState d q = 0 then finish f.q f.seq 0 0 0 d
        else
          let d := modFlight f.q f.seq (fun x => { x with prog := 1 }) d
          let n := (inFlight d q).length
          disableQueue q (pbytes f.head 12 1 == 1) (modFlight f.q f.seq (fun x => { x with aux := n }) d)
      else disableEngine slabLost f (targetEngine f) d

/-- QENABLE reaches its target (R94, R96). -/
def qenable (f : Flight) (d : Dev) : Dev :=
  if f.prog = 1 then d
  else match (targetTile f).filter (tileAbsent d) with
    | some t => finish f.q f.seq 0x06 (0x8000 + t) 0 d
    | none =>
      if pbytes f.head 13 1 = 0 then
        let q := pbytes f.head 10 2
        if qState d q = 3 ∨ qState d q = 4 then modFlight f.q f.seq (fun x => { x with prog := 1 }) d
        else
          let r := enableQueue q (pbytes f.head 12 1 == 1) d
          finish f.q f.seq r.1.1 r.1.2.1 r.1.2.2 r.2
      else finish f.q f.seq 0 0 0 { d with disabled := d.disabled.filter (· != targetEngine f) }

/-- QENABLE (R94, R96). -/
def execQenable (q seq : Nat) (s : State) : Out := onDev s (withFlight 0x06 q seq qenable)

/-! Packet checks of the sequencer commands (R78, R90 to R96): used bits as (bit, width), and parameter ranges. -/

/-- Bits 8·byte.. of a parameter field. -/
def fieldAt (byte len : Nat) : Nat × Nat := (8 * byte, 8 * len)

/-- Parameter bits the sequencer commands use; the rest are reserved. -/
def seqUsed (op : Nat) : List (Nat × Nat) :=
  if op = 0x01 then [fieldAt 10 1]
  else if op = 0x02 then [fieldAt 10 2, fieldAt 12 4]
  else if op = 0x03 then [(128, 62), fieldAt 24 8]
  else if op = 0x04 then [fieldAt 10 1, fieldAt 12 4, (128, 48), fieldAt 24 8]
  else if op = 0x05 ∨ op = 0x06 then [fieldAt 10 2, fieldAt 12 1, fieldAt 13 1]
  else []

/-- Whether a sequencer command's parameters are in range (R90 to R96). -/
def seqInRange (d : Dev) (p : Packet) : Bool :=
  let op := pkOpcode p
  if op = 0x01 then decide (pbytes p 10 1 ≤ 1)
  else if op = 0x02 then
    let dist := frameDist d (pbytes p 10 2)
    decide (pbytes p 12 4 < 6 * (geoAhead d dist.toNat).period)
  else if op = 0x03 then pbytes p 16 8 % 8 == 0
  else if op = 0x04 then decide (pbytes p 10 1 ≤ 2) && pbytes p 16 8 % 8 == 0
  else if op = 0x05 ∨ op = 0x06 then
    decide (pbytes p 12 1 ≤ 1) && decide (pbytes p 13 1 ≤ 2) &&
      (pbytes p 13 1 != 1 || decide (pbytes p 10 2 < 256)) && (pbytes p 13 1 != 2 || decide (pbytes p 10 2 < 8))
  else true

end Sys2Proof.Machine
end

