-- ==== Sys2Proof/Machine/Bridle.lean ====
section
/-!
DEFINITION. Machine/Bridle.lean: pod time, Bridle and the frame plan (R32 to R38, R51 to R67), the references (R24 to R26)
and the refresh events (R47 to R50).
-/
namespace Sys2Proof.Machine

/-! Frame plans (R34, R35, R64 to R67). -/

/-- Smallest slack in ns for a period in 10 ns units (R35). -/
def sMin (period : Nat) : Nat := 1000 + 350 * cdiv (256 * Nat.min (10 * period) 4000000) 1000000

/-- Whether a geometry keeps R33, R34 and R35. -/
def geoOk (g : Geometry) : Bool :=
  decide (1000 ≤ g.period ∧ g.period ≤ 10000000 ∧ g.slotCount ≤ 4096 ∧ g.exchStart + g.slotCount * g.slotLen = g.slackStart ∧
    (g.slotCount = 0 ∨ 10 ≤ g.slotLen) ∧ g.slackStart ≤ g.period ∧ sMin g.period ≤ 10 * (g.period - g.slackStart))

/-- Bytes `[at', at'+n)` of an image as a number. -/
def imgN (img : List Byte) (at' n : Nat) : Nat := natOf ((img.drop at').take n)
/-- Geometry of a plan image (R64). -/
def imgGeo (img : List Byte) : Geometry :=
  ⟨imgN img 4 4, imgN img 12 4, imgN img 8 4, if imgN img 18 2 = 0 then 0 else imgN img 16 2, imgN img 18 2⟩
/-- Bytes of one padded port map. -/
def mapBytes (img : List Byte) : Nat := roundUp (2 * imgN img 18 2) 64
/-- Ports with a map. -/
def mapPorts (img : List Byte) : List Nat := (upto 16).filter fun i => bitAt (imgN img 24 4) i
/-- Start of the flow table. -/
def flowBase (img : List Byte) : Nat := 64 + (mapPorts img).length * mapBytes img
/-- Entry `s` of the port map of port `p`: the flow-table position that owns the slot. -/
def slotOwner (img : List Byte) (p s : Nat) : Nat :=
  let k := ((mapPorts img).takeWhile (· != p)).length
  imgN img (64 + k * mapBytes img + 2 * s) 2
/-- Field of flow-table entry `i`. -/
def flowField (img : List Byte) (i at' n : Nat) : Nat := imgN img (flowBase img + 16 * i + at') n
def flowCount (img : List Byte) : Nat := imgN img 20 2

/-- Whether the port maps and the flow table are in order (R66, code 0x4). -/
def flowsOk (img : List Byte) : Bool :=
  decide (flowCount img ≤ 4096) &&
  ((mapPorts img).all fun p => (upto (imgN img 18 2)).all fun s =>
    slotOwner img p s == 0xFFFF || decide (slotOwner img p s < flowCount img)) &&
  allDistinct ((upto (flowCount img)).map fun i => flowField img i 0 2)

/-- Outcome of the checks of R67 on a readable image: stage_err, 0 where all pass. -/
def planErr (node len : Nat) (img : List Byte) : Nat :=
  if 0x40000 < len then 0x6
  else if len < flowBase img + 16 * flowCount img then 0xA
  else if crc32 (img.take 60 ++ [0, 0, 0, 0] ++ img.drop 64) ≠ imgN img 60 4 then 0x1
  else if imgN img 0 4 = 0 then 0xB
  else if imgN img 22 2 % 2 ^ 14 ≠ node then 0x2
  else if !geoOk { imgGeo img with slotLen := imgN img 16 2 } then 0x3
  else if !flowsOk img then 0x4
  else 0

/-- Whether this node is the acting root and runs pod frames (R66). -/
def actingRoot (d : Dev) : Bool := d.clk.mode == .pod && rb d fBridleStat 2
/-- Disarm an apply at the root; the disarm is announced (R67). -/
def disarm (d : Dev) : Dev :=
  if actingRoot d && rg d fPlanApply != 0 then
    let d := setRegN d fPlanApply 0
    { d with plans := { d.plans with announced := none, outbox := some 0 } }
  else d
def setStageErr (e : Nat) (d : Dev) : Dev := setF d fPlanStat 32 4 e
def setStandby (img : List Byte) (ok : Bool) (d : Dev) : Dev :=
  setB { d with plans := { d.plans with standby := img } } fPlanStat 36 ok

/-- PLAN_STAGE (R67): read and check the image at F_PLANBASE. -/
def planStage (withDrop : Bool) (d : Dev) : Dev :=
  if !running d then d
  else if withDrop then setStageErr 0x8 d
  else
    let d := disarm d
    let base := rf d fPlanBase 0 48
    let r := reqOf 10 0xFF
    if (badRange d false base 64).isSome then setStageErr 0x9 (setStandby [] false d)
    else match readErr d base 64 with
      | some e => setStageErr 0x9 (setStandby [] false (logErr e r d))
      | none =>
        let len := ld d (base + 28) 4
        if (badRange d false base len).isSome then setStageErr 0x9 (setStandby [] false d)
        else match readErr d base len with
          | some e => setStageErr 0x9 (setStandby [] false (logErr e r d))
          | none =>
            let d := correctSpans [(base, 64), (base, len)] r d
            let img := ldBytes d base (Nat.min (Nat.max len 64) 0x40000)
            let e := planErr (myNode d) len img
            setStageErr e (if e = 0 then setStandby (img.take len) true d else setStandby [] false d)

/-- PLAN_STAGE (R67). -/
def execPlanStage (withDrop : Bool) (s : State) : Out := onDev s (planStage withDrop)

/-- PLAN_DROP (R67): discard the staged plan. -/
def planDrop (withStage : Bool) (d : Dev) : Dev :=
  if !running d then d
  else if withStage then setStageErr 0x8 d
  else setStageErr 0 (setStandby [] false (disarm d))

/-- PLAN_DROP (R67). -/
def execPlanDrop (withStage : Bool) (s : State) : Out := onDev s (planDrop withStage)

/-- PLANAPPLY_WRITE (R66, R67): at the root a write arms or disarms; anywhere else it is ignored. -/
def planapplyWrite (v : Nat) (d : Dev) : Dev :=
  if !actingRoot d then d
  else if v = 0 then setStageErr 0 (disarm d)
  else if !rb d fPlanStat 36 then setStageErr 0x7 d
  else if v < frameNum d + 3 then setStageErr 0x5 d
  else
    let d := setStageErr 0 (setRegN d fPlanApply v)
    { d with plans := { d.plans with announced := some (v, imgGeo d.plans.standby), outbox := some v } }

/-- PLANAPPLY_WRITE (R67). -/
def execPlanapplyWrite (frame : Word) (s : State) : Out := onDev s (planapplyWrite frame.toNat)

/-- PLAN_ANNOUNCE (R65, R67): a member has received the root's apply frame (0: disarmed) and geometry; it mirrors them from its
next tick. -/
def execPlanAnnounce (frame : Word) (geo : Geometry) (s : State) : Out :=
  onDev s fun d => if d.clk.mode == .pod && !actingRoot d then { d with plans := { d.plans with inbox := some (frame.toNat, geo) } } else d

/-- At the tick of the frame before the apply frame, what counts of the standby bank (R65); at any tick, the mirrored
announcement (R67). -/
def planTick (d : Dev) : Dev :=
  let d := match d.plans.inbox with
    | some (f, g) =>
      let d := setRegN d fPlanApply f
      { d with plans := { d.plans with inbox := none, announced := if f = 0 then none else some (f, g) } }
    | none => d
  match d.plans.announced with
  | some (ap, g) =>
    if ap = frameNum d + 1 then
      { d with plans := { d.plans with snap := d.plans.standby, snapOk := rb d fPlanStat 36 && imgGeo d.plans.standby == g } }
    else d
  | none => d

/-- Refresh schedule of the frame that begins: what is owed is carried, and the pause interval is set by the stage in force
(R48, R49). -/
def refreshTick (d : Dev) : Dev :=
  forUp (fun st d =>
    modStack st (fun x =>
      { x with carried := x.owed, carriedDone := 0, pausesDone := 0, slackPaid := 0, waitUntil := none, logged := [],
               pause := if rf d (aStackTherm st) 8 2 = 0 then 4000000 else 2000000 }) d) 16 0 d

/-- PLAN_APPLY (R65, R67): in the apply frame the root's geometry comes into force and the node activates the plan that had
passed its checks, or runs with none. -/
def planApply (d : Dev) : Dev :=
  match d.plans.announced with
  | some (ap, g) =>
    if d.clk.mode == .pod && ap == frameNum d && ap != 0 then
      let d := setRegN (setGeo g d) fPlanApply 0
      let img := d.plans.snap
      let d := if d.plans.snapOk then
          let d := setB (setB (setF d fPlanStat 0 32 (imgN img 0 4)) fPlanStat 37 false) fPlanStat 36 false
          { d with plans := { d.plans with active := img, standby := [], snap := [], snapOk := false, announced := none } }
        else
          let d := setB (setF d fPlanStat 0 32 0) fPlanStat 37 true
          { d with plans := { d.plans with active := [], snap := [], snapOk := false, announced := none } }
      let id := rf d fPlanStat 0 32
      frecMod (frameNum d) (fun r =>
        { r with period := g.period, plan := id, flags := if id = 0 then r.flags ||| 4 else r.flags - (r.flags &&& 4) }) d
    else d
  | none => d

/-- PLAN_APPLY (R65). -/
def execPlanApply (s : State) : Out := onDev s planApply

/-! Refresh (R47 to R50). Intervals in units of 1/24 ns. -/

/-- Interval at which a refresh becomes owed: 3,906.25 ns at stage 0, 1,953.125 ns above (R47). -/
def owedEvery (d : Dev) (st : Nat) : Nat := if rf d (aStackTherm st) 8 2 = 0 then 93750 else 46875
/-- Refreshes the current slack has room for (R47, R49). -/
def slackFit (d : Dev) : Nat := (periodNs d - slackNs d) / 350
/-- Whether the stack's controller is refreshing in slack now. -/
def paying (d : Dev) (st : Nat) : Bool := (d.clk.inSlack || d.clk.mode == .waiting) && (stackAt d st).waitUntil.isNone
/-- Pay owed refresh back to back in slack, as many as fit before the next tick (R47). -/
def payNow (fit : Nat) (x : Stack) : Stack :=
  let n := Nat.min x.owed (fit - x.slackPaid)
  { x with owed := x.owed - n, slackPaid := x.slackPaid + n, carried := x.carriedDone, waitUntil := none }

/-- REFRESH_OWED (R47). -/
def refreshOwed (st : Nat) (d : Dev) : Dev :=
  let x := stackAt d st
  if !running d || x.parked || retired d st || decide (16 ≤ st) then d
  else
    let iv := owedEvery d st
    let at' := (x.owedAt / iv + 1) * iv
    let d := modStack st (fun x => { x with owedAt := at' }) (passTo at' d)
    if paying d st && (d.clk.mode == .waiting || decide ((stackAt d st).slackPaid < slackFit d)) then
      modStack st (fun x => { x with slackPaid := x.slackPaid + 1 }) d
    else if x.owed < 1024 then modStack st (fun x => { x with owed := x.owed + 1 }) d
    else if d.clk.inSlack then d
    else note 28 0xFFFF 512 (modStack st (fun x => { x with owed := 513, carried := x.carriedDone }) d)

/-- REFRESH_OWED (R47). -/
def execRefreshOwed (st : Nat) (s : State) : Out := onDev s (refreshOwed st)

/-- REFRESH_PAUSE (R48): the next pause of a frame longer than P pays all that is owed. -/
def refreshPause (st : Nat) (d : Dev) : Dev :=
  let x := stackAt d st
  let off := (x.pausesDone + 1) * x.pause
  if !running d || x.parked || x.pause == 0 || decide (periodNs d ≤ x.pause) || decide (slackNs d ≤ off) || d.clk.inSlack then d
  else
    let d := passTo (24 * ((rg d fFrameStart).toNat + off)) d
    modStack st (fun x => { x with owed := 0, carried := x.carriedDone, pausesDone := x.pausesDone + 1 }) d

/-- REFRESH_PAUSE (R48). -/
def execRefreshPause (st : Nat) (s : State) : Out := onDev s (refreshPause st)

/-- Spacing of the carried refreshes in ns (R49). -/
def forcedGap (d : Dev) (n : Nat) : Nat := Nat.max 350 (10 * (rf d fFrameGeo 24 24 / n))

/-- FORCED_REFRESH (R49): the next carried refresh is issued at its instant, if that lies before slack_start. -/
def forcedRefresh (st : Nat) (d : Dev) : Dev :=
  let x := stackAt d st
  let off := (x.carriedDone + 1) * forcedGap d x.carried
  if !running d || x.parked || decide (x.carried ≤ x.carriedDone) || decide (slackNs d ≤ off) || d.clk.inSlack then d
  else
    let d := passTo (24 * ((rg d fFrameStart).toNat + off)) d
    note 28 0xFFFF 1 (modStack st (fun x => { x with owed := x.owed - 1, carriedDone := x.carriedDone + 1 }) d)

/-- FORCED_REFRESH (R49). -/
def execForcedRefresh (st : Nat) (s : State) : Out := onDev s (forcedRefresh st)

/-- Whether a started bound command still has accesses to a stack (R50). -/
def boundOn (d : Dev) (st : Nat) : Bool := d.flights.any fun f => f.bound && f.waitingNow && f.stks.contains st

/-- Slack begins on a stack: it pays, or waits for bound accesses for at most 100 µs (R47, R50). -/
def slackStack (st : Nat) (d : Dev) : Dev :=
  if boundOn d st then modStack st (fun x => { x with waitUntil := some (d.clk.podT + 2400000) }) d
  else modStack st (payNow (slackFit d)) d

/-- SLACK_REFRESH_RESUME (R50): the accesses have ended, or 100 µs have passed; what no longer fits is carried. -/
def slackResume (st : Nat) (d : Dev) : Dev :=
  match (stackAt d st).waitUntil with
  | none => d
  | some t =>
    let d := if boundOn d st then passTo t d else d
    let left := (24 * ((rg d fFrameStart).toNat + periodNs d) - d.clk.podT) / (24 * 350)
    modStack st (payNow left) d

/-- SLACK_REFRESH_RESUME (R50). -/
def execSlackRefreshResume (st : Nat) (s : State) : Out := onDev s (slackResume st)

/-! Bridle (R51 to R62). -/

/-- Every queue with mgmt 0 is DISABLED (R62). -/
def jobQueuesOff (d : Dev) : Bool :=
  d.regs.all fun e =>
    !(decide (0x2000000 ≤ e.1 ∧ e.1 < 0x2200000 ∧ e.1 % 32 = 24) && wbits e.2 48 3 != 0 && !wbit (rg d (e.1 - 8)) 2)

/-- The time roles in force (R58). -/
def brRoot (d : Dev) : Nat := ef d fBridleCfg 0 14
def brBackup (d : Dev) : Nat := ef d fBridleCfg 14 14
def brSource (d : Dev) : Nat := ef d fBridleCfg 28 2
def brEnable (d : Dev) : Bool := rb d fBridleCfg 30

/-- Bridle state registers as local frames show them (R59, R61). -/
def bridleIdle (d : Dev) : Dev :=
  { (setRegN d fBridleStat 0xF8) with bridle := { d.bridle with holdStart := none, rootTick := none } }

/-- Begin holdover, if it has not begun (R55, R59). -/
def beginHoldover (d : Dev) : Dev :=
  let d := setB d fBridleStat 1 true
  match d.bridle.holdStart with
  | some _ => d
  | none => { d with bridle := { d.bridle with holdStart := some d.clk.cyc } }
/-- End holdover (R59). -/
def endHoldover (d : Dev) : Dev := { (setB d fBridleStat 1 false) with bridle := { d.bridle with holdStart := none } }

/-- A write of F_BRIDLECFG (R58, R62): one that changes enable is accepted only while every job queue is DISABLED. -/
def bridleWrite (v : Word) (d : Dev) : Dev :=
  let was := brEnable d
  let will := wbit v 30
  let w := (wordWrite ((regFields fBridleCfg).getD []) true false .all (rg d fBridleCfg) v).1
  if was == will then
    let d := setReg d fBridleCfg w
    if was then d else latch d fBridleCfg
  else if !jobQueuesOff d then d
  else
    let d := setReg d fBridleCfg w
    if will then
      let d := latch d fBridleCfg
      let d := { d with bridle := { d.bridle with enabledAt := d.clk.cyc } }
      -- a root without a source is in holdover from the enable (R59)
      if myNode d = brRoot d ∧ brSource d = 0 then beginHoldover d else d
    else
      -- any later enable takes no origin and counts frames on (R32, R54)
      let d := { d with clk := { d.clk with originTaken := true, everPod := true } }
      match d.clk.mode with
      | .waiting =>
        -- the clear acts at once: local frames resume at the next whole multiple of 1,000,000 ns
        let d := bridleIdle (latch d fBridleCfg)
        { d with clk := { d.clk with mode := .local', nextTick := some ((podNs d / 1000000 + 1) * 1000000), changeAt := none } }
      | .local' => latch d fBridleCfg
      | .pod => d

/-- BRIDLECFG_WRITE (R58). -/
def execBridlecfgWrite (value : Word) (by' : Agent) (s : State) : Out :=
  onDev s fun d => if by' == .job then d else bridleWrite value d
/-- BRIDLE_ENABLE (R62): a write that sets enable. -/
def execBridleEnable (value : Word) (by' : Agent) (s : State) : Out :=
  onDev s fun d => if by' == .job then d else bridleWrite (wput value 30 1 1) d
/-- BRIDLE_DISABLE (R62): a write that clears enable. -/
def execBridleDisable (value : Word) (by' : Agent) (s : State) : Out :=
  onDev s fun d => if by' == .job then d else bridleWrite (wput value 30 1 0) d

/-- Pod time steps to a value in ns. What is counted at whole multiples of pod time is counted from there (R47, R491). -/
def stepTime (ns : Nat) (d : Dev) : Dev :=
  let d := forUp (fun st d => modStack st (fun x => { x with owedAt := 24 * ns }) d) 16 0 d
  { d with clk := { d.clk with podT := 24 * ns }, trc := { d.trc with lastNs := ns }, pwr := { d.pwr with recAt := [] } }

/-- Pod time takes a value; that is the change from local to pod time (R54, R62). -/
def takeTime (ns : Nat) (d : Dev) : Dev :=
  let d := stepTime ns d
  { d with clk := { d.clk with originTaken := true, changeAt := some ns } }

/-- At a root the local frame has ended: it takes its origin, or waits for its source (R54, R62). -/
def rootChange (d : Dev) : Dev :=
  if d.clk.originTaken then { d with clk := { d.clk with changeAt := some (podNs d) } }
  else
    let src := brSource d
    if src = 0 then takeTime 0 d
    else if src = 1 then d
    else match d.bridle.ptp with
      | some off => takeTime ((podNs d : Int) + off).toNat d
      | none => d

/-- Spare port standing in for a dimension, or the dimension's own port: the port index of dimension `k` that is up (R52). -/
def dimPort (d : Dev) (k : Nat) : Option Nat :=
  let up (p : Nat) : Bool := rf d (fPortStat p) 0 3 == 2
  if k < 14 ∧ up k then some k
  else if up 14 ∧ ef d (fPortCtl 14) 16 2 = 1 ∧ ef d (fPortCtl 14) 18 4 = k then some 14
  else if up 15 ∧ ef d (fPortCtl 15) 16 2 = 1 ∧ ef d (fPortCtl 15) 18 4 = k then some 15
  else none

/-- Port of the parent: the lowest set bit of node XOR root whose link is up with its heartbeat present (R52). -/
def parentPort (d : Dev) : Option Nat :=
  (upto 14).findSome? fun k =>
    if bitAt (myNode d ^^^ brRoot d) k then
      match dimPort d k with
      | some p => if rb d fHbLost p then none else some p
      | none => none
    else none

/-- At each pod tick the root shows itself locked and a member chooses its parent (R52, R54, R59). -/
def bridleTick (first : Bool) (d : Dev) : Dev :=
  if rb d fBridleStat 2 || (first && myNode d == brRoot d) then
    let d := setF (setF (setB (setB d fBridleStat 0 true) fBridleStat 2 true) fBridleStat 3 5 31) fBridleStat 8 4 0
    if rb d fBridleStat 12 then endHoldover d
    else
      let d := if first then { d with bridle := { d.bridle with holdStart := some d.bridle.enabledAt } } else d
      beginHoldover d
  else
    match parentPort d with
    | some p =>
      let d := setF (setF d fBridleStat 3 5 p) fBridleStat 8 4 (popCount 14 (myNode d ^^^ brRoot d))
      if first then setB d fBridleStat 0 true else d
    | none => beginHoldover (setF (setF d fBridleStat 3 5 31) fBridleStat 8 4 0)

/-- BRIDLE_TIMESTAMP (R53): a two-way exchange on a link measures the residual; over the parent it keeps the member locked and
ends a holdover, and what it tells of the root's frames is kept for the first pod tick (R62). -/
def bridleTimestamp (p : Nat) (residual : BitVec 16) (root : Option RootTick) (d : Dev) : Dev :=
  if rf d (fPortStat p) 0 3 ≠ 2 ∨ !brEnable d then d
  else
    let d := match root with
      | some r => { d with bridle := { d.bridle with rootTick := some r } }
      | none => d
    if d.clk.mode == .pod && !rb d fBridleStat 2 && rf d fBridleStat 3 5 == p then
      setB (endHoldover (setF d fBridleStat 16 16 residual.toNat)) fBridleStat 0 true
    else d

/-- BRIDLE_TIMESTAMP (R53). -/
def execBridleTimestamp (p : Nat) (residual : BitVec 16) (root : Option RootTick) (s : State) : Out :=
  onDev s (bridleTimestamp p residual root)

/-- HEARTBEAT_LOST (R56): no heartbeat in two consecutive frames on an up port sets its bit of F_HBLOST. -/
def heartbeatLost (p : Nat) (d : Dev) : Dev :=
  if p < 16 ∧ rf d (fPortStat p) 0 3 = 2 ∧ tabGet (fun _ => 0) d.bridle.heard p + 2 ≤ frameNum d then setB d fHbLost p true else d

/-- HOLDOVER_EXPIRY (R55): a member in holdover for 10 ms clears locked. -/
def holdoverExpiry (d : Dev) : Dev :=
  match d.bridle.holdStart with
  | some t => if rb d fBridleStat 2 then d else noteFlag 8 (setB (pass (t + 6000000 - d.clk.cyc) d) fBridleStat 0 false)
  | none => d

/-- HOLDOVER_EXPIRY (R55). -/
def execHoldoverExpiry (s : State) : Out := onDev s holdoverExpiry

/-- ROOT_TAKEOVER (R55): the backup root becomes acting root and continues pod time from its own count. -/
def rootTakeover (d : Dev) : Dev :=
  if d.clk.mode == .pod && !rb d fBridleStat 2 && myNode d == brBackup d then
    bridleTick false (setB (setB d fBridleStat 2 true) fBridleStat 12 false)
  else d

/-- ROOT_TAKEOVER (R55). -/
def execRootTakeover (s : State) : Out := onDev s rootTakeover

/-- The root locks to its source, or loses it (R54, R508). -/
def srcLock (d : Dev) : Dev := endHoldover (setB d fBridleStat 12 true)
def srcLose (d : Dev) : Dev := beginHoldover (setB d fBridleStat 12 false)

/-- Whether this package reads its time inputs: it is the pod root with Bridle enabled (R508). -/
def readsSource (d : Dev) : Bool := brEnable d && myNode d == brRoot d && running d

/-- PPS_PULSE (R54, R508): a pulse `offNs` from the expected second. -/
def ppsPulse (offNs : Int) (d : Dev) : Dev :=
  if !readsSource d || brSource d != 1 then d
  else if d.clk.mode == .waiting && !d.clk.originTaken then setB (takeTime (d.bridle.podSec * 1000000000) d) fBridleStat 12 true
  else if d.clk.mode == .pod then (if offNs.natAbs ≤ 1000 then srcLock d else srcLose d)
  else d

/-- PPS_PULSE (R508). -/
def execPpsPulse (offNs : Int) (s : State) : Out := onDev s (ppsPulse offNs)
/-- PPS_LOST (R508): no pulse for 2 s, or one more than 1 µs off. -/
def execPpsLost (s : State) : Out :=
  onDev s fun d => if readsSource d && brSource d == 1 && d.clk.mode == .pod then srcLose d else d

/-- IEEE_1588_EVENT_MESSAGE (R54): the grandmaster's TAI time in ns at this instant. -/
def ptpMessage (tai : Nat) (d : Dev) : Dev :=
  if !readsSource d || decide (brSource d < 2) then d
  else
    let d := { d with bridle := { d.bridle with ptp := some ((tai : Int) - podNs d) } }
    if d.clk.mode == .waiting && !d.clk.originTaken then setB (takeTime tai d) fBridleStat 12 true
    else if d.clk.mode == .pod then srcLock d else d

/-- IEEE_1588_EVENT_MESSAGE (R54). -/
def execIeee1588EventMessage (tai : Nat) (s : State) : Out := onDev s (ptpMessage tai)
/-- IEEE_1588_SOURCE_LOST (R54). -/
def execIeee1588SourceLost (s : State) : Out :=
  onDev s fun d =>
    if readsSource d && decide (2 ≤ brSource d) then
      let d := { d with bridle := { d.bridle with ptp := none } }
      if d.clk.mode == .pod then srcLose d else d
    else d

/-- REFERENCE_CLOCK_RETURN (R26): the reference is back; the lost bits stay until Myeles clears them. -/
def execReferenceClockReturn (clk156 : Bool) (s : State) : Out :=
  onDev s fun d => { d with bridle := { d.bridle with refsLost := putBits d.bridle.refsLost (b2n clk156) 1 0 } }

end Sys2Proof.Machine
end

