-- ==== Sys2Proof/Machine/Stage.lean ====
section
/-!
DEFINITION. Machine/Stage.lean: element formats of the tile engines, stream tables, stage words, statistics entries and the
evaluation of a fused chain (R131, R153 to R166, R175 to R186), shared by the Planish array and the Chaser.
-/
namespace Sys2Proof.Machine

/-! Element formats (R131, R175). -/

/-- Floating-point format of codes 0 to 4. -/
def fmtF (c : Nat) : Fmt := if c = 0 then fp64 else if c = 1 then fp32 else if c = 2 then zh16 else if c = 3 then zq8 else zq8w
def isFl (c : Nat) : Bool := decide (c ≤ 4)
def isIn (c : Nat) : Bool := decide (6 ≤ c ∧ c ≤ 9)
/-- Bits of an integer or fixed-point format. -/
def intW (c : Nat) : Nat := if c = 6 then 8 else if c = 7 then 16 else if c = 8 ∨ c = 0xA then 32 else 64
/-- Stored bytes of an element (ZB4 and ZG64 are held in blocks). -/
def esz (c : Nat) : Nat :=
  if c = 0 then 8 else if c = 1 then 4 else if c = 2 then 2 else if c ≤ 4 then 1 else intW c / 8
/-- Stored bytes of a row of `n` elements. -/
def rowBytes (c n : Nat) : Nat := if c = 5 then n / 16 * 8 else if c = 0xC then n / 256 * 2112 else n * esz c

/-- A value in a chain: real or integer. -/
inductive Val where
  | f (x : Num)
  | i (x : Int)
  deriving DecidableEq, Repr

def Val.num : Val → Num | .f x => x | .i x => intN x
def Val.int : Val → Int | .f _ => 0 | .i x => x

/-- Value of an element code; `fx` is the binary point of a fixed-point format. -/
def valOf (c fx code : Nat) : Val :=
  if isFl c then .f (decodeF (fmtF c) code)
  else if isIn c then .i (sext (intW c) code)
  else .f (fixN fx (sext (intW c) code))

/-- Element `k` of row `m` of a matrix stored at `base` with stride `lda` and `rows` rows (R107, R132, R183). -/
def elemAt (d : Dev) (c fx base ld' rows m k : Nat) : Val :=
  if c = 5 then
    let w := ld d (base + m * ld' + 8 * (k / 16)) 8
    let ex := ld d (base + rows * ld' + m * (ld' / 8) + k / 16) 1
    .f (zb4Elem w ex (k % 16))
  else if c = 0xC then
    let blk := base + m * ld' + 2112 * (k / 256)
    .f (zgNum (ld d blk 1) (ld d (blk + 1) 1 % 16) (sext 64 (ld d (blk + 64 + 8 * (k % 256)) 8)))
  else valOf c fx (ld d (base + m * ld' + k * esz c) (esz c))

/-! Chain data (R153, R177). -/

/-- Bytes 8 to 63 of the continuation packets, joined. -/
def chainOf (cont : List Packet) : Nat := (cont.zipIdx.map fun (p, i) => (p.toNat >>> 64) <<< (448 * i)).foldl (· + ·) 0

/-- A stream-table entry (R155). -/
structure Stream where
  addr : Nat
  stride : Nat
  fmt : Nat
  kind : Nat
  raw : Nat
  deriving DecidableEq, Repr

def streamAt (ch at' : Nat) : Stream :=
  let r := bits ch (8 * at') 128
  ⟨bits r 0 48, bits r 48 32, bits r 80 4, bits r 84 4, r⟩

/-- A stage word (R158, R178). -/
structure StageW where
  op : Nat
  fmt : Nat
  rnd : Nat
  zsat : Bool
  sidx : Nat
  use : Bool
  hist : Bool
  isat : Bool
  xrnd : Nat
  top : Nat
  arg : Nat
  imm : Nat
  deriving DecidableEq, Repr

def stageAt (ch at' : Nat) : StageW :=
  let r := bits ch (8 * at') 64
  ⟨bits r 0 8, bits r 8 4, bits r 12 3, bitAt r 15, bits r 16 2, bitAt r 18, bitAt r 19, bitAt r 20, bits r 21 2, bits r 20 4,
    bits r 24 8, bits r 32 32⟩

def stagesFrom (ch at' : Nat) : Nat → List StageW
  | 0 => []
  | n + 1 => stageAt ch at' :: stagesFrom ch (at' + 8) n

/-- Statistics parameters of a STATS stage: qs, slot, E (R158). -/
def stQs (s : StageW) : Int := sext 16 (s.imm % 2 ^ 16)
def stSlot (s : StageW) : Nat := bits s.imm 16 8
def stE (s : StageW) : Nat := bits s.imm 24 8

/-! Statistics entries (R164 to R166). -/

/-- A statistics entry. -/
structure Stat where
  s1 : Int
  s2 : Int
  n : Nat
  qs : Int
  nan : Bool
  sat : Bool
  deriving DecidableEq, Repr

def statOf (d : Dev) (a : Nat) : Stat :=
  let fl := ld d (a + 30) 1
  ⟨sext 96 (ld d a 12), sext 96 (ld d (a + 12) 12), ld d (a + 24) 4, sext 16 (ld d (a + 28) 2), bitAt fl 0, bitAt fl 1⟩

def statBytes (s : Stat) : List Byte :=
  bytesOf 12 (wrapBits 96 s.s1) ++ bytesOf 12 (wrapBits 96 s.s2) ++ bytesOf 4 s.n ++ bytesOf 2 (wrapBits 16 s.qs) ++
    bytesOf 1 (b2n s.nan + 2 * b2n s.sat) ++ bytesOf 1 0

/-- A sum held at ±(2^95 − 1): the value and whether it was held. -/
def hold95 (x : Int) : Int × Bool :=
  let m : Int := 2 ^ 95 - 1
  if m < x then (m, true) else if x < -m then (-m, true) else (x, false)

/-- One value enters an entry (R165). -/
def statAdd (qs : Int) (e : Stat) (x : Num) : Stat :=
  match x with
  | .fin s m ex =>
    let i := (roundInt 0 s m (ex - qs)).1
    let a := hold95 (e.s1 + i)
    let b := hold95 (e.s2 + i * i)
    let full := decide (0xFFFFFFFF ≤ e.n)
    { e with s1 := a.1, s2 := b.1, n := if full then e.n else e.n + 1, sat := e.sat || a.2 || b.2 || full }
  | _ => { e with nan := true }

/-- The values of one block enter the entry of a row: from zero at the first update with init, else onto the stored entry,
where another quantum sets nan instead (R165). -/
def statUpdate (qs : Int) (fresh : Bool) (e : Stat) (xs : List Num) : Stat :=
  if fresh then xs.foldl (statAdd qs) ⟨0, 0, 0, qs, false, false⟩
  else if e.qs ≠ qs then { e with nan := true }
  else xs.foldl (statAdd qs) e

/-- Row parameters of DNORM (R166): mean, rstd, flags, whether a sat flag was set. -/
def dnormRow (d : Dev) (rev fpref addr m e eps : Nat) : Num × Num × Nat × Bool :=
  let es := (upto e).map fun j => statOf d (addr + (m * e + j) * 32)
  let n := es.foldl (fun a x => a + x.n) (0 : Nat)
  let q := match es with | x :: _ => x.qs | [] => 0
  let sat := es.any Stat.sat
  if n = 0 ∨ (es.any fun x => x.nan || x.qs != q) then (.nan false, .nan false, flNV, sat)
  else
    let s1 := es.foldl (fun a x => a + x.s1) (0 : Int)
    let s2 := es.foldl (fun a x => a + x.s2) (0 : Int)
    let scale (v : Int) (k : Int) : Num := .fin (decide (v < 0)) v.natAbs k
    let mean := encodeX fp32 0 false (divN (scale s1 q) (intN n))
    let v := (n : Int) * s2 - s1 * s1
    let var := encodeX fp32 0 false (divN (scale (if v < 0 then 0 else v) (2 * q)) (intN ((n : Int) * n)))
    let ve := encodeX fp32 0 false (addN 0 (decodeF fp32 var.1) (decodeF fp32 eps))
    let r := boundedFn rev fpref fnRsqrt fp32 (decodeF fp32 ve.1)
    (decodeF fp32 mean.1, decodeF fp32 r.1, mean.2 ||| var.2 ||| ve.2 ||| r.2, sat)

/-! Evaluation of one element through the stages. -/

/-- What a chain needs beside its stages: the table set in use, its streams, the size of the matrix, the row parameters of each
DNORM stage of this row. -/
structure Env where
  rev : Nat
  fpref : Nat
  streams : List Stream
  rows : Nat
  cols : Nat
  deriving DecidableEq, Repr

def Env.stream (v : Env) (i : Nat) : Stream := v.streams.getD i ⟨0, 0, 0, 0, 0⟩

/-- Operand of a stage at (m, n), the first of a pair or the only one (R155, R184). -/
def operand (d : Dev) (v : Env) (s : StageW) (m n : Nat) : Val :=
  let e := v.stream s.sidx
  let one (i : Nat) : Val := valOf e.fmt 0 (ld d (e.addr + i * esz e.fmt) (esz e.fmt))
  if e.kind = 1 then one n
  else if e.kind = 2 then one m
  else if e.kind = 4 ∨ e.kind = 5 then one (2 * n)
  else elemAt d e.fmt 0 e.addr e.stride v.rows m n
/-- Second element of a pair. -/
def operand2 (d : Dev) (v : Env) (s : StageW) (n : Nat) : Val :=
  let e := v.stream s.sidx
  valOf e.fmt 0 (ld d (e.addr + (2 * n + 1) * esz e.fmt) (esz e.fmt))

/-- What a stage hands to its rounding: the exact value and flags. -/
def stageExact (d : Dev) (v : Env) (s : StageW) (m n w : Nat) (x : Val) : Val × Nat :=
  let imm : Val := match x with | .f _ => .f (decodeF fp32 s.imm) | .i _ => .i (sext 32 s.imm)
  let o : Val := if s.use then operand d v s m n else imm
  match x with
  | .f a =>
    let b := o.num
    let fl (r : Flagged Num) : Val × Nat := (.f r.1, r.2)
    if s.op = 0x10 then fl (mulN a b)
    else if s.op = 0x11 then fl (addN s.rnd a b)
    else if s.op = 0x12 ∨ s.op = 0x01 then fl (fmaN s.rnd a b (operand2 d v s n).num)
    else if s.op = 0x13 then fl (fmaN s.rnd a (decodeF fp32 s.imm) b)
    else if s.op = 0x20 then fl (subN s.rnd a b)
    else if s.op = 0x21 then fl (divN a b)
    else if s.op = 0x22 then fl (sqrtN a)
    else if s.op = 0x23 then fl (maxN a b)
    else if s.op = 0x24 then fl (minN a b)
    else if s.op = 0x25 then fl (a.abs, 0)
    else if s.op = 0x26 then fl (a.negate, 0)
    else if s.op = 0x27 then fl (if a.abs.isNan then a else if b.neg then a.abs.negate else a.abs, if b.isSig then flNV else 0)
    else if s.op = 0x28 then
      let t := if a.isNan || b.isNan then s.arg == 1
        else if s.arg = 0 then eqN a b else if s.arg = 1 then !eqN a b else if s.arg = 2 then ltN false a b
        else if s.arg = 3 then !ltN false b a else if s.arg = 4 then ltN false b a else !ltN false a b
      (.i (b2n t), sigFlag a b)
    else if s.op = 0x03 ∧ s.arg = 0 then fl (maxN a (.fin false 0 0))
    else if s.op = 0x03 ∧ s.arg = 1 then
      let c := decodeF fp32 s.imm
      if a.isNan then fl (a, 0) else let r := maxN a c.negate; let t := minN r.1 c; fl (t.1, r.2 ||| t.2)
    else fl (a, 0)
  | .i a =>
    let b := o.int
    let pat (y : Int) : Nat := wrapBits w y
    let cnt := wrapBits 8 b
    if s.op = 0x10 then (.i (a * b), 0)
    else if s.op = 0x11 then (.i (a + b), 0)
    else if s.op = 0x12 then (.i (a * b + (operand2 d v s n).int), 0)
    else if s.op = 0x13 then (.i (a * sext 32 s.imm + b), 0)
    else if s.op = 0x20 then (.i (a - b), 0)
    else if s.op = 0x23 then (.i (if a < b then b else a), 0)
    else if s.op = 0x24 then (.i (if b < a then b else a), 0)
    else if s.op = 0x25 then (.i a.natAbs, 0)
    else if s.op = 0x26 then (.i (-a), 0)
    else if s.op = 0x27 then (.i (if b < 0 then -(a.natAbs : Int) else a.natAbs), 0)
    else if s.op = 0x28 then
      let t := if s.arg = 0 then a == b else if s.arg = 1 then a != b else if s.arg = 2 then decide (a < b)
        else if s.arg = 3 then decide (a ≤ b) else if s.arg = 4 then decide (b < a) else decide (b ≤ a)
      (.i (b2n t), 0)
    else if s.op = 0x03 ∧ s.arg = 0 then (.i (if a < 0 then 0 else a), 0)
    else if s.op = 0x30 then (.i (if s.isat then a * 2 ^ cnt else sext w (pat (a * 2 ^ cnt))), 0)
    else if s.op = 0x31 then (.i (shiftRound s.xrnd a cnt), 0)
    else if s.op = 0x32 then (.i (if w ≤ cnt then 0 else pat a >>> cnt : Nat), 0)
    else if s.op = 0x33 then (.i (sext 64 (wrapBits 64 a &&& wrapBits 64 b)), 0)
    else if s.op = 0x34 then (.i (sext 64 (wrapBits 64 a ||| wrapBits 64 b)), 0)
    else if s.op = 0x35 then (.i (sext 64 (wrapBits 64 a ^^^ wrapBits 64 b)), 0)
    else if s.op = 0x36 then (.i (-a - 1), 0)
    else (.i a, 0)

/-- Whether a stage's function is a bounded one. -/
def isBounded (s : StageW) : Bool := (s.op == 0x03 && decide (2 ≤ s.arg)) || s.op == 0x29

/-- Round a stage's exact value into its declared format (R104, R106, R109, R111, R160, R180); `fromFl`: the stage's input is
real. -/
def stageRound (s : StageW) (fromFl : Bool) (x : Val) : Flagged Nat :=
  if isFl s.fmt then encodeF (fmtF s.fmt) s.rnd s.zsat x.num
  else if isIn s.fmt then
    match x with
    | .f a => let r := toIntN s.rnd (intW s.fmt) true a; (wrapBits (intW s.fmt) r.1, r.2)
    | .i a =>
      -- bitwise operations, LSR and comparisons ignore isat
      let keep := decide (0x32 ≤ s.op) || s.op == 0x28
      if s.isat && !keep then let c := clampInt (intW s.fmt) true a; (wrapBits (intW s.fmt) c.1, if c.2 then flSAT else 0)
      else let _ := fromFl; (wrapBits (intW s.fmt) a, 0)
  else let r := toFix s.xrnd (intW s.fmt) s.arg x.num; (wrapBits (intW s.fmt) r.1, r.2)

/-- Outcome of one element: its last code, format and value; flags; what was binned and whether its rounding saturated; what
STORE stages write; what STATS stages take in. -/
structure EOut where
  code : Nat
  fmt : Nat
  v : Val
  fl : Nat
  binned : Option (Num × Bool)
  stores : List (Nat × Nat)
  stats : List Num
  deriving DecidableEq, Repr

/-- One stage on one element; `dn` gives the row parameters of DNORM stages. -/
def runStage (d : Dev) (v : Env) (dn : StageW → Num × Num × Nat × Bool) (m n : Nat) (acc : EOut) (s : StageW) : EOut :=
  if s.op = 0x15 then
    -- the value is unchanged; a NaN is handed on as the canonical one (R101, R159)
    let c := match acc.v with
      | .f x => encodeF (fmtF acc.fmt) 0 false x
      | .i a => (wrapBits (intW acc.fmt) a, 0)
    { acc with code := c.1, v := valOf acc.fmt 0 c.1, fl := acc.fl ||| c.2, stats := acc.stats ++ [acc.v.num] }
  else
    let fromFl := match acc.v with | .f _ => true | .i _ => false
    let r : Val × Flagged Nat :=
      if s.op = 0x02 then
        let p := dn s
        let a := encodeX (fmtF s.fmt) s.rnd s.zsat (subN s.rnd acc.v.num p.1)
        let e := mulN (decodeF (fmtF s.fmt) a.1) p.2.1
        let b := encodeX (fmtF s.fmt) s.rnd s.zsat e
        (.f e.1, (b.1, a.2 ||| b.2 ||| p.2.2.1))
      else if isBounded s then
        let fn := if s.op = 0x29 then 0x100 + s.arg else s.arg
        let g := if (fmtF s.fmt).short then fp32 else fmtF s.fmt
        let y := boundedFn v.rev v.fpref fn g acc.v.num
        let c := if (fmtF s.fmt).short then encodeF (fmtF s.fmt) s.rnd false (decodeF fp32 y.1) else (y.1, 0)
        (.f (decodeF g y.1), (c.1, y.2 ||| c.2))
      else
        let e := stageExact d v s m n (intW acc.fmt) acc.v
        let c := stageRound s fromFl e.1
        (e.1, (c.1, e.2 ||| c.2))
    let code := r.2.1
    { code := code, fmt := s.fmt, v := if s.fmt = 0xA ∨ s.fmt = 0xB then r.1 else valOf s.fmt 0 code, fl := acc.fl ||| r.2.2,
      binned := if s.hist then some (r.1.num, r.2.2 &&& flSAT != 0) else acc.binned,
      stores := if s.op = 0x16 then acc.stores ++ [(s.sidx, code)] else acc.stores,
      stats := acc.stats }

/-- An element through all stages, from value `x` in format `c` with flags `fl`. -/
def runStages (d : Dev) (v : Env) (dn : StageW → Num × Num × Nat × Bool) (m n : Nat) (sts : List StageW) (x : Val)
    (c code fl : Nat) : EOut :=
  sts.foldl (runStage d v dn m n) ⟨code, c, x, fl, none, [], []⟩

/-! Histograms (R125, R126) and flags (R115). -/


/-- Bin one value. -/
def histAdd (x : Num) (sat : Bool) (h : Hist) : Hist :=
  { h with bins := tabMod (fun _ => 0) h.bins (binOf h.base x) (fun c => satTo 0xFFFFFFFF (c + 1)), total := (h.total + 1) % 2 ^ 64,
           sat := if sat then satTo 0xFFFFFFFF (h.sat + 1) else h.sat }

/-- Bin a value on a tile: hsel 0 Planish, 1 Chaser. -/
def binValue (t hsel : Nat) (b : Option (Num × Bool)) (d : Dev) : Dev :=
  match b with
  | none => d
  | some (x, sat) =>
    modTile t (fun s => if hsel = 0 then { s with h0 := histAdd x sat s.h0 } else { s with h1 := histAdd x sat s.h1 }) d

/-- Exception flags of a tile are sticky (R115). -/
def raiseFlags (t fl : Nat) (d : Dev) : Dev := setF d (aFpXcpt t) 0 6 (rf d (aFpXcpt t) 0 6 ||| fl)

/-- Table revision a command that started at its issue uses (R197). -/
def revOf (d : Dev) (f : Flight) (t : Nat) : Nat :=
  match d.tables.prev with
  | some (cyc, rev) => if f.issued < cyc then rev else rf d (aChTab t) 0 16
  | none => rf d (aChTab t) 0 16

/-! Placement and overlap (R133, R134, R156, R184). -/

/-- Whether a range lies in the command's tile store or in a stack of the tile's own A-die. -/
def nearMem (d : Dev) (t a n : Nat) : Bool :=
  inTileStore d t a n || (a / stackSpan == t / 8 && decide (a + n ≤ (t / 8 + 1) * stackSpan) && inStacks d a n)
/-- Whether an address lies in a stack. -/
def inStack (a : Nat) : Bool := decide (a < 8 * stackSpan)
/-- Whether two byte ranges overlap. -/
def overlap (a n b m : Nat) : Bool := decide (a < b + m ∧ b < a + n)

/-- E of the statistics plane a stream holds: the largest of the stages that name it. -/
def planeE (sts : List StageW) (i : Nat) : Nat :=
  sts.foldl (fun e s => if s.use && s.sidx == i && (s.op == 0x15 || s.op == 0x02) then
    Nat.max e (if s.op = 0x15 then stE s else s.arg) else e) 1

/-- Extent of stream `i` in bytes. -/
def streamLen (sts : List StageW) (i : Nat) (s : Stream) (rows cols k : Nat) : Nat :=
  if s.kind = 1 then cols * esz s.fmt
  else if s.kind = 2 then rows * esz s.fmt
  else if s.kind = 4 then 2 * cols * esz s.fmt
  else if s.kind = 5 then 2 * k * esz s.fmt
  else if s.kind = 6 ∨ s.kind = 7 then rows * s.stride
  else rows * planeE sts i * 32

/-- Reserved bits of a stream entry (R155). -/
def streamClean (s : Stream) : Bool :=
  if s.kind = 0 then s.raw == 0
  else bits s.raw 88 40 == 0 && (s.kind == 6 || s.kind == 7 || s.stride == 0) && (s.kind != 8 && s.kind != 9 || s.fmt == 0)

/-- Range checks of one stream entry (R155, R156): kind, format, alignment, placement, stride. -/
def streamOk (d : Dev) (t : Nat) (chaser : Bool) (sts : List StageW) (i rows cols k : Nat) (s : Stream) : Bool :=
  s.kind == 0 ||
  ((s.kind == 1 || s.kind == 2 || s.kind == 4 || (s.kind == 5 && !chaser) || (decide (6 ≤ s.kind) && decide (s.kind ≤ 9))) &&
   (decide (s.fmt ≤ 4) || (chaser && isIn s.fmt)) && s.addr % 64 == 0 &&
   ((s.kind != 6 && s.kind != 7) || (s.stride % 64 == 0 && decide (rowBytes s.fmt cols ≤ s.stride))) &&
   nearMem d t s.addr (streamLen sts i s rows cols k))

/-- Whether a stream is written. -/
def Stream.written (s : Stream) : Bool := s.kind == 7 || s.kind == 9

/-- Whether the written streams overlap none of the ranges in `others` and no other stream, and no MAT_IN overlaps the output
except by coinciding with it (R156). -/
def streamsApart (sts : List StageW) (ss : List Stream) (rows cols k : Nat) (others : List (Nat × Nat))
    (out : Nat × Nat × Nat) (outW : Nat) : Bool :=
  ss.zipIdx.all fun (s, i) =>
    if s.kind = 0 then true
    else
      let n := streamLen sts i s rows cols k
      (!s.written || ((others.all fun (a, m) => !overlap s.addr n a m) && (ss.zipIdx.all fun (s', j) =>
        j == i || s'.kind == 0 || !overlap s.addr n s'.addr (streamLen sts j s' rows cols k)))) &&
      (s.kind != 6 || !overlap s.addr n out.1 out.2.1 || (s.addr == out.1 && s.stride == out.2.2 && esz s.fmt == outW))

/-- Stream kinds an operation takes (R159, R179); none: it takes no operand. `chaser` adds MAT_IN to the two-operand ones. -/
def opKinds (chaser : Bool) (op : Nat) : List Nat :=
  if op = 0x01 then [5]
  else if op = 0x02 then [8]
  else if op = 0x12 then [4]
  else if op = 0x13 then [6]
  else if op = 0x15 then [9]
  else if op = 0x16 then [7]
  else if op = 0x10 ∨ op = 0x11 then (if chaser then [1, 2, 6] else [1, 2])
  else if chaser ∧ (op = 0x20 ∨ op = 0x21 ∨ op = 0x23 ∨ op = 0x24 ∨ op = 0x27 ∨ op = 0x28 ∨ (0x30 ≤ op ∧ op ≤ 0x35)) then [1, 2, 6]
  else []
/-- Operations that may take their operand from imm. -/
def immOk (op : Nat) : Bool :=
  op == 0x10 || op == 0x11 || op == 0x20 || op == 0x21 || op == 0x23 || op == 0x24 || op == 0x27 || op == 0x28 ||
    (decide (0x30 ≤ op) && decide (op ≤ 0x35))

/-- Reserved bits of a stage word (R158, R178). -/
def stageClean (chaser prologue : Bool) (s : StageW) : Bool :=
  (!s.zsat || s.fmt == 2) && (!prologue || !s.hist) && (if chaser then !bitAt s.top 3 else s.top == 0) &&
  (if s.op = 0x03 ∨ s.op = 0x02 ∨ s.op = 0x29 ∨ s.op = 0x28 then true
   else if s.op = 0x15 then decide (s.arg ≤ 1)
   else if s.op = 0x14 ∧ (s.fmt = 0xA ∨ s.fmt = 0xB ∨ s.fmt = 0xC) then true
   else s.arg == 0)

/-- Range rules common to both chains: rounding, stream use, functions (R157 to R161, R165, R166). `xf`: the input's format;
`xfl`: it counts as floating point. -/
def stageOk (chaser : Bool) (ss : List Stream) (s : StageW) (xf : Nat) : Bool :=
  let ks := opKinds chaser s.op
  let e := ss.getD s.sidx ⟨0, 0, 0, 0, 0⟩
  decide (s.rnd ≤ 4) &&
  (if s.use then decide (s.sidx ≤ 2) && ks.contains e.kind else ks.isEmpty || immOk s.op) &&
  (s.op != 0x03 || (decide (s.arg ≤ 7) && (decide (s.arg < 2) || (decide (1 ≤ xf ∧ xf ≤ 4) && decide (1 ≤ s.fmt ∧ s.fmt ≤ 4))) &&
    (s.arg != 1 || (match decodeF fp32 s.imm with | .fin n m _ => !n || m == 0 | _ => false)))) &&
  (s.op != 0x29 || (decide (s.arg ≤ 4) && decide (1 ≤ xf ∧ xf ≤ 4) && decide (1 ≤ s.fmt ∧ s.fmt ≤ 4))) &&
  (s.op != 0x15 || (s.fmt == xf && decide (-149 ≤ stQs s ∧ stQs s ≤ 127) && decide (stSlot s ≤ 63) &&
    decide (1 ≤ stE s ∧ stE s ≤ 64) && decide (stSlot s < stE s))) &&
  (s.op != 0x02 || decide (1 ≤ s.arg ∧ s.arg ≤ 64)) &&
  (s.op != 0x16 || e.fmt == s.fmt) &&
  (s.op != 0x28 || decide (s.arg ≤ 5))

end Sys2Proof.Machine
end

