-- ==== Sys2Proof/Machine/Planish.lean ====
section
/-!
DEFINITION. Machine/Planish.lean: the matrix array: MMA with its fused prologue and epilogue, WLOAD, the slab tag, predictions
(R129 to R170).
-/
namespace Sys2Proof.Machine

/-! Parameters (R135, R138, R153, R154). -/

/-- An MMA or WLOAD as its packets spell it. -/
structure Mma where
  t : Nat
  fused : Bool
  afmt : Nat
  bfmt : Nat
  shape : Nat
  wpre : Bool
  satRep : Bool
  qz : Int
  M : Nat
  N : Nat
  K : Nat
  a : Nat
  b : Nat
  c : Nat
  lda : Nat
  ldb : Nat
  ldc : Nat
  sfmt : Nat
  prnd : Nat
  pzsat : Bool
  pro : List StageW
  epi : List StageW
  streams : List Stream
  chain : Nat
  deriving DecidableEq, Repr

/-- Set the binning mark on the last stage (R163). -/
def markLast : List StageW → List StageW
  | [] => []
  | [s] => [{ s with hist := true }]
  | s :: t => s :: markLast t

def mmaOf (q : Nat) (p : Packet) (cont : List Packet) : Mma :=
  let fused := pkMore p
  let ch := chainOf cont
  let pc := if fused then bits ch 4 2 else 0
  let ec := if fused then bits ch 0 4 else 1
  let hist := pbits p 12 2 1 == 1
  let store : StageW := ⟨0x14, pbits p 13 0 4, pbits p 13 4 3, pbits p 13 7 1 == 1, 0, false, hist, false, 0, 0, 0, 0⟩
  let epi := if fused then stagesFrom ch (56 + 8 * pc) ec else [store]
  { t := qTile q, fused := fused, afmt := pbits p 10 0 4, bfmt := pbits p 10 4 4, shape := pbits p 11 0 4,
    wpre := pbits p 12 0 1 == 1, satRep := pbits p 12 1 1 == 1, qz := sext 16 (pbytes p 14 2), M := pbytes p 16 4,
    N := pbytes p 20 4, K := pbytes p 24 4, a := pbytes p 28 6, b := pbytes p 34 6, c := pbytes p 40 6, lda := pbytes p 46 4,
    ldb := pbytes p 50 4, ldc := pbytes p 54 4, sfmt := if fused then bits ch 8 4 else pbits p 10 0 4,
    prnd := if fused then bits ch 12 3 else 0, pzsat := fused && bitAt ch 15, pro := stagesFrom ch 56 pc,
    epi := if fused && hist then markLast epi else epi, streams := if fused then [streamAt ch 8, streamAt ch 24, streamAt ch 40] else [],
    chain := ch }

/-- Format of C: that of the last epilogue stage. -/
def Mma.cfmt (x : Mma) : Nat := match x.epi.getLast? with | some s => s.fmt | none => 0

/-! Shapes and slabs (R129, R141, R145). -/

/-- Native slab of a format: K_s, N_s. -/
def nativeSlab (c : Nat) : Nat × Nat :=
  if c = 5 then (512, 128) else if c = 3 ∨ c = 4 then (256, 128) else if c = 2 then (128, 128) else if c = 1 then (64, 32) else (32, 32)
/-- M_b of a shape. -/
def shapeM (s : Nat) : Nat :=
  if s = 1 then 256 else if s = 2 ∨ s = 7 then 128 else if s = 3 then 64 else if s = 4 then 16 else 512
/-- Slab K_b × N_b of a shape and format. -/
def slabOf (s c : Nat) : Nat × Nat :=
  let n := nativeSlab c
  (if s = 6 ∨ s = 7 then n.1 / 2 else n.1, if s = 5 ∨ s = 7 then n.2 / 2 else n.2)
/-- Stored bytes of `k` stationary elements of one row, with exponent bytes. -/
def slabRow (c k : Nat) : Nat := if c = 5 then k / 2 + k / 16 else k * esz c
/-- Slab load time L_w. -/
def loadTime (s c : Nat) : Nat := let k := slabOf s c; k.2 * slabRow c k.1 / 128

def Mma.kb (x : Mma) : Nat := (slabOf x.shape x.bfmt).1
def Mma.nb (x : Mma) : Nat := (slabOf x.shape x.bfmt).2
def Mma.mb (x : Mma) : Nat := shapeM x.shape
def Mma.chunks (x : Mma) : Nat := cdiv x.K x.kb
def Mma.mBlocks (x : Mma) : Nat := cdiv x.M x.mb
def Mma.nBlocks (x : Mma) : Nat := cdiv x.N x.nb
/-- Rows of block row `i`, columns of block column `j`, length of chunk `kc`. -/
def Mma.rowsOf (x : Mma) (i : Nat) : Nat := Nat.min x.mb (x.M - i * x.mb)
def Mma.colsOf (x : Mma) (j : Nat) : Nat := Nat.min x.nb (x.N - j * x.nb)
def Mma.lenOf (x : Mma) (kc : Nat) : Nat := Nat.min x.kb (x.K - kc * x.kb)

/-! Packet checks (R78, R130 to R138, R153 to R163). -/

/-- Whether reserved fields that depend on others are zero (R135, R138, R153, R154, R155, R158). -/
def mmaClean (x : Mma) (p : Packet) : Bool :=
  if x.fused then
    pbytes p 13 1 == 0 && bits x.chain 6 2 == 0 && bits x.chain 16 48 == 0 && (!x.pzsat || x.afmt == 2) &&
    x.streams.all streamClean && x.pro.all (stageClean false true) && x.epi.all (stageClean false false) &&
    x.chain >>> (8 * (56 + 8 * (x.pro.length + x.epi.length))) == 0
  else pbits p 13 7 1 == 0 || pbits p 13 0 4 == 2

/-- Formats along a chain: every stage with the format of its input. -/
def withInputs (c : Nat) : List StageW → List (StageW × Nat)
  | [] => []
  | s :: t => (s, c) :: withInputs (if s.op = 0x15 then c else s.fmt) t

/-- Last format of a prologue. -/
def lastFmt (c : Nat) (l : List StageW) : Nat := match l.getLast? with | some s => s.fmt | none => c

/-- Operations of prologues and epilogues (R159). -/
def proOp (op : Nat) : Bool := op == 0x01 || op == 0x02 || op == 0x03
def epiOp (op : Nat) : Bool := op == 0x03 || (decide (0x10 ≤ op) && decide (op ≤ 0x16))

/-- Stored bytes of the ranges of A and B, exponent planes included (R133). -/
def Mma.aLen (x : Mma) : Nat := x.M * x.lda + (if x.sfmt = 5 then x.M * (x.lda / 8) else 0)
def Mma.bLen (x : Mma) : Nat := x.N * x.ldb + (if x.bfmt = 5 then x.N * (x.ldb / 8) else 0)

/-- Whether an MMA's parameters are in range (detail 6 otherwise). -/
def mmaInRange (d : Dev) (x : Mma) (npkt : Nat) : Bool :=
  let fl (c : Nat) : Bool := decide (c ≤ 5)
  fl x.afmt && fl x.bfmt && fl x.sfmt && decide (x.shape ≤ 7) &&
  ((decide (3 ≤ x.afmt ∧ x.afmt ≤ 4) && decide (3 ≤ x.bfmt ∧ x.bfmt ≤ 4)) || x.afmt == x.bfmt) &&
  decide (1 ≤ x.M ∧ x.M ≤ 16777216 ∧ 1 ≤ x.N ∧ x.N ≤ 1048576 ∧ 1 ≤ x.K ∧ x.K ≤ 1048576) &&
  (if x.afmt = 5 then decide (-270 ≤ x.qz ∧ x.qz ≤ 238) else x.qz == 0) &&
  (x.afmt != 5 && x.sfmt != 5 || x.K % 16 == 0) &&
  x.a % 64 == 0 && x.b % 64 == 0 && x.c % 64 == 0 && x.lda % 64 == 0 && x.ldb % 64 == 0 && x.ldc % 64 == 0 &&
  decide (rowBytes x.sfmt x.K ≤ x.lda ∧ rowBytes x.bfmt x.K ≤ x.ldb ∧ rowBytes x.cfmt x.N ≤ x.ldc) &&
  x.epi.all (fun s => decide (s.fmt ≤ 4) && decide (s.rnd ≤ 4)) &&
  inTileStore d x.t x.b x.bLen && nearMem d x.t x.a x.aLen && nearMem d x.t x.c (x.M * x.ldc) &&
  !overlap x.c (x.M * x.ldc) x.a x.aLen && !overlap x.c (x.M * x.ldc) x.b x.bLen &&
  (!x.fused ||
    (decide (1 ≤ x.epi.length ∧ x.epi.length ≤ 8) &&
     npkt == 1 + (1 + cdiv (8 * (x.pro.length + x.epi.length)) 56) && decide (x.prnd ≤ 4) &&
     (x.sfmt != 5 || (x.pro.isEmpty && x.afmt == 5)) &&
     (x.afmt != 5 || x.sfmt == 5 || (let c := lastFmt x.sfmt x.pro; c == 1 || c == 2)) &&
     x.pro.all (fun s => proOp s.op && decide (s.fmt ≤ 4)) && x.epi.all (fun s => epiOp s.op) &&
     (withInputs x.sfmt x.pro).all (fun (s, c) => stageOk false x.streams s c) &&
     (withInputs (match x.epi with | s :: _ => s.fmt | [] => 0) x.epi).all (fun (s, c) => stageOk false x.streams s c) &&
     decide ((x.epi.filter (·.hist)).length ≤ 1) &&
     x.streams.zipIdx.all (fun (s, i) => streamOk d x.t false (x.pro ++ x.epi) i x.M x.N x.K s) &&
     streamsApart (x.pro ++ x.epi) x.streams x.M x.N x.K [(x.a, x.aLen), (x.b, x.bLen), (x.c, x.M * x.ldc)]
       (x.c, x.M * x.ldc, x.ldc) (esz x.cfmt)))

/-- Whether a second binning point is named: by the head and by a stage word other than the last (R163). -/
def mmaHistTwice (x : Mma) (p : Packet) : Bool :=
  x.fused && pbits p 12 2 1 == 1 &&
    decide (0 < ((stagesFrom x.chain (56 + 8 * x.pro.length) x.epi.length).filter (·.hist)).length)

/-- Whether a WLOAD's parameters are in range (R138). -/
def wloadInRange (d : Dev) (x : Mma) : Bool :=
  decide (x.bfmt ≤ 5) && decide (x.shape ≤ 7) && decide (1 ≤ x.N ∧ x.N ≤ 1048576 ∧ 1 ≤ x.K ∧ x.K ≤ 1048576) &&
  (x.bfmt != 5 || x.K % 16 == 0) && x.b % 64 == 0 && x.ldb % 64 == 0 && decide (rowBytes x.bfmt x.K ≤ x.ldb) &&
  inTileStore d x.t x.b x.bLen

/-- Parameter bits MMA and WLOAD use. -/
def planishUsed (op : Nat) : List (Nat × Nat) :=
  if op = 0x20 then [(80, 8), (88, 4), (96, 3), (104, 8), (112, 352)]
  else [(84, 4), (88, 4), (160, 64), (272, 48), (400, 32)]

/-! Predictions (R145 to R148, R168). -/

/-- Row pace of a pass over block (i, j), chunk kc (R146, R168). -/
def Mma.pace (x : Mma) (j kc : Nat) (last : Bool) : Nat :=
  let ra := if inStack x.a then slabRow x.sfmt (x.lenOf kc) else 0
  let n := x.colsOf j
  let rc := if last then
      (if inStack x.c then n * esz x.cfmt else 0) +
      (x.streams.map fun s => if inStack s.addr then
        (if s.kind = 6 ∨ s.kind = 7 then n * esz s.fmt else if s.kind = 9 then 64 else 0) else 0).foldl (· + ·) 0
    else 0
  Nat.max 1 (Nat.max (cdiv ra 128) (cdiv rc 128))

/-- T_p of a pass (R145, R148). -/
def Mma.passTime (x : Mma) (i j kc : Nat) : Nat :=
  let last := kc + 1 == x.chunks
  let c := x.pace j kc last
  let m := x.rowsOf i
  if 4096 < m * c + 1 then m * c + cdiv (m * c) 4095 else Nat.max (m * c) (loadTime x.shape x.bfmt) + 1

/-- Passes of one block. -/
def Mma.blockTime (x : Mma) (i j : Nat) : Nat := sumUp (fun kc => x.passTime i j kc) x.chunks 0

/-- Tag of an MMA's or WLOAD's first slab (R139). -/
def Mma.tagOf (x : Mma) : Nat × Nat × Nat × Nat × Nat × Nat :=
  (x.bfmt, x.shape, x.b, x.ldb, Nat.min x.K x.kb, Nat.min x.N x.nb)
def Slab.tagOf (s : Slab) : Nat × Nat × Nat × Nat × Nat × Nat := (s.bfmt, s.shape, s.b, s.ldb, s.kk, s.nn)
/-- The loaded slab, where it carries the MMA's first tag and wpre is set. -/
def Mma.loaded (d : Dev) (x : Mma) : Option Slab :=
  match (tileAt d x.t).slab with
  | some s => if x.wpre ∧ s.tagOf = x.tagOf then some s else none
  | none => none

/-- Cycles of the prologue's DNORM terms over the blocks in order (R168). -/
def Mma.dnormTime (x : Mma) (e : Nat) : Nat :=
  let r (i : Nat) : Nat := cdiv (x.rowsOf i * e) 4 + 24
  let nblk := x.nBlocks * x.mBlocks
  r 0 + sumUp (fun b => r (b % x.mBlocks) - x.blockTime ((b - 1) % x.mBlocks) ((b - 1) / x.mBlocks)) (nblk - 1) 1

/-- Predicted count of an MMA (R147, R168). -/
def mmaPred (d : Dev) (x : Mma) : Nat :=
  let w0 := if (x.loaded d).isSome then 0 else loadTime x.shape x.bfmt + 1
  let passes := sumUp (fun b => x.blockTime (b % x.mBlocks) (b / x.mBlocks)) (x.nBlocks * x.mBlocks) 0
  let pro := if x.fused ∧ (!x.pro.isEmpty ∨ x.sfmt ≠ x.afmt) then
      16 * (x.pro.length + 1) + (match x.pro.find? (fun s => s.op == 0x02) with | some s => x.dnormTime s.arg | none => 0) else 0
  let epi := if x.fused then 8 * (x.epi.length - 1) + (if x.epi.any (fun s => s.op == 0x15) then 32 else 0) else 0
  w0 + passes + 392 + pro + epi

/-- Predicted count of a WLOAD (R147). -/
def wloadPred (x : Mma) : Nat := loadTime x.shape x.bfmt + 384

/-! Execution. -/

/-- Sixteen at a time. -/
def groups16 : Nat → List Num → List (List Num)
  | 0, _ => []
  | n + 1, l => l.take 16 :: groups16 n (l.drop 16)

/-- Moving row `m`, elements `k0 … k0+kn-1`, as the array takes them: through the prologue and the conversion into afmt
(R160, R162). -/
def Mma.aRow (d : Dev) (x : Mma) (v : Env) (dn : StageW → Num × Num × Nat × Bool) (m k0 kn : Nat) : Flagged (List Num) :=
  if x.sfmt = 5 then ((upto kn).map fun i => (elemAt d 5 0 x.a x.lda x.M m (k0 + i)).num, 0)
  else
    let es := (upto kn).map fun i =>
      let k := k0 + i
      let code := ld d (x.a + m * x.lda + k * esz x.sfmt) (esz x.sfmt)
      runStages d v dn m k x.pro (.f (decodeF (fmtF x.sfmt) code)) x.sfmt code 0
    let fl := es.foldl (fun a e => a ||| e.fl) 0
    if x.pro.isEmpty ∧ x.sfmt = x.afmt then (es.map fun e => e.v.num, fl)
    else if x.afmt = 5 then
      let bs := (groups16 (kn / 16) (es.map fun e => e.v.num)).map (zb4Encode x.prnd)
      (bs.flatMap fun b => (upto 16).map (zb4Elem b.1.1 b.1.2), bs.foldl (fun a b => a ||| b.2) fl)
    else
      let cs := es.map fun e => encodeF (fmtF x.afmt) x.prnd x.pzsat e.v.num
      (cs.map fun c => decodeF (fmtF x.afmt) c.1, cs.foldl (fun a c => a ||| c.2) fl)

/-- Code of stationary element (n, k); a ZB4 code carries its block exponent. -/
def Mma.bCode (d : Dev) (x : Mma) (n k : Nat) : Nat :=
  if x.bfmt = 5 then
    bits (ld d (x.b + n * x.ldb + 8 * (k / 16)) 8) (4 * (k % 16)) 4 +
      16 * ld d (x.b + x.N * x.ldb + n * (x.ldb / 8) + k / 16) 1
  else ld d (x.b + n * x.ldb + k * esz x.bfmt) (esz x.bfmt)
/-- Value of a stationary code. -/
def bVal (c code : Nat) : Num := if c = 5 then zb4Elem (code % 16) (code / 16) 0 else decodeF (fmtF c) code

/-- Stationary elements of column n, chunk kc: from the loaded slab in the first pass, else from memory. -/
def Mma.bCol (d : Dev) (x : Mma) (first : Option Slab) (n kc : Nat) : List Num :=
  (upto (x.lenOf kc)).map fun i =>
    match (if kc = 0 ∧ n < x.nb then first else none) with
    | some s => bVal x.bfmt (s.vals.getD (n * s.kk + i) 0)
    | none => bVal x.bfmt (x.bCode d n (kc * x.kb + i))

/-- Exact sum of products. -/
def dotExact : List Num → List Num → Num → Num
  | a :: t, b :: u, s => dotExact t u (addN 0 (mulN a b).1 s).1
  | _, _, s => s

/-- ZB4: each pair of blocks summed exactly, rounded to quanta of 2^qz, and added with a bound (R118). -/
def dotZb4 (qz : Int) : Nat → List Num → List Num → Int × Bool × Bool → Int × Bool × Bool
  | 0, _, _, s => s
  | n + 1, a, b, (s, nan, sat) =>
    let r := match dotExact (a.take 16) (b.take 16) (.fin false 0 0) with
      | .fin sg m e => (some ((roundInt 0 sg m (e - qz)).1))
      | _ => none
    match r with
    | some i => let h := hold95 (s + i); dotZb4 qz n (a.drop 16) (b.drop 16) (h.1, nan, sat || h.2)
    | none => dotZb4 qz n (a.drop 16) (b.drop 16) (s, true, sat)

/-- Floating sum down the column by fused multiply-add, nearest-even (R143). -/
def dotFma (f : Fmt) : List Num → List Num → Flagged Nat → Flagged Nat
  | a :: t, b :: u, (s, fl) => let r := encodeX f 0 false (fmaN 0 a b (decodeF f s)); dotFma f t u (r.1, fl ||| r.2)
  | _, _, s => s

/-- Accumulator of one output over its chunks: the value R119 or R120 hands on, flags, whether it was held at its bound.
`as`: the moving row's chunks. -/
def Mma.accum (d : Dev) (x : Mma) (first : Option Slab) (as : List (List Num)) (n : Nat) : Num × Nat × Bool :=
  if x.afmt = 3 ∨ x.afmt = 4 then
    let s := as.zipIdx.foldl (fun s (a, kc) => dotExact a (x.bCol d first n kc) s) (.fin false 0 0)
    (match s with | .fin _ 0 _ => .fin false 0 0 | y => y, 0, false)
  else if x.afmt = 5 then
    let r := as.zipIdx.foldl (fun s (a, kc) => dotZb4 x.qz (a.length / 16) a (x.bCol d first n kc) s) ((0 : Int), false, false)
    (if r.2.1 then .nan false else .fin (decide (r.1 < 0)) r.1.natAbs x.qz, if r.2.2 then flSAT else 0, r.2.2)
  else
    let f := if x.afmt = 0 then fp64 else fp32
    let r := as.zipIdx.foldl (fun (acc : Option Nat × Nat) (a, kc) =>
      let c := dotFma f a (x.bCol d first n kc) (0, 0)
      match acc.1 with
      | none => (some c.1, acc.2 ||| c.2)
      | some s => let z := encodeX f 0 false (addN 0 (decodeF f s) (decodeF f c.1)); (some z.1, acc.2 ||| c.2 ||| z.2)) (none, 0)
    (decodeF f (r.1.getD 0), r.2, false)

/-- One output through the epilogue (R136, R160): the accumulator rounded once into stage 1's format, then the stages. -/
def Mma.epilogue (d : Dev) (x : Mma) (v : Env) (m n : Nat) (acc : Num) : EOut :=
  match x.epi with
  | [] => ⟨0, 0, .f acc, 0, none, [], []⟩
  | s :: _ =>
    let c := encodeF (fmtF s.fmt) s.rnd s.zsat acc
    if x.fused then
      runStages d v (fun _ => (.nan false, .nan false, 0, false)) m n x.epi (.f (decodeF (fmtF s.fmt) c.1)) s.fmt c.1 c.2
    else ⟨c.1, s.fmt, .f acc, c.2, if s.hist then some (acc, c.2 &&& flSAT != 0) else none, [], []⟩

/-- A running command: the device, flags raised, whether a reported saturation and whether an unconditional one occurred. -/
structure Run where
  d : Dev
  fl : Nat
  sat : Bool
  hard : Bool

/-- Write the statistics of a row's block: every STATS stage updates its entry (R165). -/
def statRow (r : Req) (v : Env) (sts : List StageW) (m : Nat) (fresh : Bool) (outs : List EOut) (x : Run) : Run :=
  (sts.filter (fun s => s.op == 0x15)).zipIdx.foldl (fun (x : Run) (s, j) =>
    let a := (v.stream s.sidx).addr + (m * stE s + stSlot s) * 32
    let e := statUpdate (stQs s) (fresh && s.arg % 2 == 1) (statOf x.d a) (outs.map fun o => o.stats.getD j (.fin false 0 0))
    let bad := e.sat
    { x with d := memWrite r a (statBytes e) x.d, fl := if bad then x.fl ||| flSAT else x.fl, hard := x.hard || bad }) x

/-- Write what STORE stages give for element (m, n). -/
def storeElem (r : Req) (v : Env) (m n : Nat) (o : EOut) (d : Dev) : Dev :=
  o.stores.foldl (fun d (i, code) =>
    let s := v.stream i
    memWriteN r (s.addr + m * s.stride + n * esz s.fmt) (esz s.fmt) code d) d

/-- One row of an output block: accumulate, epilogue, write C, stream and statistics outputs. -/
def Mma.row (f : Flight) (x : Mma) (v : Env) (first : Option Slab) (j m : Nat) (y : Run) : Run :=
  let r := f.req 0 x.t
  let dnFor (s : StageW) : Num × Num × Nat × Bool := dnormRow y.d v.rev v.fpref (v.stream s.sidx).addr m s.arg s.imm
  let dns := (x.pro.filter (fun s => s.op == 0x02)).map fun s => (s, dnFor s)
  let dn (s : StageW) : Num × Num × Nat × Bool := match dns.find? (fun e => e.1 == s) with
    | some e => e.2 | none => (.nan false, .nan false, 0, false)
  let as := (upto x.chunks).map fun kc => x.aRow y.d v dn m (kc * x.kb) (x.lenOf kc)
  let afl := as.foldl (fun a e => a ||| e.2) 0
  let outs := (upto (x.colsOf j)).map fun i =>
    let n := j * x.nb + i
    let acc := x.accum y.d first (as.map (·.1)) n
    let o := x.epilogue y.d v m n acc.1
    ({ o with fl := o.fl ||| acc.2.1 }, acc.2.2, o.fl &&& flSAT != 0)
  let y := outs.zipIdx.foldl (fun (y : Run) (o, i) =>
    let n := j * x.nb + i
    let d := memWriteN r (x.c + m * x.ldc + n * esz x.cfmt) (esz x.cfmt) o.1.code y.d
    let d := binValue x.t 0 o.1.binned (storeElem r v m n o.1 d)
    { y with d := d, fl := y.fl ||| o.1.fl, sat := y.sat || o.2.2, hard := y.hard || o.2.1 })
    { y with fl := y.fl ||| afl, sat := y.sat || (afl &&& flSAT != 0), hard := y.hard || dns.any (fun e => e.2.2.2.2) }
  statRow r v x.epi m (j == 0) (outs.map (·.1)) y

/-- Bytes of streams row `m` of the block touches, as (address, length, written). -/
def Mma.streamSpans (x : Mma) (j m : Nat) : List (Nat × Nat × Bool) :=
  let n0 := j * x.nb
  let n := x.colsOf j
  x.streams.zipIdx.flatMap fun (s, i) =>
    let z := esz s.fmt
    if s.kind = 1 then [(s.addr + n0 * z, n * z, false)]
    else if s.kind = 2 then [(s.addr + m * z, z, false)]
    else if s.kind = 4 then [(s.addr + 2 * n0 * z, 2 * n * z, false)]
    else if s.kind = 5 then [(s.addr, 2 * x.K * z, false)]
    else if s.kind = 6 then [(s.addr + m * s.stride + n0 * z, n * z, false)]
    else if s.kind = 7 then [(s.addr + m * s.stride + n0 * z, n * z, true)]
    else if s.kind = 8 ∨ s.kind = 9 then
      let e := planeE (x.pro ++ x.epi) i
      [(s.addr + m * e * 32, e * 32, s.kind == 9)]
    else []

/-- First memory error of a pass over block (i, j), chunk kc: of A, of a slab it loads, and in the last chunk of the streams
and of the writes of C (R150, R170, R266). -/
def Mma.passErr (d : Dev) (x : Mma) (skip : Bool) (i j kc : Nat) : Option ((Nat × Nat) × Bool) :=
  let k0 := kc * x.kb
  let kn := x.lenOf kc
  let rows := (upto (x.rowsOf i)).map (i * x.mb + ·)
  let rd (a n : Nat) : Option ((Nat × Nat) × Bool) := (readErr d a n).map fun e => (e, false)
  let wr (a n : Nat) : Option ((Nat × Nat) × Bool) := (writeErr d a n).map fun e => (e, true)
  let ofA := rows.findSome? fun m =>
    match rd (x.a + m * x.lda + (if x.sfmt = 5 then k0 / 2 else k0 * esz x.sfmt)) (if x.sfmt = 5 then kn / 2 else kn * esz x.sfmt) with
    | some e => some e
    | none => if x.sfmt = 5 then rd (x.a + x.M * x.lda + m * (x.lda / 8) + k0 / 16) (cdiv kn 16) else none
  let ofB := if skip then none else ((upto (x.colsOf j)).map (j * x.nb + ·)).findSome? fun n =>
    match rd (x.b + n * x.ldb + (if x.bfmt = 5 then k0 / 2 else k0 * esz x.bfmt)) (if x.bfmt = 5 then kn / 2 else kn * esz x.bfmt) with
    | some e => some e
    | none => if x.bfmt = 5 then rd (x.b + x.N * x.ldb + n * (x.ldb / 8) + k0 / 16) (cdiv kn 16) else none
  let ofS := if kc + 1 = x.chunks then rows.findSome? fun m =>
      (x.streamSpans j m).findSome? fun (a, n, w) => match rd a n with
        | some e => some e
        | none => if w then wr a n else none
    else none
  let ofC := if kc + 1 = x.chunks then rows.findSome? fun m =>
      wr (x.c + m * x.ldc + j * x.nb * esz x.cfmt) (x.colsOf j * esz x.cfmt) else none
  match ofA with
  | some e => some e
  | none => match ofB with
    | some e => some e
    | none => match ofS with | some e => some e | none => ofC

/-- Ranges a pass over block (i, j), chunk kc, reads. -/
def Mma.passReads (x : Mma) (skip : Bool) (i j kc : Nat) : List (Nat × Nat) :=
  let k0 := kc * x.kb
  let kn := x.lenOf kc
  let rows := (upto (x.rowsOf i)).map (i * x.mb + ·)
  (rows.flatMap fun m =>
    if x.sfmt = 5 then [(x.a + m * x.lda + k0 / 2, kn / 2), (x.a + x.M * x.lda + m * (x.lda / 8) + k0 / 16, cdiv kn 16)]
    else [(x.a + m * x.lda + k0 * esz x.sfmt, kn * esz x.sfmt)]) ++
  (if skip then [] else ((upto (x.colsOf j)).map (j * x.nb + ·)).flatMap fun n =>
    if x.bfmt = 5 then [(x.b + n * x.ldb + k0 / 2, kn / 2), (x.b + x.N * x.ldb + n * (x.ldb / 8) + k0 / 16, cdiv kn 16)]
    else [(x.b + n * x.ldb + k0 * esz x.bfmt, kn * esz x.bfmt)]) ++
  (if kc + 1 = x.chunks then rows.flatMap fun m => (x.streamSpans j m).map fun s => (s.1, s.2.1) else [])

/-- Ranges the first `n` passes read. -/
def Mma.reads (x : Mma) (skip : Bool) (n : Nat) : List (Nat × Nat) :=
  (upto n).flatMap fun p =>
    let blk := p / x.chunks
    x.passReads (skip && p == 0) (blk % x.mBlocks) (blk / x.mBlocks) (p % x.chunks)

/-- Passes completed before the first that meets an error, among `n` from pass `p` on, with the error. -/
def Mma.goodPasses (d : Dev) (x : Mma) (skip : Bool) : Nat → Nat → Nat × Option ((Nat × Nat) × Bool)
  | 0, p => (p, none)
  | n + 1, p =>
    let kc := p % x.chunks
    let blk := p / x.chunks
    match x.passErr d (skip && p == 0) (blk % x.mBlocks) (blk / x.mBlocks) kc with
    | some e => (p, some e)
    | none => x.goodPasses d skip n (p + 1)

/-- C elements of block `b`. -/
def Mma.blockElems (x : Mma) (b : Nat) : Nat := x.rowsOf (b % x.mBlocks) * x.colsOf (b / x.mBlocks)

/-- Clear the slab tag of a tile (R140). -/
def clearSlab (t : Nat) (d : Dev) : Dev := modTile t (fun s => { s with slab := none }) d

/-- Codes of a slab: columns n0…, elements k0…. -/
def Mma.slabVals (d : Dev) (x : Mma) (n0 nn k0 kk : Nat) : List Nat :=
  (upto nn).flatMap fun n => (upto kk).map fun k => x.bCode d (n0 + n) (k0 + k)

/-- MMA (R135 to R170). -/
def mma (f : Flight) (d : Dev) : Dev :=
  let x := mmaOf f.q f.head f.cont
  let r := f.req 0 x.t
  match badRange d true x.c (x.M * x.ldc) with
  | some (st, det) => finish f.q f.seq st det 0 d
  | none =>
    let first := x.loaded d
    let bit0 := b2n (x.wpre && first.isNone)
    let total := x.nBlocks * x.mBlocks * x.chunks
    let lim := unitsDone f total d
    let d := lim.2
    let g := x.goodPasses d first.isSome lim.1 0
    let d := correctSpans (x.reads first.isSome g.1) r d
    let blocks := g.1 / x.chunks
    let v : Env := ⟨revOf d f x.t, ef d mNumCfg 0 1, x.streams, x.M, x.N⟩
    let y := (upto blocks).foldl (fun (y : Run) b =>
      (upto (x.rowsOf (b % x.mBlocks))).foldl (fun (y : Run) i =>
        x.row f v (if b = 0 then first else none) (b / x.mBlocks) ((b % x.mBlocks) * x.mb + i) y) y) ⟨d, 0, false, false⟩
    let d := raiseFlags x.t y.fl y.d
    let count := sumUp x.blockElems blocks 0
    match g.2 with
    | some (e, w) =>
      let d := clearSlab x.t (if w then logWriteErr e r d else logErr e r d)
      finish f.q f.seq (errStatus e.2) bit0 count d
    | none =>
      if g.1 < total then
        let o := stopped f count
        finish f.q f.seq o.1 (if count = 0 then o.2.1 else bit0) o.2.2 (clearSlab x.t d)
      else
        let j := x.nBlocks - 1
        let kc := x.chunks - 1
        let k0 := kc * x.kb
        let slab : Slab := ⟨x.bfmt, x.shape, x.b + j * x.nb * x.ldb + (if x.bfmt = 5 then k0 / 2 else k0 * esz x.bfmt), x.ldb,
          x.lenOf kc, x.colsOf j, x.slabVals d (j * x.nb) (x.colsOf j) k0 (x.lenOf kc)⟩
        let d := modTile x.t (fun s => { s with slab := some slab }) d
        let st := if y.hard || (x.satRep && y.sat) then 0x08 else 0
        finish f.q f.seq st bit0 count d

/-- MMA (R135). -/
def execMma (q seq : Nat) (s : State) : Out := onDev s (withFlight 0x20 q seq mma)

/-- WLOAD (R138, R139). -/
def wload (f : Flight) (d : Dev) : Dev :=
  let x := mmaOf f.q f.head []
  let kk := Nat.min x.K x.kb
  let nn := Nat.min x.N x.nb
  let err := (upto nn).findSome? fun n =>
    match readErr d (x.b + n * x.ldb) (if x.bfmt = 5 then kk / 2 else kk * esz x.bfmt) with
    | some e => some e
    | none => if x.bfmt = 5 then readErr d (x.b + x.N * x.ldb + n * (x.ldb / 8)) (cdiv kk 16) else none
  match err with
  | some e => finish f.q f.seq (errStatus e.2) 0 0 (clearSlab x.t (logErr e (f.req 0 x.t) d))
  | none =>
    let d := correctSpans ((upto nn).flatMap fun n =>
      if x.bfmt = 5 then [(x.b + n * x.ldb, kk / 2), (x.b + x.N * x.ldb + n * (x.ldb / 8), cdiv kk 16)]
      else [(x.b + n * x.ldb, kk * esz x.bfmt)]) (f.req 0 x.t) d
    let d := modTile x.t (fun s => { s with slab := some ⟨x.bfmt, x.shape, x.b, x.ldb, kk, nn, x.slabVals d 0 nn 0 kk⟩ }) d
    finish f.q f.seq 0 0 (nn * slabRow x.bfmt kk) d

/-- WLOAD (R138). -/
def execWload (q seq : Nat) (s : State) : Out := onDev s (withFlight 0x21 q seq wload)

/-- QDISABLE (R94, R96, R140). -/
def execQdisable (q seq : Nat) (s : State) : Out := onDev s (withFlight 0x05 q seq (qdisable clearSlab))

end Sys2Proof.Machine
end

