-- ==== Sys2Proof/Machine/Chaser.lean ====
section
/-!
DEFINITION. Machine/Chaser.lean: VCHAIN, COMPRESS, EXPAND, HISTO and the function tables (R125 to R128, R171 to R197).
-/
namespace Sys2Proof.Machine

/-! Parameters (R176 to R178). -/

/-- A VCHAIN as its packets spell it. -/
structure VChain where
  t : Nat
  scount : Nat
  ifmt : Nat
  satRep : Bool
  ifx : Nat
  rows : Nat
  L : Nat
  src : Nat
  dst : Nat
  lds : Nat
  ldd : Nat
  sts : List StageW
  streams : List Stream
  chain : Nat
  deriving DecidableEq, Repr

def vchainOf (q : Nat) (p : Packet) (cont : List Packet) : VChain :=
  let ch := chainOf cont
  let sc := pbits p 10 0 4
  { t := qTile q, scount := sc, ifmt := pbits p 11 0 4, satRep := pbits p 12 0 1 == 1, ifx := pbits p 13 0 6,
    rows := pbytes p 16 4, L := pbytes p 20 4, src := pbytes p 24 6, dst := pbytes p 30 6, lds := pbytes p 36 4,
    ldd := pbytes p 40 4, sts := stagesFrom ch 48 sc, streams := [streamAt ch 0, streamAt ch 16, streamAt ch 32], chain := ch }

/-- Format of the destination: that of the last stage (R180). -/
def VChain.ofmt (x : VChain) : Nat := match x.sts.getLast? with | some s => s.fmt | none => x.ifmt
/-- Whether the last stage writes whole blocks (R183). -/
def VChain.blocky (x : VChain) : Bool := x.ofmt == 5 || x.ofmt == 0xC
/-- Groups per row (R171). -/
def VChain.groups (x : VChain) : Nat := cdiv x.L 64
/-- Bytes of a matrix of `rows` rows at stride `ld'`, with the exponent plane of ZB4 (R132, R183). -/
def matLen (c rows ld' : Nat) : Nat := rows * ld' + (if c = 5 then rows * (ld' / 8) else 0)
/-- Element bits as R172 counts them. -/
def wide (c : Nat) : Bool := c == 0 || c == 9 || c == 0xB || c == 0xC

/-! Packet checks (R78, R175 to R186). -/

/-- Parameter bits Chaser commands use. -/
def chaserUsed (op : Nat) : List (Nat × Nat) :=
  if op = 0x30 then [(80, 4), (88, 4), (96, 1), (104, 6), (128, 224)]
  else if op = 0x31 ∨ op = 0x32 then [(80, 9), (96, 368)]
  else [(80, 32), (128, 48)]

/-- Whether reserved fields that depend on others are zero (R155, R176 to R178). -/
def vchainClean (x : VChain) : Bool :=
  (x.ifx == 0 || x.ifmt == 0xA || x.ifmt == 0xB) && x.streams.all streamClean && x.sts.all (stageClean true false) &&
  x.chain >>> (8 * (48 + 8 * x.scount)) == 0

/-- Operations of VCHAIN (R179). -/
def vchainOp (op : Nat) : Bool :=
  op == 0x02 || op == 0x03 || (decide (0x10 ≤ op) && decide (op ≤ 0x16)) || (decide (0x20 ≤ op) && decide (op ≤ 0x29)) ||
    (decide (0x30 ≤ op) && decide (op ≤ 0x36))
/-- Operations for floating point only, and for integers only. -/
def floatOnly (op : Nat) : Bool := op == 0x02 || op == 0x03 || op == 0x21 || op == 0x22 || op == 0x29
def intOnly (op : Nat) : Bool := decide (0x30 ≤ op)

/-- Whether a conversion between two formats exists (R111, R183). -/
def convOk (xf tf : Nat) : Bool :=
  if tf = 5 ∨ tf = 0xC then xf == 1 || xf == 2
  else !((tf == 0xA || tf == 0xB) && isIn xf)

/-- Formats and kinds along a VCHAIN (R180, R182, R183); `last`: the stage is the last one. -/
def vstageOk (ss : List Stream) (s : StageW) (xf : Nat) (last : Bool) : Bool :=
  let special := s.fmt == 5 || decide (0xA ≤ s.fmt)
  let e := ss.getD s.sidx ⟨0, 0, 0, 0, 0⟩
  vchainOp s.op && decide (s.fmt ≤ 0xC) && (!isIn s.fmt || s.rnd == 0) &&
  (!special || (s.op == 0x14 && last)) &&
  (if s.op = 0x14 then
     convOk xf s.fmt && (s.fmt != 0xA || decide (s.arg ≤ 31)) && (s.fmt != 0xB || decide (s.arg ≤ 63)) &&
       (s.fmt != 0xC || decide (s.arg ≤ 254))
   else
     (if s.op = 0x28 then s.fmt == 6 else isIn s.fmt == isIn xf) &&
     (!s.use || e.kind == 8 || e.kind == 9 || isIn e.fmt == isIn xf) &&
     !(floatOnly s.op && isIn xf) && !(intOnly s.op && !isIn xf))

/-- Pairs of a stage with its input's format and whether it is the last. -/
def VChain.flow (x : VChain) : List (StageW × Nat × Bool) :=
  (withInputs x.ifmt x.sts).zipIdx.map fun (e, i) => (e.1, e.2, i + 1 == x.scount)

/-- Whether a VCHAIN's parameters are in range (R175 to R186). -/
def vchainInRange (d : Dev) (x : VChain) (npkt : Nat) : Bool :=
  decide (1 ≤ x.scount ∧ x.scount ≤ 8) && decide (x.ifmt ≤ 0xC) && (x.ifmt != 0xA || decide (x.ifx ≤ 31)) &&
  decide (1 ≤ x.rows ∧ x.rows ≤ 16777216 ∧ 1 ≤ x.L ∧ x.L ≤ 1048576 ∧ x.rows * x.L ≤ 268435456) &&
  npkt == 1 + cdiv (48 + 8 * x.scount) 56 &&
  x.flow.all (fun (s, c, last) => stageOk true x.streams s c && vstageOk x.streams s c last) &&
  decide ((x.sts.filter (·.hist)).length ≤ 1) &&
  ((x.ifmt != 5 && x.ofmt != 5) || x.L % 16 == 0) && ((x.ifmt != 0xC && x.ofmt != 0xC) || x.L % 256 == 0) &&
  x.src % 64 == 0 && x.dst % 64 == 0 && x.lds % 64 == 0 && x.ldd % 64 == 0 &&
  decide (rowBytes x.ifmt x.L ≤ x.lds ∧ rowBytes x.ofmt x.L ≤ x.ldd) &&
  nearMem d x.t x.src (matLen x.ifmt x.rows x.lds) && nearMem d x.t x.dst (matLen x.ofmt x.rows x.ldd) &&
  (!overlap x.src (matLen x.ifmt x.rows x.lds) x.dst (matLen x.ofmt x.rows x.ldd) ||
    (x.src == x.dst && x.lds == x.ldd && rowBytes x.ifmt 256 == rowBytes x.ofmt 256)) &&
  x.streams.zipIdx.all (fun (s, i) => streamOk d x.t true x.sts i x.rows x.L 0 s) &&
  streamsApart x.sts x.streams x.rows x.L 0 [(x.src, matLen x.ifmt x.rows x.lds), (x.dst, matLen x.ofmt x.rows x.ldd)]
    (x.dst, matLen x.ofmt x.rows x.ldd, x.ldd) (esz x.ofmt)

/-! Predictions (R172, R173, R187, R192). -/

/-- Interval of a stage (R172). -/
def stageInterval (s : StageW) (xf : Nat) : Nat :=
  let w := wide xf || wide s.fmt
  if s.op = 0x21 ∨ s.op = 0x22 then (if w then 16 else 4) else if w then 2 else 1

/-- Stored bytes of one full group of 64 elements. -/
def groupBytes (c : Nat) : Nat := if c = 5 then 36 else if c = 0xC then 528 else 64 * esz c

/-- Pace of a VCHAIN (R173). -/
def VChain.pace (x : VChain) : Nat :=
  let iv := x.flow.foldl (fun m (s, c, _) => Nat.max m (stageInterval s c)) 1
  let b := (if inStack x.src then groupBytes x.ifmt else 0) + (if inStack x.dst then groupBytes x.ofmt else 0) +
    (x.streams.map fun s => if (s.kind = 6 ∨ s.kind = 7) ∧ inStack s.addr then 64 * esz s.fmt else 0).foldl (· + ·) 0
  Nat.max iv (cdiv b 128)

/-- Predicted count of a VCHAIN (R187). -/
def vchainPred (x : VChain) : Nat :=
  let c := x.pace
  let dns := x.sts.filter (fun s => s.op == 0x02)
  let r := cdiv (dns.foldl (fun m s => Nat.max m s.arg) 0) 4 + 24
  let dd := if dns.isEmpty then 0 else r + (x.rows - 1) * (r - c * x.groups)
  24 + 4 * x.scount + c * x.rows * x.groups + dd + (if x.sts.any (fun s => s.op == 0x15) then 32 else 0)

/-! Execution of a VCHAIN (R180 to R188). -/

/-- Stages evaluated element by element: all but a last one that writes blocks. -/
def VChain.perElem (x : VChain) : List StageW := if x.blocky then x.sts.dropLast else x.sts

/-- Byte ranges group `j` of row `m` reads, and those it writes. -/
def VChain.spans (x : VChain) (m j : Nat) : List (Nat × Nat × Bool) :=
  let a := 64 * j
  let n := Nat.min 64 (x.L - a)
  let mat (c base ld' : Nat) (w : Bool) : List (Nat × Nat × Bool) :=
    if c = 5 then [(base + m * ld' + a / 2, n / 2, w), (base + x.rows * ld' + m * (ld' / 8) + a / 16, n / 16, w)]
    else if c = 0xC then
      let blk := base + m * ld' + 2112 * (a / 256)
      [(blk, 64, w), (blk + 64 + 8 * (a % 256), 8 * n, w)]
    else [(base + m * ld' + a * esz c, n * esz c, w)]
  mat x.ifmt x.src x.lds false ++
  (x.streams.zipIdx.flatMap fun (s, i) =>
    let z := esz s.fmt
    if s.kind = 1 then [(s.addr + a * z, n * z, false)]
    else if s.kind = 2 then [(s.addr + m * z, z, false)]
    else if s.kind = 4 then [(s.addr + 2 * a * z, 2 * n * z, false)]
    else if s.kind = 6 then [(s.addr + m * s.stride + a * z, n * z, false)]
    else if s.kind = 7 then [(s.addr + m * s.stride + a * z, n * z, true)]
    else if (s.kind = 8 ∨ s.kind = 9) ∧ j = 0 then
      let e := planeE x.sts i
      [(s.addr + m * e * 32, e * 32, false)] ++ (if s.kind = 9 then [(s.addr + m * e * 32, e * 32, true)] else [])
    else []) ++
  mat x.ofmt x.dst x.ldd true

/-- First memory error among byte ranges to read, or to write. -/
def spanErr (d : Dev) (l : List (Nat × Nat × Bool)) : Option ((Nat × Nat) × Bool) :=
  l.findSome? fun (a, n, w) => if w then (writeErr d a n).map (·, true) else (readErr d a n).map (·, false)

/-- Groups completed before the first that meets an error, among `n` from group `g` on, with the error. -/
def VChain.goodGroups (d : Dev) (x : VChain) : Nat → Nat → Nat × Option ((Nat × Nat) × Bool)
  | 0, g => (g, none)
  | n + 1, g => match spanErr d (x.spans (g / x.groups) (g % x.groups)) with
    | some e => (g, some e)
    | none => x.goodGroups d n (g + 1)

/-- One element of a ZG64 block at exponent `g` (R122, R183): its integer, header flags, exception flags. -/
def zgElem (g : Nat) (x : Num) : Int × Nat × Nat :=
  let c := clampInt 64 true (zgInt g x)
  let inexact := match x with
    | .fin s m e => (roundInt 0 s m (e + 166 - g)).2
    | _ => false
  (c.1, zgFlags x + (if g < biased32 x then 8 else 0),
    (if c.2 then flSAT else 0) ||| (if inexact then flNX else 0) ||| (if x.isSig then flNV else 0))

/-- Whether a value saturates in a ZB4 block of exponent `ex` (R108). -/
def zbSat (rnd ex : Nat) (x : Num) : Bool :=
  match x with
  | .inf _ => true
  | .fin s m e => m != 0 && decide (7 < (quantise rnd s m e ((ex : Int) - 135)).1)
  | .nan _ => false

/-- Write row `m` of the destination and what a last block stage raises: exception flags and binned values. -/
def VChain.putRow (x : VChain) (r : Req) (m : Nat) (outs : List EOut) (d : Dev) : Dev × Nat × List (Num × Bool) :=
  let base := x.dst + m * x.ldd
  match (if x.blocky then x.sts.getLast? else none) with
  | none =>
    ((outs.zipIdx.foldl (fun d (o, n) => memWriteN r (base + n * esz x.ofmt) (esz x.ofmt) o.code d) d), 0, [])
  | some s =>
    if x.ofmt = 5 then
      let bs := groups16 (outs.length / 16) (outs.map fun o => o.v.num)
      bs.zipIdx.foldl (fun (acc : Dev × Nat × List (Num × Bool)) (b, i) =>
        let z := zb4Encode s.rnd b
        let d := memWriteN r (base + 8 * i) 8 z.1.1 acc.1
        let d := memWriteN r (x.dst + x.rows * x.ldd + m * (x.ldd / 8) + i) 1 z.1.2 d
        (d, acc.2.1 ||| z.2, acc.2.2 ++ (if s.hist then b.map fun v => (v, z.1.2 != 0xFF && zbSat s.rnd z.1.2 v) else [])))
        (d, 0, [])
    else
      (upto (cdiv outs.length 256)).foldl (fun (acc : Dev × Nat × List (Num × Bool)) i =>
        let b := ((outs.drop (256 * i)).take 256).map fun o => o.v.num
        let es := b.map (zgElem s.arg)
        let blk := base + 2112 * i
        let hdr := es.foldl (fun h e => h ||| e.2.1) 0
        let d := memWrite r blk (bytesOf 64 (s.arg + 256 * hdr) ++ es.flatMap fun e => bytesOf 8 (wrapBits 64 e.1)) acc.1
        (d, es.foldl (fun f e => f ||| e.2.2) acc.2.1,
          acc.2.2 ++ (if s.hist then (b.zip es).map fun (v, e) => (v, e.2.2 &&& flSAT != 0) else []))) (d, 0, [])

/-- The first `cnt` elements of row `m` through all stages (R180, R184 to R186). -/
def VChain.row (f : Flight) (x : VChain) (v : Env) (m cnt : Nat) (y : Run) : Run :=
  if cnt = 0 then y
  else
    let r := f.req 1 x.t
    let dns := (x.sts.filter (fun s => s.op == 0x02)).map fun s =>
      (s, dnormRow y.d v.rev v.fpref (v.stream s.sidx).addr m s.arg s.imm)
    let dn (s : StageW) : Num × Num × Nat × Bool := match dns.find? (fun e => e.1 == s) with
      | some e => e.2 | none => (.nan false, .nan false, 0, false)
    let outs := (upto cnt).map fun n =>
      runStages y.d v dn m n x.perElem (elemAt y.d x.ifmt x.ifx x.src x.lds x.rows m n) x.ifmt 0 0
    let p := x.putRow r m outs y.d
    let d := outs.zipIdx.foldl (fun d (o, n) => binValue x.t 1 o.binned (storeElem r v m n o d)) p.1
    let d := p.2.2.foldl (fun d b => binValue x.t 1 (some b) d) d
    let fl := outs.foldl (fun a o => a ||| o.fl) p.2.1
    statRow r v x.perElem m true outs
      { d := d, fl := y.fl ||| fl, sat := y.sat || (fl &&& flSAT != 0), hard := y.hard || dns.any (fun e => e.2.2.2.2) }

/-- VCHAIN (R176 to R188). -/
def vchain (f : Flight) (d : Dev) : Dev :=
  let x := vchainOf f.q f.head f.cont
  let total := x.rows * x.groups
  match badRange d true x.dst (matLen x.ofmt x.rows x.ldd) with
  | some (st, det) => finish f.q f.seq st det 0 d
  | none =>
    let lim := unitsDone f total d
    let g := x.goodGroups lim.2 lim.1 0
    let v : Env := ⟨revOf d f x.t, ef d mNumCfg 0 1, x.streams, x.rows, x.L⟩
    let cntOf (m : Nat) : Nat := Nat.min x.L (64 * (g.1 - m * x.groups))
    let d := correctSpans (readsOf ((upto g.1).flatMap fun k => x.spans (k / x.groups) (k % x.groups))) (f.req 1 x.t) lim.2
    let y := (upto x.rows).foldl (fun (y : Run) m => x.row f v m (cntOf m) y) ⟨d, 0, false, false⟩
    let d := raiseFlags x.t y.fl y.d
    let count := sumUp cntOf x.rows 0
    let st := if y.hard || (x.satRep && y.sat) then 0x08 else 0
    match g.2 with
    | some (e, w) => finish f.q f.seq (errStatus e.2) 0 count (if w then logWriteErr e (f.req 1 x.t) d else logErr e (f.req 1 x.t) d)
    | none =>
      if g.1 < total then let o := stopped f count; finish f.q f.seq o.1 o.2.1 o.2.2 d
      else finish f.q f.seq st 0 count d

/-- VCHAIN (R176). -/
def execVchain (q seq : Nat) (s : State) : Out := onDev s (withFlight 0x30 q seq vchain)

/-! COMPRESS and EXPAND (R189 to R192). -/

/-- A COMPRESS or EXPAND as its packet spells it. -/
structure Pack where
  t : Nat
  es : Nat
  opt : Bool
  n : Nat
  src : Nat
  mask : Nat
  dst : Nat
  idx : Nat
  lim : Nat
  tally : Nat
  fill : Nat
  deriving DecidableEq, Repr

def packOf (q : Nat) (p : Packet) : Pack :=
  ⟨qTile q, 2 ^ pbytes p 10 1, pbits p 11 0 1 == 1, pbytes p 12 4, pbytes p 16 6, pbytes p 22 6, pbytes p 28 6, pbytes p 34 6,
    pbytes p 40 4, pbytes p 44 6, pbytes p 50 8⟩

/-- Elements on the packed side at most. -/
def Pack.packed (x : Pack) : Nat := Nat.min x.lim x.n
/-- The regions of a command as (address, length). -/
def Pack.regions (x : Pack) (compress : Bool) : List (Nat × Nat) :=
  [(x.src, (if compress then x.n else x.packed) * x.es), (x.mask, x.n), (x.dst, (if compress then x.packed else x.n) * x.es),
    (x.tally, 8)] ++ (if compress && x.opt then [(x.idx, 4 * x.packed)] else [])

/-- Whether no two ranges of a list overlap; an empty range overlaps none. -/
def apart : List (Nat × Nat) → Bool
  | [] => true
  | (a, n) :: t => (t.all fun (b, m) => n == 0 || m == 0 || !overlap a n b m) && apart t

/-- Whether reserved fields that depend on others are zero (R189). -/
def packClean (p : Packet) : Bool :=
  let compress := pkOpcode p == 0x31
  let opt := pbits p 11 0 1 == 1
  (compress && opt || pbytes p 34 6 == 0) && (!compress && opt || pbytes p 50 8 == 0)

/-- Whether COMPRESS or EXPAND parameters are in range (R189). -/
def packInRange (d : Dev) (q : Nat) (p : Packet) : Bool :=
  let x := packOf q p
  let compress := pkOpcode p == 0x31
  decide (pbytes p 10 1 ≤ 3) && decide (1 ≤ x.n ∧ x.n ≤ 268435456) && x.src % x.es == 0 && x.dst % x.es == 0 &&
  x.tally % 8 == 0 && (!(compress && x.opt) || x.idx % 4 == 0) &&
  ((x.regions compress).all fun (a, n) => nearMem d x.t a n) && apart (x.regions compress)

/-- Predicted count (R192). -/
def packPred (q : Nat) (p : Packet) : Nat :=
  let x := packOf q p
  let at' (a n : Nat) : Nat := if inStack a then n else 0
  let b := at' x.src (64 * x.es) + at' x.dst (64 * x.es) + at' x.mask 64 + (if x.opt ∧ pkOpcode p = 0x31 then at' x.idx 256 else 0)
  24 + Nat.max 1 (cdiv b 128) * cdiv x.n 64

/-- State of a packing run: device, positions done, packed elements so far, and whether the limit stopped it. -/
structure PackRun where
  d : Dev
  j : Nat
  k : Nat
  full : Bool
  err : Option ((Nat × Nat) × Bool)

/-- Maximal runs of consecutive numbers, as (start, length). -/
def runsOf : List Nat → List (Nat × Nat)
  | [] => []
  | x :: t => match runsOf t with
    | (y, n) :: u => if x + 1 = y then (x, n + 1) :: u else (x, 1) :: (y, n) :: u
    | [] => [(x, 1)]

/-- One group of up to 64 positions of a COMPRESS or EXPAND. -/
def Pack.group (x : Pack) (r : Req) (compress : Bool) (y : PackRun) : PackRun :=
  let n := Nat.min 64 (x.n - y.j)
  match spanErr y.d [(x.mask + y.j, n, false)] with
  | some e => { y with err := some e }
  | none =>
    let act := ((upto n).map (y.j + ·)).filter fun j => byteAt y.d (x.mask + j) != 0
    let room := x.lim - y.k
    let full := decide (room < act.length)
    let stop := if full then (act.drop room).headD (y.j + n) else y.j + n
    let act := act.take room
    let cnt := act.length
    let spans : List (Nat × Nat × Bool) :=
      if compress then
        [(x.src + y.j * x.es, n * x.es, false), (x.dst + y.k * x.es, cnt * x.es, true)] ++
          (if x.opt then [(x.idx + 4 * y.k, 4 * cnt, true)] else [])
      else
        (x.src + y.k * x.es, cnt * x.es, false) ::
          (if x.opt then [(x.dst + y.j * x.es, (stop - y.j) * x.es, true)]
           else (runsOf act).map fun (j, m) => (x.dst + j * x.es, m * x.es, true))
    match spanErr y.d spans with
    | some e => { y with err := some e }
    | none =>
      let y := { y with d := correctSpans ((x.mask + y.j, n) :: readsOf spans) r y.d }
      let d :=
        if compress then
          let d := memWrite r (x.dst + y.k * x.es) (act.flatMap fun j => ldBytes y.d (x.src + j * x.es) x.es) y.d
          if x.opt then memWrite r (x.idx + 4 * y.k) (act.flatMap fun j => bytesOf 4 j) d else d
        else
          let d := if x.opt then
              memWrite r (x.dst + y.j * x.es) ((upto (stop - y.j)).flatMap fun _ => bytesOf x.es x.fill) y.d else y.d
          act.zipIdx.foldl (fun d (j, i) => memWrite r (x.dst + j * x.es) (ldBytes y.d (x.src + (y.k + i) * x.es) x.es) d) d
      ⟨d, stop, y.k + cnt, full, none⟩

/-- Groups in order until one stops. -/
def Pack.groups (x : Pack) (r : Req) (compress : Bool) : Nat → PackRun → PackRun
  | 0, y => y
  | n + 1, y => if y.full || y.err.isSome then y else x.groups r compress n (x.group r compress y)

/-- COMPRESS and EXPAND (R190 to R192). -/
def packRun (compress : Bool) (f : Flight) (d : Dev) : Dev :=
  let x := packOf f.q f.head
  let r := f.req 1 x.t
  match (x.regions compress).findSome? (fun (a, n) => badRange d true a n) with
  | some (st, det) => finish f.q f.seq st det 0 d
  | none =>
    let lim := unitsDone f (cdiv x.n 64) d
    let y := x.groups r compress lim.1 ⟨lim.2, 0, 0, false, none⟩
    match y.err with
    | some (e, w) =>
      let d := if (writeErr y.d x.tally 8).isSome then y.d else memWriteN r x.tally 8 y.k y.d
      finish f.q f.seq (errStatus e.2) 0 y.j (if w then logWriteErr e r d else logErr e r d)
    | none => match writeErr y.d x.tally 8 with
      | some e => finish f.q f.seq (errStatus e.2) 0 y.j (logWriteErr e r y.d)
      | none =>
        let d := memWriteN r x.tally 8 y.k y.d
        if y.full then finish f.q f.seq 0x01 0x0001 y.j d
        else if y.j < x.n then let o := stopped f y.j; finish f.q f.seq o.1 o.2.1 o.2.2 d
        else finish f.q f.seq 0 0 x.n d

/-- COMPRESS (R190). -/
def execCompress (q seq : Nat) (s : State) : Out := onDev s (withFlight 0x31 q seq (packRun true))
/-- EXPAND (R191). -/
def execExpand (q seq : Nat) (s : State) : Out := onDev s (withFlight 0x32 q seq (packRun false))

/-! HISTO (R125 to R128). -/

/-- The 320 bytes of a histogram record. -/
def histBytes (h : Hist) (hsel time : Nat) : List Byte :=
  ((upto 64).flatMap fun i => bytesOf 4 (tabGet (fun _ => 0) h.bins i)) ++ bytesOf 8 h.total ++ bytesOf 4 h.sat ++
    bytesOf 2 (wrapBits 16 h.base) ++ bytesOf 1 hsel ++ bytesOf 1 0 ++ bytesOf 4 time ++ bytesOf 44 0

/-- Whether HISTO parameters are in range (R127). -/
def histoInRange (p : Packet) : Bool :=
  decide (pbytes p 10 1 ≤ 1) && decide (pbytes p 11 1 ≤ 3) &&
  (pbytes p 11 1 != 3 || (let b := sext 16 (pbytes p 12 2); decide (-1100 ≤ b ∧ b ≤ 1000))) &&
  (decide (2 ≤ pbytes p 11 1) || pbytes p 16 8 % 64 == 0)

/-- HISTO (R127, R128). -/
def histo (f : Flight) (d : Dev) : Dev :=
  let t := qTile f.q
  let r := f.req 1 t
  let hsel := pbytes f.head 10 1
  let op := pbytes f.head 11 1
  let dest := pbytes f.head 16 8
  let h := if hsel = 0 then (tileAt d t).h0 else (tileAt d t).h1
  let put (x : Hist) (d : Dev) : Dev := modTile t (fun s => if hsel = 0 then { s with h0 := x } else { s with h1 := x }) d
  let clear : Hist := { hist0 with base := if op = 3 then sext 16 (pbytes f.head 12 2) else h.base }
  if op < 2 then
    match badRange d true dest 320 with
    | some (st, det) => finish f.q f.seq st det 0 d
    | none => match writeErr d dest 320 with
      | some e => finish f.q f.seq (errStatus e.2) 0 0 (logWriteErr e r d)
      | none =>
        let d := memWrite r dest (histBytes h hsel (podNs d % 2 ^ 32)) d
        finish f.q f.seq 0 0 320 (if op = 1 then put clear d else d)
  else finish f.q f.seq 0 0 0 (put clear d)

/-- HISTO (R127). -/
def execHisto (q seq : Nat) (s : State) : Out := onDev s (withFlight 0x33 q seq histo)

/-! Function tables (R193 to R197). -/

/-- Tiles of the package that are mapped. -/
def activeTiles (d : Dev) : List Nat := (upto 64).filter fun t => !tileAbsent d t

/-- Every tile shows a refused switch (R196). -/
def applyErr (d : Dev) : Dev := forUp (fun t d => if tileAbsent d t then d else setB d (aChTab t) 33 true) 64 0 d

/-- CHTABAPPLY_WRITE (R195, R196): only Myeles arms; less than three frames ahead is ignored and shown in every tile. -/
def chtabapplyWrite (v : Nat) (by' : Agent) (d : Dev) : Dev :=
  if by' == .job || !running d then d
  else if v < frameNum d + 3 then applyErr d
  else setRegN d mChtabApply v

/-- CHTABAPPLY_WRITE (R196). -/
def execChtabapplyWrite (frame : Word) (by' : Agent) (s : State) : Out := onDev s (chtabapplyWrite frame.toNat by')

/-- At each tick: the common staged revision, where every active tile has one, if the next frame is armed (R196). -/
def chtabTick (d : Dev) : Dev :=
  if (rg d mChtabApply).toNat = frameNum d + 1 then
    let ts := activeTiles d
    let rev := match ts with | t :: _ => rf d (aChTab t) 16 16 | [] => 0
    let ok := ts.all fun t => rb d (aChTab t) 32 && rf d (aChTab t) 16 16 == rev
    { d with tables := { d.tables with snap := if ok then some rev else none } }
  else d

/-- CHTAB_SWITCH (R196): at the armed frame every tile switches, or none does. -/
def chtabSwitch (d : Dev) : Dev :=
  let a := (rg d mChtabApply).toNat
  if a = 0 ∨ a ≠ frameNum d ∨ !running d then d
  else
    let d := setRegN d mChtabApply 0
    match d.tables.snap with
    | none => applyErr d
    | some rev =>
      let old := rf d mTouchmark 0 16
      let d := forUp (fun t d => if tileAbsent d t then d else setB (setF d (aChTab t) 0 16 rev) (aChTab t) 32 false) 64 0 d
      let was := (rg d mTouchmark).toNat
      let d := { (setF d mTouchmark 0 16 rev) with tables := ⟨none, some (d.clk.cyc0, old)⟩ }
      if old = rev then d else touchmarkChanged was d

/-- CHTAB_SWITCH (R196). -/
def execChtabSwitch (s : State) : Out := onDev s chtabSwitch

/-- Bytes `[a, a+n)` of the flash. -/
def flashBytes (d : Dev) (a n : Nat) : List Byte := (upto n).map fun i => tabGet flashRest d.flash (a + i)

/-- TABLE_SET_STAGE (R193, R461): a type-4 section at flash offset `addr`, whose first 32 bytes are the digest of the rest. -/
def tableSetStage (t rev addr len : Nat) (d : Dev) : Dev :=
  if !running d || decide (64 ≤ t) || tileAbsent d t then d
  else
    let bs := flashBytes d addr len
    let ok := decide (32 ≤ len) && shake256 32 (bs.drop 32) == bs.take 32
    setB (setF d (aChTab t) 16 16 rev) (aChTab t) 32 ok

/-- TABLE_SET_STAGE (R193). -/
def execTableSetStage (t rev addr len : Nat) (s : State) : Out := onDev s (tableSetStage t rev addr len)

end Sys2Proof.Machine
end

