-- ==== Sys2Proof/Machine/Anvil.lean ====
section
/-!
DEFINITION. Machine/Anvil.lean: the fixed-point solver of an A-die: SOLVE, FACTOR and ITERATE (R198 to R224).
-/
namespace Sys2Proof.Machine

/-! Fixed point (R201 to R203). -/

/-- An exact value v × 2^-p. -/
structure Dy where
  v : Int
  p : Nat
  deriving DecidableEq, Repr

def Dy.add (a b : Dy) : Dy :=
  let p := Nat.max a.p b.p
  ⟨a.v * 2 ^ (p - a.p) + b.v * 2 ^ (p - b.p), p⟩
def Dy.neg (a : Dy) : Dy := ⟨-a.v, a.p⟩
def Dy.sub (a b : Dy) : Dy := a.add b.neg
def Dy.mul (a b : Dy) : Dy := ⟨a.v * b.v, a.p + b.p⟩
def Dy.lt (a b : Dy) : Bool := decide ((a.sub b).v < 0)
def Dy.zero : Dy := ⟨0, 0⟩
def dySum (l : List Dy) : Dy := l.foldl Dy.add Dy.zero

/-- The range certificate with the fixed-point rounding code (R201). -/
structure Cert where
  fa : Nat
  fr : Nat
  fs : Nat
  fl : Nat
  fu : Nat
  fp : Nat
  fy : Nat
  fx : Nat
  tau : Dy
  sigma : Dy
  xrnd : Nat
  deriving DecidableEq, Repr

def certOf (ch xrnd : Nat) : Cert :=
  let pt (i : Nat) : Nat := bits ch (8 * i) 6
  ⟨pt 0, pt 1, pt 2, pt 3, pt 4, pt 5, pt 6, pt 7, ⟨sext 64 (bits ch 64 64), pt 4⟩, ⟨sext 64 (bits ch 128 64), pt 2⟩, xrnd⟩

/-- The record of a system (R207). -/
structure Info where
  first : Option Nat
  cnt : Nat
  sat : Bool
  nv : Bool
  mem : Bool
  deriving DecidableEq, Repr

def Info.none : Info := ⟨Option.none, 0, false, false, false⟩
def Info.bytes (i : Info) : List Byte :=
  bytesOf 4 (i.first.getD 0xFFFFFFFF) ++ bytesOf 2 (satTo 0xFFFF i.cnt) ++
    bytesOf 1 (b2n (i.cnt != 0) + 2 * b2n i.sat + 4 * b2n i.nv + 8 * b2n i.mem) ++ bytesOf 1 0

/-- A computation that may note saturations and replaced pivots of its system. -/
abbrev Calc := StateM Info

def noteSat (b : Bool) : Calc Unit := modify fun i => { i with sat := i.sat || b }

/-- f(e): round once into point `f` and saturate (R202). -/
def fxp (c : Cert) (f : Nat) (x : Dy) : Calc Dy := do
  let r := clampInt 64 true (rePoint c.xrnd x.v x.p f).1
  noteSat r.2
  pure ⟨r.1, f⟩

/-- f(a / b) (R202); a zero divisor, which only a reciprocal of a root that rounds to zero can meet, saturates. -/
def fxDiv (c : Cert) (f : Nat) (a b : Dy) : Calc Dy := do
  if b.v = 0 then
    noteSat true
    pure ⟨if a.v < 0 then -(2 ^ 63) else 2 ^ 63 - 1, f⟩
  else
    let n := a.v * 2 ^ (b.p + f)
    let m := b.v * 2 ^ a.p
    let r := clampInt 64 true (divRound c.xrnd (if m < 0 then -n else n) m.natAbs)
    noteSat r.2
    pure ⟨r.1, f⟩

/-- f(√a) of a value that is not negative (R202). -/
def fxSqrt (c : Cert) (f : Nat) (a : Dy) : Calc Dy := do
  let n := a.v.toNat * 2 ^ (2 * f)
  let w := n / 2 ^ a.p
  let r := isqrtF (bitLen w / 2 + 1) w
  let exact := r * r * 2 ^ a.p == n
  let half := (2 * r + 1) * (2 * r + 1) * 2 ^ a.p
  let up := if exact then false else if c.xrnd = 0 then decide (half ≤ 4 * n)
    else if c.xrnd = 1 then decide (half < 4 * n) || (half == 4 * n && r % 2 == 1)
    else if c.xrnd = 2 then false else r % 2 == 0
  let z := clampInt 64 true ((r + b2n up : Nat) : Int)
  noteSat z.2
  pure ⟨z.1, f⟩

/-- Note a replaced pivot at index `k` (R205). -/
def noteReg (k : Nat) : Calc Unit := modify fun i => { i with cnt := i.cnt + 1, first := some (i.first.getD k) }

/-- reg(p) of R204; `pos`: the Cholesky and CG rule; `cnt`: replacements are counted. -/
def reg (c : Cert) (pos cnt : Bool) (k : Nat) (p : Dy) : Calc Dy := do
  let small := if pos then p.lt c.tau else p.lt c.tau && c.tau.neg.lt p
  if small then
    if cnt then noteReg k
    pure (if !pos && decide (p.v < 0) then c.tau.neg else c.tau)
  else pure p

/-- An input element in format `fm` at point `pt` (R203). -/
def anvIn (d : Dev) (c : Cert) (fm pt a : Nat) : Calc Dy := do
  let code := ld d a (esz fm)
  if fm = 0xA ∨ fm = 0xB then pure ⟨sext (intW fm) code, pt⟩
  else
    let r := toFix c.xrnd 64 pt (decodeF (fmtF fm) code)
    modify fun i => { i with sat := i.sat || (r.2 &&& flSAT != 0), nv := i.nv || (r.2 &&& flNV != 0) }
    pure ⟨r.1, pt⟩

/-- An output value at point `pt` as a code of format `fo` (R203). -/
def anvOut (fo rnd : Nat) (x : Dy) : Calc Nat := do
  if fo = 0xB then pure (wrapBits 64 x.v)
  else if fo = 0xA then
    let r := clampInt 32 true x.v
    noteSat r.2
    pure (wrapBits 32 r.1)
  else pure (encodeF (fmtF fo) rnd false (fixN x.p x.v)).1

/-- A vector of `n` elements from `a`. -/
def anvVec (d : Dev) (c : Cert) (fm pt a n : Nat) : Calc (List Dy) :=
  (upto n).mapM fun i => anvIn d c fm pt (a + i * esz fm)

/-- The bytes of an output vector. -/
def anvBytes (fo rnd : Nat) (xs : List Dy) : Calc (List Byte) := do
  let cs ← xs.mapM (anvOut fo rnd)
  pure (cs.flatMap (bytesOf (esz fo)))

def dyAt (l : List Dy) (i : Nat) : Dy := l.getD i Dy.zero

/-- A band of `n` rows with half-bandwidth `b`; elements outside the matrix are never read (R210). -/
def anvBand (d : Dev) (c : Cert) (fm a n b : Nat) : Calc (List (List Dy)) :=
  (upto n).mapM fun i => (upto (2 * b + 1)).mapM fun k =>
    if i + k < b ∨ n + b ≤ i + k then pure Dy.zero else anvIn d c fm c.fa (a + (i * (2 * b + 1) + k) * esz fm)

/-- Entry (i, j) of a band or of a matrix held by rows. -/
def bandAt (u : List (List Dy)) (b i j : Nat) : Dy := dyAt (u.getD i []) (j + b - i)
def bandSet (u : List (List Dy)) (b i j : Nat) (x : Dy) : List (List Dy) := u.set i ((u.getD i []).set (j + b - i) x)
def matAt (u : List (List Dy)) (i j : Nat) : Dy := dyAt (u.getD i []) j
def matSet (u : List (List Dy)) (i j : Nat) (x : Dy) : List (List Dy) := u.set i ((u.getD i []).set j x)
/-- The numbers `a … e-1`. -/
def rangeFrom (a e : Nat) : List Nat := (upto (e - a)).map (a + ·)

/-! SOLVE and ITERATE parameters (R209, R216). -/

/-- A SOLVE or ITERATE as its packets spell it. -/
structure Slv where
  die : Nat
  mfmt : Nat
  vfmt : Nat
  ofmt : Nat
  rnd : Nat
  b : Nat
  opt6 : Bool
  opt7 : Bool
  method : Nat
  n : Nat
  nsys : Nat
  mat : Nat
  rhs : Nat
  x : Nat
  aux : Nat
  info : Nat
  sm : Nat
  sv : Nat
  sg : Nat
  iters : Nat
  c : Cert
  chain : Nat
  deriving DecidableEq, Repr

def slvOf (q : Nat) (p : Packet) (cont : List Packet) : Slv :=
  let ch := chainOf cont
  ⟨qTile q / 8, pbits p 10 0 4, pbits p 10 4 4, pbits p 11 0 4, pbits p 11 4 3, pbits p 12 0 4, pbits p 12 6 1 == 1,
    pbits p 12 7 1 == 1, pbytes p 13 1, pbytes p 14 2, pbytes p 16 4, pbytes p 20 6, pbytes p 26 6, pbytes p 32 6, pbytes p 38 6,
    pbytes p 44 6, pbytes p 50 4, pbytes p 54 4, pbytes p 58 4, pbytes p 58 2, certOf ch (pbits p 12 4 2), ch⟩

/-- Parameter bits Anvil commands use. -/
def anvilUsed (op : Nat) : List (Nat × Nat) :=
  if op = 0x40 then [(80, 15), (96, 7), (112, 384)]
  else if op = 0x41 then [(80, 15), (96, 3), (104, 392)]
  else [(80, 15), (96, 16), (112, 368)]

/-- Reserved bits of the certificate (R201); `aux`: sigma is in use. -/
def certClean (ch : Nat) (aux : Bool) : Bool :=
  ((upto 8).all fun i => bits ch (8 * i + 6) 2 == 0) && (aux || (bits ch 16 8 == 0 && bits ch 128 64 == 0)) && ch >>> 192 == 0

def anvFmt (c : Nat) : Bool := c == 0 || c == 1 || c == 0xA || c == 0xB

/-- Whether a range lies in a stack of the A-die or in the store of one of its tiles, aligned (R198). -/
def adieMem (d : Dev) (die a n : Nat) : Bool :=
  a % 64 == 0 && ((a / stackSpan == die && decide (a + n ≤ (die + 1) * stackSpan) && inStacks d a n) ||
    (upto 8).any fun l => inTileStore d (8 * die + l) a n)
/-- Whether a stride keeps R198. -/
def strideOk (st unit : Nat) : Bool := st % 64 == 0 && decide (unit ≤ st)
/-- Extent of `cnt` units of `unit` bytes at a stride, from first byte to last. -/
def extent (cnt stride unit : Nat) : Nat := (cnt - 1) * stride + unit

/-- Extents of a SOLVE or ITERATE: mat, rhs, x, info, and aux or work. -/
def Slv.regions (x : Slv) (op : Nat) : List (Nat × Nat) :=
  [(x.mat, extent x.nsys x.sm (x.n * (2 * x.b + 1) * esz x.mfmt)), (x.rhs, extent x.nsys x.sv (x.n * esz x.vfmt)),
    (x.x, extent x.nsys x.sv (x.n * esz x.ofmt)), (x.info, 8 * x.nsys)] ++
  (if op = 0x40 then (if x.opt6 then [(x.aux, extent x.nsys x.sg (x.n * esz x.vfmt))] else [])
   else if x.method = 2 then [(x.aux, extent x.nsys (2 * x.sv + 64) (2 * x.sv + 8))] else [])

/-- Whether reserved fields that depend on others are zero. -/
def slvClean (x : Slv) (op : Nat) (p : Packet) : Bool :=
  if op = 0x40 then certClean x.chain x.opt6 && (x.opt6 || (x.aux == 0 && x.sg == 0)) && pbytes p 13 1 == 0
  else certClean x.chain false && (x.method == 2 || x.aux == 0)

/-- Working set of one system (R210, R216). -/
def Slv.workSet (x : Slv) (op : Nat) : Nat :=
  x.n * (2 * x.b + (if op = 0x40 then 2 else if x.method = 2 then 7 else 4)) * 8

/-- Whether parameters of SOLVE or ITERATE are in range (R198 to R203, R209, R210, R216). -/
def slvInRange (d : Dev) (x : Slv) (op npkt : Nat) : Bool :=
  npkt == 2 && anvFmt x.mfmt && anvFmt x.vfmt && anvFmt x.ofmt && decide (x.rnd ≤ 4) && decide (0 < x.c.tau.v) &&
  decide (1 ≤ x.n ∧ x.n ≤ 4096 ∧ x.b ≤ 15 ∧ x.b < x.n ∧ 1 ≤ x.nsys ∧ x.nsys ≤ 65536) &&
  (x.ofmt != 0xA || decide (x.c.fx ≤ 31)) &&
  (op == 0x40 || (decide (x.method ≤ 2) && decide (1 ≤ x.iters) && decide (x.workSet op ≤ 1048576))) &&
  strideOk x.sm (x.n * (2 * x.b + 1) * esz x.mfmt) && strideOk x.sv (x.n * Nat.max (esz x.vfmt) (esz x.ofmt)) &&
  (op != 0x40 || !x.opt6 || strideOk x.sg (x.n * esz x.vfmt)) && (op == 0x40 || x.method != 2 || decide (8 * x.n ≤ x.sv)) &&
  ((x.regions op).all fun (a, n) => adieMem d x.die a n) &&
  (apart (x.regions op) ||
    (op == 0x40 && x.rhs == x.x && esz x.vfmt == esz x.ofmt && apart ((x.regions op).eraseIdx 2)))

/-- Systems in flight (R220). -/
def inFlightSys (ws : Nat) : Nat := Nat.min 128 (1048576 / ws)

/-- Predicted cycles of SOLVE; of one iteration of ITERATE (R220). -/
def Slv.time (x : Slv) (op : Nat) : Nat :=
  let g := inFlightSys (x.workSet op)
  let w := 2 * x.b + 1
  let cg := b2n (x.method == 2)
  let cl : Nat × Nat :=
    if op = 0x40 then
      let bb := x.n * w * esz x.mfmt + x.n * (esz x.vfmt + esz x.ofmt + (if x.opt6 then esz x.vfmt else 0)) + 8
      (Nat.max (Nat.max (cdiv (x.n * (x.b * x.b + 3 * x.b + 2)) 256) (cdiv x.n 8)) (cdiv bb 512), 16 * x.n + 32)
    else
      let bb := x.n * w * esz x.mfmt + (3 + 3 * cg) * 8 * x.n + 16 * cg
      (Nat.max (Nat.max (cdiv (x.n * (w + 5 * cg)) 256) (if x.method = 2 then 1 else cdiv x.n 8)) (cdiv bb 512),
        if x.method = 0 then 64 else if x.method = 1 then 8 * x.n + 64 else 256)
  Nat.max (x.nsys * cl.1) (cdiv x.nsys g * cl.2)

/-- Predicted count of SOLVE and ITERATE (R220). -/
def slvPred (x : Slv) (op : Nat) : Nat :=
  if op = 0x40 then 64 + x.time op else 64 + (x.iters + b2n (x.method == 2)) * x.time op

/-! Elimination and sweeps (R211, R217). -/

/-- One banded system, in the order of R211. -/
def solveBand (c : Cert) (n b : Nat) (aux : Bool) (a : List (List Dy)) (r g : List Dy) : Calc (List Dy) := do
  let y0 ← (upto n).mapM fun i => fxp c c.fy (if aux then (dyAt r i).add (c.sigma.mul (dyAt g i)) else dyAt r i)
  let st ← (upto n).foldlM (fun (s : List (List Dy) × List Dy × List Dy) k => do
    let piv ← reg c false true k (bandAt s.1 b k k)
    let u := bandSet s.1 b k k piv
    let q ← fxDiv c c.fp ⟨1, 0⟩ piv
    let t ← (rangeFrom (k + 1) (Nat.min n (k + b + 1))).foldlM (fun (t : List (List Dy) × List Dy) i => do
      let l ← fxp c c.fl ((bandAt t.1 b i k).mul q)
      let u ← (rangeFrom (k + 1) (Nat.min n (k + b + 1))).foldlM (fun (u : List (List Dy)) j => do
        let e ← fxp c c.fu ((bandAt u b i j).sub (l.mul (bandAt u b k j)))
        pure (bandSet u b i j e)) t.1
      let yi ← fxp c c.fy ((dyAt t.2 i).sub (l.mul (dyAt t.2 k)))
      pure (u, t.2.set i yi)) (u, s.2.1)
    pure (t.1, t.2, s.2.2 ++ [q])) (a, y0, [])
  (upto n).reverse.foldlM (fun (x : List Dy) k => do
    let sum := dySum ((rangeFrom (k + 1) (Nat.min n (k + b + 1))).map fun j => (bandAt st.1 b k j).mul (dyAt x j))
    let z ← fxp c c.fy ((dyAt st.2.1 k).sub sum)
    let v ← fxp c c.fx (z.mul (dyAt st.2.2 k))
    pure (x.set k v)) (List.replicate n Dy.zero)

/-- Row `i` of a band times a vector, with or without its diagonal. -/
def bandRow (a : List (List Dy)) (n b i : Nat) (diag : Bool) (x : List Dy) : Dy :=
  dySum ((rangeFrom (i - b) (Nat.min n (i + b + 1))).map fun j =>
    if j = i ∧ !diag then Dy.zero else (bandAt a b i j).mul (dyAt x j))

/-- Exact dot product. -/
def dyDot (x y : List Dy) : Dy := dySum ((x.zip y).map fun (a, b) => a.mul b)

/-- The iterate and the CG state: x, res, p, rr. -/
structure Iter where
  x : List Dy
  res : List Dy
  p : List Dy
  rr : Dy
  deriving DecidableEq, Repr

/-- One iteration `k` of a system (R217). -/
def iterStep (c : Cert) (method n b k : Nat) (a : List (List Dy)) (r : List Dy) (s : Iter) : Calc Iter := do
  if method = 2 then
    let w ← (upto n).mapM fun i => fxp c c.fy (bandRow a n b i true s.p)
    let pw ← fxp c c.fu (dyDot s.p w)
    let den ← reg c true true k pw
    let alpha ← fxDiv c c.fl s.rr den
    let x ← (upto n).mapM fun i => fxp c c.fx ((dyAt s.x i).add (alpha.mul (dyAt s.p i)))
    let res ← (upto n).mapM fun i => fxp c c.fy ((dyAt s.res i).sub (alpha.mul (dyAt w i)))
    let rr1 ← fxp c c.fu (dyDot res res)
    let beta ← if s.rr.v = 0 then pure (⟨0, c.fl⟩ : Dy) else fxDiv c c.fl rr1 s.rr
    let p ← (upto n).mapM fun i => fxp c c.fy ((dyAt res i).add (beta.mul (dyAt s.p i)))
    pure ⟨x, res, p, rr1⟩
  else
    let z ← (upto n).foldlM (fun (z : List Dy) i => do
      let sum := bandRow a n b i false (if method = 1 then z else s.x)
      let num ← fxp c c.fy ((dyAt r i).sub sum)
      let piv ← reg c false (k == 0) i (bandAt a b i i)
      let q ← fxDiv c c.fp ⟨1, 0⟩ piv
      let v ← fxp c c.fx (num.mul q)
      pure (z.set i v)) s.x
    pure { s with x := z }

/-- The start of ITERATE: x, and for CG the residual and direction. -/
def iterStart (c : Cert) (method n b : Nat) (a : List (List Dy)) (r x : List Dy) : Calc Iter := do
  if method = 2 then
    let res ← (upto n).mapM fun i => fxp c c.fy ((dyAt r i).sub (bandRow a n b i true x))
    let rr ← fxp c c.fu (dyDot res res)
    pure ⟨x, res, res, rr⟩
  else pure ⟨x, [], [], Dy.zero⟩

/-! Writing results. -/

/-- Write bytes, but not the part on a line that fails (R266); the last failing line is answered and logged. -/
def writeSkip (r : Req) (a : Nat) (bs : List Byte) (d : Dev) : Dev × Option (Nat × Nat) :=
  (upto (lineSpan a bs.length)).foldl (fun (acc : Dev × Option (Nat × Nat)) i =>
    let line := lineOf a + 64 * i
    match lineWriteErr d a bs.length line with
    | some e => (logWriteErr (line, e) r acc.1, some (line, e))
    | none =>
      let lo := Nat.max a line
      let n := Nat.min (line + 64) (a + bs.length) - lo
      (memWrite r lo ((bs.drop (lo - a)).take n) acc.1, acc.2)) (d, none)

/-- What a batch has done: device, systems' records joined, errors. -/
structure Batch where
  d : Dev
  sat : Bool
  reg : Bool
  mem : Nat
  good : Nat

/-- Write the record of system `s` and join its flags. -/
def Batch.record (r : Req) (info s : Nat) (i : Info) (y : Batch) : Batch :=
  let w := writeSkip r (info + 8 * s) i.bytes y.d
  let m := match w.2 with | some e => errStatus e.2 | none => y.mem
  { d := w.1, sat := y.sat || i.sat, reg := y.reg || i.cnt != 0, mem := m, good := y.good }

/-- Status of an Anvil command by the precedence of R84: memory error, PARTIAL or ABORTED, saturation, replaced pivots. -/
def Batch.status (y : Batch) (base : Nat) : Nat :=
  if y.mem ≠ 0 then y.mem else if base ≠ 0 then base else if y.sat then 0x08 else if y.reg then 0x07 else 0

/-- Ranges system `s` reads, or writes. -/
def Slv.spans (x : Slv) (op s : Nat) : List (Nat × Nat × Bool) :=
  let w := 2 * x.b + 1
  let e := esz x.mfmt
  ([(x.mat + s * x.sm + x.b * e, (x.n * w - 2 * x.b) * e, false), (x.rhs + s * x.sv, x.n * esz x.vfmt, false)] ++
    (if op = 0x40 ∧ x.opt6 then [(x.aux + s * x.sg, x.n * esz x.vfmt, false)] else []) ++
    (if op = 0x42 ∧ x.opt7 then [(x.x + s * x.sv, x.n * esz x.ofmt, false)] else []) ++
    [(x.x + s * x.sv, x.n * esz x.ofmt, true)])

/-- First failing line among those system `s` reads and writes. -/
def Slv.sysErr (d : Dev) (x : Slv) (op s : Nat) : Option ((Nat × Nat) × Bool) := spanErr d (x.spans op s)

/-- Log a failing line a system met. -/
def logSys (r : Req) (e : (Nat × Nat) × Bool) (d : Dev) : Dev := if e.2 then logWriteErr e.1 r d else logErr e.1 r d

/-- Systems of a SOLVE from `s` on, until one meets a failing line (R211, R223). -/
def solveRun (r : Req) (x : Slv) : Nat → Nat → Batch → Batch
  | 0, _, y => y
  | k + 1, s, y =>
    match x.sysErr y.d 0x40 s with
    | some e =>
      let y := Batch.record r x.info s { Info.none with mem := true } { y with d := logSys r e y.d }
      { y with mem := errStatus e.1.2 }
    | none =>
      let y := { y with d := correctSpans (readsOf (x.spans 0x40 s)) r y.d }
      let c : Calc (List Byte) := do
        let a ← anvBand y.d x.c x.mfmt (x.mat + s * x.sm) x.n x.b
        let rv ← anvVec y.d x.c x.vfmt x.c.fr (x.rhs + s * x.sv) x.n
        let g ← if x.opt6 then anvVec y.d x.c x.vfmt x.c.fr (x.aux + s * x.sg) x.n else pure []
        let z ← solveBand x.c x.n x.b x.opt6 a rv g
        anvBytes x.ofmt x.rnd z
      let z := c.run Info.none
      let y := Batch.record r x.info s z.2 { y with d := memWrite r (x.x + s * x.sv) z.1 y.d }
      solveRun r x k (s + 1) { y with good := y.good + 1 }

/-- Requester of an Anvil command (R268). -/
def anvilReq (f : Flight) : Req := f.req 4 (qTile f.q / 8)

/-- SOLVE (R209 to R211, R222, R223). -/
def solve (f : Flight) (d : Dev) : Dev :=
  let x := slvOf f.q f.head f.cont
  match (x.regions 0x40).findSome? (fun (a, n) => badRange d true a n) with
  | some (st, det) => finish f.q f.seq st det 0 d
  | none =>
    let lim := unitsDone f x.nsys d
    let y := solveRun (anvilReq f) x lim.1 0 ⟨lim.2, false, false, 0, 0⟩
    let o := if y.good < x.nsys then stopped f y.good else (0, 0, x.nsys)
    finish f.q f.seq (y.status o.1) (if y.mem = 0 then o.2.1 else 0) y.good y.d

/-- SOLVE (R211). -/
def execSolve (q seq : Nat) (s : State) : Out := onDev s (withFlight 0x40 q seq solve)

/-! ITERATE (R216 to R219, R223). -/

/-- Iterations performed before a stop under R219: those whose predicted time fits before the deadline, the first beginning
no earlier than now. -/
def iterFit (f : Flight) (x : Slv) (d : Dev) : Nat :=
  match (if x.opt6 ∧ (pkBind f.head = 2 ∨ pkBind f.head = 3) then f.deadline else none) with
  | none => x.iters
  | some dl =>
    let p := x.time 0x42
    let start := Nat.max d.clk.cyc (f.predEnd - slvPred x 0x42) + 64 + b2n (x.method == 2) * p
    Nat.min x.iters ((dl - start) / p)

/-- Free bytes over a vector the spec leaves undefined. -/
def freeBytes (r : Req) (a : Nat) : Nat → Dev → Dev
  | 0, d => d
  | n + 1, d => let v := draw d; freeBytes r (a + 1) n (memWriteN r a 1 v.1 v.2)

/-- System `s` of an ITERATE through `k` iterations (R217); a system with a failing line has its record marked and an
undefined x. -/
def iterSys (r : Req) (x : Slv) (k s : Nat) (y : Batch) : Batch :=
  match x.sysErr y.d 0x42 s with
  | some e =>
    let d := freeBytes r (x.x + s * x.sv) (x.n * esz x.ofmt) (logSys r e y.d)
    { Batch.record r x.info s { Info.none with mem := true } { y with d := d } with mem := errStatus e.1.2 }
  | none =>
    let y := { y with d := correctSpans (readsOf (x.spans 0x42 s)) r y.d }
    let c : Calc (List Byte × Iter) := do
      let a ← anvBand y.d x.c x.mfmt (x.mat + s * x.sm) x.n x.b
      let rv ← anvVec y.d x.c x.vfmt x.c.fr (x.rhs + s * x.sv) x.n
      let x0 ← if x.opt7 then anvVec y.d x.c x.ofmt x.c.fx (x.x + s * x.sv) x.n else pure (List.replicate x.n Dy.zero)
      let s0 ← iterStart x.c x.method x.n x.b a rv x0
      let z ← (upto k).foldlM (fun z i => iterStep x.c x.method x.n x.b i a rv z) s0
      let bs ← anvBytes x.ofmt x.rnd z.x
      pure (bs, z)
    let z := c.run Info.none
    let d := memWrite r (x.x + s * x.sv) z.1.1 y.d
    let base := x.aux + s * (2 * x.sv + 64)
    let vec (l : List Dy) : List Byte := l.flatMap fun v => bytesOf 8 (wrapBits 64 v.v)
    let d := if x.method = 2 then
        memWriteN r (base + 2 * x.sv) 8 (wrapBits 64 z.1.2.rr.v) (memWrite r (base + x.sv) (vec z.1.2.p) (memWrite r base (vec z.1.2.res) d))
      else d
    Batch.record r x.info s z.2 { y with d := d }

/-- ITERATE. -/
def iterate (f : Flight) (d : Dev) : Dev :=
  let x := slvOf f.q f.head f.cont
  match (x.regions 0x42).findSome? (fun (a, n) => badRange d true a n) with
  | some (st, det) => finish f.q f.seq st det 0 d
  | none =>
    let r := anvilReq f
    let lim := unitsDone f x.iters d
    let fit := iterFit f x lim.2
    let k := Nat.min lim.1 fit
    if f.stop ≠ 0 ∧ lim.1 = 0 then
      let o := stopped f 0
      finish f.q f.seq o.1 o.2.1 0 lim.2
    else
      let bad := (upto x.nsys).any fun s => (x.sysErr lim.2 0x42 s).isSome
      let k := if bad then Nat.min k 1 else k
      let y := (upto x.nsys).foldl (fun y s => iterSys r x k s y) ⟨lim.2, false, false, 0, 0⟩
      let cut := decide (k = fit ∧ k < x.iters) && !bad
      let base := if k < x.iters ∧ !bad then 0x01 else 0
      finish f.q f.seq (y.status base) (if y.mem = 0 ∧ cut then 0x0001 else 0) k y.d

/-- ITERATE (R217). -/
def execIterate (q seq : Nat) (s : State) : Out := onDev s (withFlight 0x42 q seq iterate)

/-! FACTOR (R212 to R215). -/

/-- A FACTOR as its packets spell it. -/
structure Fac where
  die : Nat
  mfmt : Nat
  vfmt : Nat
  ofmt : Nat
  rnd : Nat
  chol : Bool
  nrhs : Nat
  n : Nat
  nmat : Nat
  a : Nat
  rhs : Nat
  f : Nat
  x : Nat
  info : Nat
  sm : Nat
  lda : Nat
  sv : Nat
  c : Cert
  chain : Nat
  deriving DecidableEq, Repr

def facOf (q : Nat) (p : Packet) (cont : List Packet) : Fac :=
  let ch := chainOf cont
  ⟨qTile q / 8, pbits p 10 0 4, pbits p 10 4 4, pbits p 11 0 4, pbits p 11 4 3, pbits p 12 0 1 == 1, pbytes p 13 1, pbytes p 14 2,
    pbytes p 16 4, pbytes p 20 6, pbytes p 26 6, pbytes p 32 6, pbytes p 38 6, pbytes p 44 6, pbytes p 50 4, pbytes p 54 4,
    pbytes p 58 4, certOf ch (pbits p 12 1 2), ch⟩

/-- Bytes of one right-hand-side row (R213). -/
def Fac.rowv (x : Fac) (e : Nat) : Nat := roundUp (x.n * e) 64
/-- Extent of one matrix. -/
def Fac.unit (x : Fac) (e : Nat) : Nat := (x.n - 1) * x.lda + x.n * e
def Fac.regions (x : Fac) : List (Nat × Nat) :=
  [(x.a, extent x.nmat x.sm (x.unit (esz x.mfmt))), (x.f, extent x.nmat x.sm (x.unit (esz x.ofmt))), (x.info, 8 * x.nmat)] ++
  (if x.nrhs = 0 then [] else
    [(x.rhs, extent x.nmat x.sv (x.nrhs * x.rowv (esz x.vfmt))), (x.x, extent x.nmat x.sv (x.nrhs * x.rowv (esz x.ofmt)))])

/-- Regions with one of each allowed coinciding pair dropped (R213). -/
def Fac.distinct (x : Fac) : List (Nat × Nat) :=
  let r := x.regions
  let r := if x.nrhs ≠ 0 ∧ x.rhs = x.x ∧ esz x.vfmt = esz x.ofmt then r.eraseIdx 4 else r
  if x.a = x.f ∧ esz x.mfmt = esz x.ofmt then r.eraseIdx 1 else r

def facClean (x : Fac) : Bool :=
  certClean x.chain false && (x.nrhs != 0 || (x.vfmt == 0 && x.rhs == 0 && x.x == 0 && x.sv == 0))

/-- Predicted count of FACTOR (R220). -/
def facPred (x : Fac) : Nat :=
  let w := cdiv (x.n * x.n * x.n) (if x.chol then 6 else 3) + x.nrhs * x.n * x.n
  let b := 16 * x.n * x.n + 16 * x.nrhs * x.n + 8
  let c := Nat.max (Nat.max (cdiv w 256) (cdiv x.n 4)) (cdiv b 512)
  64 + Nat.max (x.nmat * c) (cdiv x.nmat (inFlightSys ((x.n + x.nrhs) * x.n * 8)) * (24 * x.n))

/-- Whether FACTOR parameters are in range (R198, R201, R203, R212, R213, R215). -/
def facInRange (d : Dev) (x : Fac) (npkt : Nat) : Bool :=
  npkt == 2 && anvFmt x.mfmt && anvFmt x.ofmt && (x.nrhs == 0 || anvFmt x.vfmt) && decide (x.rnd ≤ 4) && decide (0 < x.c.tau.v) &&
  decide (1 ≤ x.n ∧ x.n ≤ 256 ∧ 1 ≤ x.nmat ∧ x.nmat ≤ 4096 ∧ x.nrhs ≤ 16) &&
  (x.ofmt != 0xA || (decide (x.c.fl ≤ 31) && (x.chol || decide (x.c.fu ≤ 31)) && (x.nrhs == 0 || decide (x.c.fx ≤ 31)))) &&
  strideOk x.lda (x.n * Nat.max (esz x.mfmt) (esz x.ofmt)) && strideOk x.sm (x.unit (Nat.max (esz x.mfmt) (esz x.ofmt))) &&
  (x.nrhs == 0 || strideOk x.sv (x.nrhs * x.rowv (Nat.max (esz x.vfmt) (esz x.ofmt)))) &&
  (x.regions.all fun (a, n) => adieMem d x.die a n) && apart x.distinct && decide (facPred x ≤ 65536)

/-- Σ_{p<k} of products of factor entries. -/
def facSum (k : Nat) (g : Nat → Dy) : Dy := dySum ((upto k).map g)

/-- LU (R214): u above and on the diagonal, l below, with the reciprocals of the pivots. -/
def luFactor (c : Cert) (n : Nat) (a : List (List Dy)) : Calc (List (List Dy) × List Dy) :=
  (upto n).foldlM (fun (s : List (List Dy) × List Dy) k => do
    let m ← (rangeFrom k n).foldlM (fun (m : List (List Dy)) j => do
      let v ← fxp c c.fu ((matAt m k j).sub (facSum k fun p => (matAt m k p).mul (matAt m p j)))
      pure (matSet m k j v)) s.1
    let piv ← reg c false true k (matAt m k k)
    let m := matSet m k k piv
    let q ← fxDiv c c.fp ⟨1, 0⟩ piv
    let m ← (rangeFrom (k + 1) n).foldlM (fun (m : List (List Dy)) i => do
      let t ← fxp c c.fu ((matAt m i k).sub (facSum k fun p => (matAt m i p).mul (matAt m p k)))
      let v ← fxp c c.fl (t.mul q)
      pure (matSet m i k v)) m
    pure (m, s.2 ++ [q])) (a, [])

/-- Cholesky (R214): l on and below the diagonal, with the reciprocals of the roots. -/
def cholFactor (c : Cert) (n : Nat) (a : List (List Dy)) : Calc (List (List Dy) × List Dy) :=
  (upto n).foldlM (fun (s : List (List Dy) × List Dy) k => do
    let t ← fxp c c.fu ((matAt s.1 k k).sub (facSum k fun p => (matAt s.1 k p).mul (matAt s.1 k p)))
    let dd ← reg c true true k t
    let root ← fxSqrt c c.fl dd
    let m := matSet s.1 k k root
    let q ← fxDiv c c.fp ⟨1, 0⟩ root
    let m ← (rangeFrom (k + 1) n).foldlM (fun (m : List (List Dy)) i => do
      let t ← fxp c c.fu ((matAt m i k).sub (facSum k fun p => (matAt m i p).mul (matAt m k p)))
      let v ← fxp c c.fl (t.mul q)
      pure (matSet m i k v)) m
    pure (m, s.2 ++ [q])) (a, [])

/-- One right-hand side against the factors (R214). -/
def facSolve (c : Cert) (n : Nat) (chol : Bool) (m : List (List Dy)) (q r : List Dy) : Calc (List Dy) := do
  let y ← (upto n).foldlM (fun (y : List Dy) i => do
    let t ← fxp c c.fy ((dyAt r i).sub (facSum i fun p => (matAt m i p).mul (dyAt y p)))
    let v ← if chol then fxp c c.fy (t.mul (dyAt q i)) else pure t
    pure (y ++ [v])) []
  (upto n).reverse.foldlM (fun (x : List Dy) i => do
    let sum := dySum ((rangeFrom (i + 1) n).map fun p => (if chol then matAt m p i else matAt m i p).mul (dyAt x p))
    let t ← fxp c c.fy ((dyAt y i).sub sum)
    let v ← fxp c c.fx (t.mul (dyAt q i))
    pure (x.set i v)) (List.replicate n Dy.zero)

/-- Columns of row `i` a factorisation reads and writes. -/
def Fac.cols (x : Fac) (i : Nat) : Nat := if x.chol then i + 1 else x.n

/-- Ranges matrix `s` reads, or writes. -/
def Fac.spans (x : Fac) (s : Nat) : List (Nat × Nat × Bool) :=
  (((upto x.n).flatMap fun i =>
      [(x.a + s * x.sm + i * x.lda, x.cols i * esz x.mfmt, false), (x.f + s * x.sm + i * x.lda, x.cols i * esz x.ofmt, true)]) ++
    ((upto x.nrhs).flatMap fun v =>
      [(x.rhs + s * x.sv + v * x.rowv (esz x.vfmt), x.n * esz x.vfmt, false),
       (x.x + s * x.sv + v * x.rowv (esz x.ofmt), x.n * esz x.ofmt, true)]))

/-- First failing line among those matrix `s` reads and writes. -/
def Fac.matErr (d : Dev) (x : Fac) (s : Nat) : Option ((Nat × Nat) × Bool) := spanErr d (x.spans s)

/-- Matrix `s` of a FACTOR (R214, R223). -/
def facMat (r : Req) (x : Fac) (s : Nat) (y : Batch) : Batch :=
  match x.matErr y.d s with
  | some e =>
    { Batch.record r x.info s { Info.none with mem := true } { y with d := logSys r e y.d } with mem := errStatus e.1.2 }
  | none =>
    let y := { y with d := correctSpans (readsOf (x.spans s)) r y.d }
    let cc : Calc (List (List Byte) × List (List Byte)) := do
      let a ← (upto x.n).mapM fun i => (upto x.n).mapM fun j =>
        if j < x.cols i then anvIn y.d x.c x.mfmt x.c.fa (x.a + s * x.sm + i * x.lda + j * esz x.mfmt) else pure Dy.zero
      let rs ← (upto x.nrhs).mapM fun v => anvVec y.d x.c x.vfmt x.c.fr (x.rhs + s * x.sv + v * x.rowv (esz x.vfmt)) x.n
      let m ← if x.chol then cholFactor x.c x.n a else luFactor x.c x.n a
      let xs ← rs.mapM fun r => facSolve x.c x.n x.chol m.1 m.2 r
      let fb ← (upto x.n).mapM fun i => anvBytes x.ofmt x.rnd ((m.1.getD i []).take (x.cols i))
      let xb ← xs.mapM (anvBytes x.ofmt x.rnd)
      pure (fb, xb)
    let z := cc.run Info.none
    let d := z.1.1.zipIdx.foldl (fun d (b, i) => memWrite r (x.f + s * x.sm + i * x.lda) b d) y.d
    let d := z.1.2.zipIdx.foldl (fun d (b, v) => memWrite r (x.x + s * x.sv + v * x.rowv (esz x.ofmt)) b d) d
    let y := Batch.record r x.info s z.2 { y with d := d }
    { y with good := y.good + 1 }

/-- FACTOR (R212 to R215, R223): it runs to completion. -/
def factor (f : Flight) (d : Dev) : Dev :=
  let x := facOf f.q f.head f.cont
  match x.regions.findSome? (fun (a, n) => badRange d true a n) with
  | some (st, det) => finish f.q f.seq st det 0 d
  | none =>
    let y := (upto x.nmat).foldl (fun y s => facMat (anvilReq f) x s y) ⟨d, false, false, 0, 0⟩
    finish f.q f.seq (y.status 0) 0 y.good y.d

/-- FACTOR (R214). -/
def execFactor (q seq : Nat) (s : State) : Out := onDev s (withFlight 0x41 q seq factor)

end Sys2Proof.Machine
end

