-- ==== Sys2Proof/Machine/Counters.lean ====
section
/-!
DEFINITION. Machine/Counters.lean: engine counters, samples, the trace staging store and its two rings, and trace events (R485 to
R501). Busy, idle and stalled cycles have no given source in a model without cycle detail: their increases are free values within
R486 (log entry 3).
-/
namespace Sys2Proof.Machine

/-! Live counters (R485 to R489). -/

/-- Word `w` of the counter block of engine `e` (R487): 0 busy, 1 idle, 2 + c the stalls of reason c, 18 commands; word 31 keeps
the cycle up to which the engine's cycles have been classified. -/
def cnt (d : Dev) (e w : Nat) : Nat := tabGet (fun _ => 0) d.counters (32 * e + w)
def setCnt (e w v : Nat) (d : Dev) : Dev := { d with counters := tabSet (fun _ => 0) d.counters (32 * e + w) v }

/-- Give `n` cycles to words `ws` of an engine's block, each a free share of what is left; what remains is idle (R486). -/
def shareCycles (e : Nat) : List Nat → Nat → Dev → Dev
  | [], n, d => setCnt e 1 (cnt d e 1 + n) d
  | w :: ws, n, d =>
    let x := drawBelow (n + 1) d
    shareCycles e ws (n - x.1) (setCnt e w (cnt d e w + x.1) x.2)

/-- Classify the cycles of engine `e` up to now: each is busy, idle or stalled for one reason; reason 9 lies outside the split and
counts at most every cycle (R486). -/
def classify (e : Nat) (d : Dev) : Dev :=
  let n := d.clk.cyc - cnt d e 31
  if n = 0 then d
  else
    let d := setCnt e 31 d.clk.cyc d
    let d := shareCycles e (0 :: ((upto 16).filter (· != 9)).map (· + 2)) n d
    let x := drawBelow (n + 1) d
    setCnt e 11 (cnt x.2 e 11 + x.1) x.2

/-! The trace staging store (R496). -/

/-- Bytes the staging store holds. -/
def stagedTrace (d : Dev) : Nat := d.trc.staged.foldl (fun n e => n + e.2.length) 0
def modTrc (f : Trace → Trace) (d : Dev) : Dev := { d with trc := f d.trc }

/-- The 64 bytes of an event record (R499). -/
def eventBytes (d : Dev) (typ never eid q seq tag op status detail count pred dl payload : Nat) : List Byte :=
  bytesOf 8 (podNs d) ++ bytesOf 1 typ ++ bytesOf 1 (never + 2 * b2n (!locked d)) ++ bytesOf 2 eid ++ bytesOf 2 q ++ bytesOf 2 seq ++
    bytesOf 4 tag ++ bytesOf 1 op ++ bytesOf 1 status ++ bytesOf 2 detail ++ bytesOf 4 count ++ bytesOf 4 pred ++
    bytesOf 8 (frameNum d) ++ bytesOf 4 (frameCycle d) ++ bytesOf 4 dl ++ bytesOf 16 payload

/-- A GAP record is staged as soon as there is room (R496, R499). -/
def stageGap (d : Dev) : Dev :=
  match d.trc.gap with
  | some (n, t) =>
    if stagedTrace d + 64 ≤ 8 * mib then
      let bs := eventBytes d 5 0 0xFFFF 0xFFFF 0 0 0 0 0 n (t % 2 ^ 32) 0xFFFFFFFF 0
      modTrc (fun t => { t with gap := none, staged := t.staged ++ [(false, bs)] }) d
    else d
  | none => d

/-- Stage an event record or a sample set; it is dropped where the store is full (R496). -/
def stageRecord (sample : Bool) (bs : List Byte) (d : Dev) : Dev :=
  let d := stageGap d
  if d.trc.gap.isNone && decide (stagedTrace d + bs.length ≤ 8 * mib) then
    modTrc (fun t => { t with staged := t.staged ++ [(sample, bs)] }) d
  else modTrc (fun t => { t with gap := match t.gap with | some (n, x) => some (n + 1, x) | none => some (1, podNs d) }) d

/-! Events (R498 to R501). -/

/-- Kind bit of an engine (R490); none for the management path. -/
def kindOf (e : Nat) : Option Nat := if e < 256 then some (e % 4) else if e < 264 then some 5 else if e < 576 then some 4 else none

/-- Whether events of a command of tile `t` and class `cls` on engine `e` are recorded (R498). -/
def traced (d : Dev) (t e cls : Nat) : Bool :=
  rb d mTrcEvt 11 && (match kindOf e with | some k => rb d mTrcEvt k | none => false) && rb d mTrcEvt (6 + cls) && ef d mCntTiles t 1 == 1

/-- A START (R500). -/
def traceStart (f : Flight) (pred : Nat) (d : Dev) : Dev :=
  if traced d (qTile f.q) f.eng (pkClass f.head) then
    let dl := match f.deadline with | some c => c - d.clk.cyc0 | none => 0xFFFFFFFF
    stageRecord false (eventBytes d 1 0 (eidOf f.eng) f.q f.seq (pkTag f.head) f.op 0 0 0 pred dl 0) d
  else d

/-- An END (R500); `never`: the command was never started. -/
def traceEnd (q seq e tag op cls status detail count : Nat) (never : Bool) (d : Dev) : Dev :=
  if traced d (qTile q) e cls then
    stageRecord false (eventBytes d 2 (b2n never) (eidOf e) q seq tag op status detail count 0 0xFFFFFFFF 0) d
  else d

/-- The TICK of a frame that begins. -/
def traceTick (d : Dev) : Dev :=
  if rb d mTrcEvt 11 && rb d mTrcEvt 10 then
    stageRecord false (eventBytes d 4 0 0xFFFF 0xFFFF 0 0 0 0 0 0 0 0xFFFFFFFF 0) d
  else d

/-- TRACE_MARK (R501): OK with count 0, and a MARK where events are enabled and the tile is selected. -/
def traceMark (f : Flight) (d : Dev) : Dev :=
  let t := qTile f.q
  let d := if rb d mTrcEvt 11 && ef d mCntTiles t 1 == 1 then
      stageRecord false (eventBytes d 3 0 (8 * t + 4) f.q f.seq (pkTag f.head) 0xF0 0 (pbytes f.head 10 2) 0 0 0xFFFFFFFF
        (pbytes f.head 16 16)) d
    else d
  finish f.q f.seq 0 0 0 d

/-- TRACE_MARK (R501). -/
def execTraceMark (q seq : Nat) (s : State) : Out := onDev s (withFlight 0xF0 q seq traceMark)

/-! Sampling (R490 to R492). -/

/-- Engines the settings in force select, in increasing identifier (R490). -/
def sampledEids (d : Dev) : List Nat :=
  let k (i : Nat) : Bool := ef d mCntSamp (17 + i) 1 == 1
  (((upto 64).filter fun t => ef d mCntTiles t 1 == 1).flatMap fun t => ((upto 5).filter k).map (8 * t + ·)) ++
    ((upto 8).flatMap fun a => (if k 5 then [0x200 + 4 * a] else []) ++ (if k 6 then [0x201 + 4 * a, 0x202 + 4 * a] else [])) ++
    (if k 7 then (upto 20).map (0x220 + ·) else [])

/-- Increase of a counter since the engine's last sample. -/
def cntRise (d : Dev) (e w : Nat) : Nat := cnt d e w - tabGet (fun _ => 0) d.trc.last (32 * e + w)
/-- An engine's sample record (R492). -/
def sampleRec (d : Dev) (e : Nat) : List Byte :=
  bytesOf 2 e ++ bytesOf 2 0 ++ bytesOf 4 (cntRise d e 18) ++ bytesOf 4 (cntRise d e 0) ++ bytesOf 4 (cntRise d e 1) ++
    ((upto 16).flatMap fun c => bytesOf 4 (cntRise d e (2 + c))) ++ bytesOf 48 0
/-- A sample set (R492). -/
def sampleSet (d : Dev) (es : List Nat) : List Byte :=
  bytesOf 8 (podNs d) ++ bytesOf 8 (frameNum d) ++ bytesOf 4 (frameCycle d) ++ bytesOf 4 (d.clk.cyc - d.trc.lastCyc) ++
    bytesOf 2 es.length ++ bytesOf 1 (b2n (d.trc.sseq == 0) + 2 * ef d mCntSamp 16 1 + 4 * b2n (!locked d)) ++ bytesOf 1 0 ++
    bytesOf 4 (rg d mTouchmark).toNat ++ bytesOf 8 d.trc.sseq ++ bytesOf 24 0 ++ es.flatMap (sampleRec d)

/-- Remember every counter of the engines `es` as it stands. -/
def markCounters (es : List Nat) (d : Dev) : Dev :=
  es.foldl (fun d e => forUp (fun w d => modTrc (fun t => { t with last := tabSet (fun _ => 0) t.last (32 * e + w) (cnt d e w) }) d) 19 0 d) d

/-- Settings of the counters come into force at a tick (R490); an enable begins a new series. -/
def counterTick (d : Dev) : Dev :=
  let was := ef d mCntSamp 25 1
  let d := latch (latch d mCntSamp) mCntTiles
  if was = 0 ∧ ef d mCntSamp 25 1 = 1 then
    let es := (upto 0x234).filter eidValid
    let d := markCounters es (es.foldl (fun d e => classify e d) d)
    modTrc (fun t => { t with sseq := 0, lastCyc := d.clk.cyc, lastNs := podNs d, lastFrame := none }) d
  else d

/-- COUNTER_SAMPLE (R491): the next sample, at a whole multiple of the interval or in the cycle of a tick. -/
def counterSample (d : Dev) : Dev :=
  let per := ef d mCntSamp 16 1 == 1
  let iv := 1000 * ef d mCntSamp 0 16
  if !running d ∨ ef d mCntSamp 25 1 = 0 ∨ (per ∧ (d.clk.cyc ≠ d.clk.cyc0 ∨ d.trc.lastFrame = some (frameNum d))) ∨ (!per ∧ iv = 0) then d
  else
    let d := if per then d else
      let t := (d.trc.lastNs / iv + 1) * iv
      modTrc (fun x => { x with lastNs := t }) (passTo (24 * t) d)
    let es := sampledEids d
    let d := es.foldl (fun d e => classify e d) d
    let d := markCounters es (stageRecord true (sampleSet d es) d)
    modTrc (fun t => { t with sseq := t.sseq + 1, lastCyc := d.clk.cyc, lastFrame := some (frameNum d) }) d

/-- COUNTER_SAMPLE (R491). -/
def execCounterSample (s : State) : Out := onDev s counterSample

/-! The trace region (R493 to R497). -/

/-- Address of unit `n` of the event ring (`sample` false) or of the sample ring. -/
def unitAddr (d : Dev) (sample : Bool) (n : Nat) : Nat :=
  let b := (traceRange d).1
  if sample then b + 64 * 2 ^ rf d mTrcCfg 28 5 + 64 * (n % 2 ^ rf d mTrcCfg 33 5) else b + 64 * (n % 2 ^ rf d mTrcCfg 28 5)

/-- Write the units of one record or set at the ring's wr. -/
def putUnits (sample : Bool) (ptr : Nat) : Nat → List Byte → Dev → Dev
  | 0, _, d => d
  | k + 1, bs, d =>
    let d := ringWrite (unitAddr d sample (rf d ptr 0 28)) (bs.take 64) d
    putUnits sample ptr k (bs.drop 64) (setF d ptr 0 28 (rf d ptr 0 28 + 1))

/-- Move staged records to their rings, oldest first; one that an open copy session holds waits, with those behind it (R495,
R496). -/
def drainGo : Nat → Dev → Dev
  | 0, d => d
  | f + 1, d =>
    match d.trc.staged with
    | [] => d
    | (sample, bs) :: rest =>
      let ptr := if sample then mTrcSPtr else mTrcEPtr
      let n := bs.length / 64
      let size := 2 ^ (if sample then rf d mTrcCfg 33 5 else rf d mTrcCfg 28 5)
      let wraps := rb d mTrcCfg (if sample then 39 else 38)
      let used := (rf d ptr 0 28 + 2 ^ 28 - rf d ptr 28 28) % 2 ^ 28
      let next := modTrc (fun t => { t with staged := rest })
      if !wraps && decide (size < used + n) then drainGo f (next (addSat d ptr 56 8 1))
      else if (upto n).any fun i => mustHold d (unitAddr d sample (rf d ptr 0 28 + i)) then d
      else drainGo f (next (putUnits sample ptr n bs d))

/-- TRACE_DRAIN (R496). -/
def traceDrain (d : Dev) : Dev :=
  if running d && rb d mTrcCfg 40 then
    let d := drainGo d.trc.staged.length d
    stageGap d
  else d

/-- TRACE_DRAIN (R496). -/
def execTraceDrain (s : State) : Out := onDev s traceDrain

end Sys2Proof.Machine
end

