-- ==== Sys2Proof/Machine/Hart.lean ====
section
/-!
DEFINITION. Machine/Hart.lean: registers of the harts (R225, R239 to R242), the exceptions they raise, and loads that wait for
other nodes (R235, R253, R254).
-/
namespace Sys2Proof.Machine

def hartAt (d : Dev) (h : Nat) : Hart := tabGet hart0 d.harts h
def modHart (h : Nat) (f : Hart → Hart) (d : Dev) : Dev := { d with harts := tabMod hart0 d.harts h f }

/-- x[r]; x0 reads as zero. -/
def xReg (d : Dev) (h r : Nat) : Nat := if r = 0 then 0 else tabGet (fun _ => 0) (hartAt d h).x r
/-- Write x[r]; a write of x0 is discarded. -/
def setX (h r v : Nat) (d : Dev) : Dev :=
  if r = 0 then d else modHart h (fun t => { t with x := tabSet (fun _ => 0) t.x r (v % 2 ^ 64) }) d
/-- Whether f registers overlay the vector registers (R242). -/
def overlay (d : Dev) (h : Nat) : Bool := bitAt (hartAt d h).hlvcfg 0
/-- v[n], 2,048 bits. -/
def vReg (d : Dev) (h n : Nat) : Nat := tabGet (fun _ => 0) (hartAt d h).v n
def setV (h n v : Nat) (d : Dev) : Dev := modHart h (fun t => { t with v := tabSet (fun _ => 0) t.v n (v % 2 ^ 2048) }) d
/-- f[n]: bits [63:0] of v[n] in overlay mode (R242). -/
def fReg (d : Dev) (h n : Nat) : Nat := if overlay d h then vReg d h n % 2 ^ 64 else tabGet (fun _ => 0) (hartAt d h).f n
/-- Write f[n]; in overlay mode bits [2047:64] of v[n] stay (R242). -/
def setFReg (h n v : Nat) (d : Dev) : Dev :=
  if overlay d h then setV h n (putBits (vReg d h n) 0 64 v) d
  else modHart h (fun t => { t with f := tabSet (fun _ => 0) t.f n (v % 2 ^ 64) }) d
/-- p[n]; p0 reads as all ones (R239). -/
def pReg (d : Dev) (h n : Nat) : Nat := if n = 0 then 2 ^ 2048 - 1 else tabGet (fun _ => 0) (hartAt d h).p n
/-- Write p[n]; a write of p0 is ignored. -/
def setP (h n v : Nat) (d : Dev) : Dev :=
  if n = 0 then d else modHart h (fun t => { t with p := tabSet (fun _ => 0) t.p n (v % 2 ^ 2048) }) d

/-- NaN-boxing of an FP32 value (R242). -/
def boxed (v : Nat) : Nat := (2 ^ 32 - 1) <<< 32 + v % 2 ^ 32

/-- Registers of a group (R239, R241). -/
def groupOf (d : Dev) (h : Nat) : Nat := 2 ^ bits (hartAt d h).hlvcfg 1 2
/-- VLMAX for elements of `es` bytes (R241). -/
def vlmax (d : Dev) (h es : Nat) : Nat := 256 * groupOf d h / es
/-- Element `i` of the group at `n` (R241). -/
def vElem (d : Dev) (h n es i : Nat) : Nat := bits (vReg d h (n + i * es / 256)) (8 * (i * es % 256)) (8 * es)
def setVElem (h n es i v : Nat) (d : Dev) : Dev :=
  let r := n + i * es / 256
  setV h r (putBits (vReg d h r) (8 * (i * es % 256)) (8 * es) v) d

/-- HLV state was written: shlvctl is Dirty (R240). -/
def dirty (h : Nat) (d : Dev) : Dev := modHart h (fun t => { t with shlvctl := 3 }) d
/-- A scalar F or D instruction writes f[n]; in overlay mode that writes HLV state (R240, R242). -/
def writeF (h n v : Nat) (d : Dev) : Dev :=
  let d := setFReg h n v d
  if overlay d h && (hartAt d h).shlvctl != 0 then dirty h d else d
/-- An HLV instruction completes: hlvstart becomes 0 (R253). -/
def hlvDone (h : Nat) (d : Dev) : Dev := dirty h (modHart h (fun t => { t with hlvstart := 0 }) d)

/-- The hart raises an exception (RISC-V cause code) with its trap value. -/
def trap (h cause tval : Nat) (d : Dev) : Dev := modHart h (fun t => { t with cause := some cause, tval := tval % 2 ^ 64 }) d

/-- An illegal-instruction exception changes no other state (R257). -/
def illegal (h : Nat) (d : Dev) : Dev := trap h 2 0 d

/-- Issuer number of a hart beside the queue numbers. -/
def hartQ (h : Nat) : Nat := 65536 + h
/-- Whether remote stores of a hart wait for their acknowledgement (R236). -/
def hartStores (d : Dev) (h : Nat) : Bool := d.fab.store.any fun s => s.q == hartQ h && (s.msg.op == 1 || s.msg.op == 3)
/-- Whether a hart may perform its next instruction: it waits neither for a load nor for a FENCE. -/
def hartFree (d : Dev) (h : Nat) : Bool :=
  decide (h < 32) && rb d pCoreStat h && !rb d pCoreStat (32 + h) && running d && !retraining d && (!inTether d || decide (30 ≤ h)) && (hartAt d h).pend.isNone && !((hartAt d h).fence && hartStores d h)

/-- Keep the lower of two element faults. -/
def lowerFault (a b : Option (Nat × Nat × Nat)) : Option (Nat × Nat × Nat) :=
  match a, b with
  | none, x => x
  | x, none => x
  | some x, some y => if x.1 ≤ y.1 then some x else some y

/-- Write the elements a load has read into its group, those of `keep` only. -/
def putElems (h : Nat) (p : Pend) (keep : Nat → Bool) (d : Dev) : Dev :=
  p.got.foldl (fun d e => if keep e.1 then setVElem h p.rd p.size e.1 e.2 d else d) d

/-- The load is complete: its registers are written, or its exception is raised (R253, R254). -/
def settlePend (h : Nat) (d : Dev) : Dev :=
  match (hartAt d h).pend with
  | none => d
  | some p =>
    if !p.left.isEmpty then d
    else
      let d := modHart h (fun t => { t with pend := none }) d
      let v := tabGet (fun _ => 0) p.got 0
      match p.what, p.fault with
      | 1, none => hlvDone h (putElems h p (fun _ => true) d)
      | 2, none => hlvDone h (setP h p.pd (2 ^ p.got.length - 1) (putElems h p (fun _ => true) d))
      | 2, some (i, c, va) =>
        if i = 0 then trap h c va d
        else
          let d := setP h p.pd (2 ^ i - 1) (putElems h p (fun k => decide (k < i)) d)
          hlvDone h (modHart h (fun t => { t with hlvff := i + c <<< 16 + 2 ^ 24, hlvffaddr := va }) d)
      | 3, none => hlvDone h (setP h p.rd ((upto 256).foldl (fun n i => n + tabGet (fun _ => 0) p.got i <<< (8 * i)) 0) d)
      | 4, none => setX h p.rd (if p.size = 4 then wrapBits 64 (sext 32 v) else v) d
      | 5, none => writeF h p.rd (if p.size = 4 then boxed v else v) d
      | _, none => setX h p.rd (if p.signed then wrapBits 64 (sext (8 * p.size) v) else v) d
      | _, some (_, c, va) => trap h c va d

/-- Element `i` of a waiting load has arrived, or its access failed with an access fault. -/
def pendArrive (h i : Nat) (r : Option Nat) (d : Dev) : Dev :=
  settlePend h (modHart h (fun t =>
    { t with pend := t.pend.map fun p =>
        if p.left.contains i then
          let va := tabGet (fun _ => 0) p.vaddr i
          { p with left := p.left.filter (· != i),
                   got := match r with | some v => tabSet (fun _ => 2 ^ 600) p.got i v | none => p.got,
                   fault := match r with
                     | some _ => p.fault
                     | none => lowerFault p.fault (some (i, if p.what = 4 then 7 else 5, va)) }
        else p }) d)

end Sys2Proof.Machine
end

