-- ==== Sys2Proof/Machine/Fabric.lean ====
section
/-!
DEFINITION. Machine/Fabric.lean: ports, lanes, the link layer, routing, messages and their acknowledgement (R288 to R313,
R381 to R385, R481).
-/
namespace Sys2Proof.Machine

/-! Links and peers. -/

def link0 (_ : Nat) : Link := ⟨0, 0, [], [], [], false, 0, 0, none, none, 0, []⟩
def linkAt (d : Dev) (p : Nat) : Link := tabGet link0 d.fab.links p
def modLink (p : Nat) (f : Link → Link) (d : Dev) : Dev :=
  { d with fab := { d.fab with links := tabMod link0 d.fab.links p f } }
def peer0 (_ : Nat) : Peer := ⟨0, 0, 0, 0, 0, none, 0, 0, 0⟩
def peerAt (d : Dev) (n : Nat) : Peer := tabGet peer0 d.fab.peers n
def modPeer (n : Nat) (f : Peer → Peer) (d : Dev) : Dev :=
  { d with fab := { d.fab with peers := tabMod peer0 d.fab.peers n f } }

/-- State of a port: 0 down, 1 training, 2 up, 3 draining, 4 disabled, 5 failed (R294). -/
def portState (d : Dev) (p : Nat) : Nat := rf d (fPortStat p) 0 3
/-- Peers are numbered by node; a storage enclosure on T port `p` is peer 0x4000 + p (R288, R327). -/
def encl (p : Nat) : Nat := 0x4000 + p
def isEncl (n : Nat) : Bool := decide (0x4000 ≤ n)
/-- Dimension a port carries data for: its own, or the one it stands in for; 15: none (R288, R293). -/
def portDim (d : Dev) (p : Nat) : Nat :=
  if p < 14 then p else if p < 16 ∧ ef d (fPortCtl p) 16 2 = 1 then ef d (fPortCtl p) 18 4 else 15
/-- Mask of the chord on spare `c`, where it has a valid one (R292). -/
def chordMask (d : Dev) (c : Nat) : Option Nat :=
  let m := rf d fChord (14 * c) 14
  if 2 ≤ popCount 14 m ∧ m < 2 ^ rf d fNodeCfg 14 4 then some m else none
/-- Whether spare `c` carries its chord (R310). -/
def chordUp (d : Dev) (c : Nat) : Bool := portState d (14 + c) == 2 && ef d (fPortCtl (14 + c)) 16 2 == 2 && (chordMask d c).isSome

/-! Flits (R299, R300, R303, R304). -/

/-- A flit of this package before it is routed. -/
def mkFlit (d : Dev) (dst typ cls : Nat) (body : List Byte) : FlitX :=
  ⟨dst, myNode d, typ, cls, 0, 15, 15, 0, 15, (body ++ bytesOf 116 0).take 116, 18, d.clk.cyc⟩

/-- The 28 header bytes of a message (R304). -/
def msgHeader (m : Msg) : List Byte :=
  bytesOf 4 m.dseq ++ bytesOf 1 m.op ++ bytesOf 1 m.sub ++ bytesOf 2 m.data.length ++ bytesOf 6 m.off ++ bytesOf 14 m.args

/-- DATA bodies of the rest of a message. -/
def dataBodies (dseq : Nat) : Nat → List Byte → List (List Byte)
  | 0, _ => []
  | n + 1, l => (bytesOf 4 dseq ++ l.take 112) :: dataBodies dseq n (l.drop 112)

/-- Number of flits of a message of `n` data bytes (R303). -/
def flitCount (n : Nat) : Nat := 1 + cdiv (n - 88) 112

/-- Flits of a message, HEAD first (R303). -/
def msgFlits (d : Dev) (dst cls : Nat) (m : Msg) : List FlitX :=
  mkFlit d dst 1 cls (msgHeader m ++ m.data.take 88) ::
    (dataBodies m.dseq (cdiv (m.data.length - 88) 112) (m.data.drop 88)).map (mkFlit d dst 2 cls)

/-- The message a HEAD begins, with the data it carries (R304). -/
def headMsg (b : List Byte) : Msg × Nat :=
  let f (a n : Nat) : Nat := natOf ((b.drop a).take n)
  let len := f 6 2 % 8192
  (⟨f 0 4, f 4 1, f 5 1, f 8 6, f 14 14, (b.drop 28).take (Nat.min len 88)⟩, len)

/-- The dseq a HEAD or DATA flit belongs to. -/
def flitDseq (x : FlitX) : Nat := natOf (x.body.take 4)

/-- The 128 bytes of a flit on the wire (R299). -/
def flitWire (x : FlitX) (lseq lack : Nat) : List Byte :=
  let b := bytesOf 8 (x.dest % 2 ^ 14 + x.src % 2 ^ 14 * 2 ^ 14 + x.typ * 2 ^ 28 + x.cls * 2 ^ 32 + x.outLayer * 2 ^ 34 +
    x.outLast * 2 ^ 36 + lseq * 2 ^ 40 + lack * 2 ^ 52) ++ x.body
  b ++ bytesOf 4 (crc32 b)

/-- A received flit: its header fields as a FlitX that arrived on dimension `arr`, lseq, lack, and whether its CRC and type
hold. -/
def flitParse (w : Flit) (arr : Nat) : FlitX × Nat × Nat × Bool :=
  let bs := bytesOf 128 w.toNat
  let h := w.toNat % 2 ^ 64
  let typ := bits h 28 4
  (⟨bits h 0 14, bits h 14 14, typ, bits h 32 2, bits h 34 2, bits h 36 4, arr, bits h 34 2, bits h 36 4, (bs.drop 8).take 116, 18, 0⟩,
    bits h 40 12, bits h 52 12, decide (typ ≤ 5) && crc32 (bs.take 124) == natOf (bs.drop 124))

/-! Sending on a port (R301, R302, R308). -/

/-- Credit pool of a flit: class and layer, or 16 for BRIDLE. -/
def poolOf (x : FlitX) : Nat := if x.typ = 4 then 16 else 4 * x.cls + x.outLayer
/-- Flits a pool holds at the peer. -/
def poolSize (k : Nat) : Nat := if k = 16 then 16 else 64

/-- Send what credits and the replay buffer allow, a pair's flits in order. -/
def pumpGo : List FlitX → Link → List FlitX → Link
  | [], l, kept => { l with txq := kept.reverse }
  | x :: t, l, kept =>
    let k := poolOf x
    if decide (l.replay.length < 2048) && decide (tabGet (fun _ => 0) l.used k < poolSize k) &&
        !(kept.any fun y => y.src == x.src && y.dest == x.dest) then
      pumpGo t { l with replay := l.replay ++ [(l.txNext, x)], txNext := (l.txNext + 1) % 4096,
                        used := tabMod (fun _ => 0) l.used k (· + 1) } kept
    else pumpGo t l (x :: kept)

def pump (p : Nat) (d : Dev) : Dev :=
  if portState d p = 2 ∨ portState d p = 3 then modLink p (fun l => pumpGo l.txq { l with txq := [] } []) d else d

/-- Queue a flit on a port. -/
def enqueue (p : Nat) (x : FlitX) (d : Dev) : Dev := pump p (modLink p (fun l => { l with txq := l.txq ++ [x] }) d)

/-! Routing (R310, R311, R313). -/

/-- Port of the active plan's flow toward a flit's destination (R313); dimensions 10 to 13 carry no slots. -/
def planPort (d : Dev) (x : FlitX) : Option Nat :=
  if x.cls ≠ 0 ∨ rf d fPlanStat 0 32 = 0 then none
  else
    let img := d.plans.active
    let owns (p : Nat) : Bool := (upto (imgN img 18 2)).any fun s =>
      slotOwner img p s != 0xFFFF && flowField img (slotOwner img p s) 4 2 % 2 ^ 14 == x.dest
    (mapPorts img).find? fun p => portState d p == 2 && !(decide (10 ≤ p) && decide (p ≤ 13)) && owns p

/-- hop(k) of R310. -/
def hopTo (d : Dev) (x : FlitX) (k : Nat) : Option (Nat × Nat × Nat) :=
  let layer := if x.lastdim ≠ 15 ∧ k < x.lastdim then x.layer + 1 else x.layer
  if 3 < layer then none else (dimPort d k).map fun p => (p, layer, k)

/-- Next hop of a flit as (port, layer, lastdim); none: unreachable (R310). -/
def route (d : Dev) (x : FlitX) : Option (Nat × Nat × Nat) :=
  let n := myNode d
  let df := n ^^^ x.dest
  let dims := rf d fNodeCfg 14 4
  match planPort d x with
  | some p => some (p, x.layer, portDim d p)
  | none =>
    let chord := if n = x.src then
        ([0, 1].foldl (fun (b : Nat × Option Nat) c =>
          match (if chordUp d c then chordMask d c else none) with
          | some m => let h := 1 + popCount 14 (df ^^^ m); if h < b.1 then (h, some c) else b
          | none => b) (popCount 14 df, none)).2
      else none
    match chord with
    | some c => some (14 + c, x.layer, 15)
    | none =>
      match (upto dims).find? (fun k => bitAt df k && (dimPort d k).isSome) with
      | some k => hopTo d x k
      | none => match (upto dims).find? (fun k => !bitAt df k && (dimPort d k).isSome && k != x.arr) with
        | some k => hopTo d x k
        | none => none

/-- Send a flit toward its destination; false where it is unreachable. -/
def launch (x : FlitX) (d : Dev) : Bool × Dev :=
  if isEncl x.dest then
    let p := x.dest - 0x4000
    if portState d p = 2 then (true, enqueue p { x with dest := rf d (fPortStat p) 20 14 } d) else (false, d)
  else match route d x with
    | some (p, layer, last) => (true, enqueue p { x with outLayer := layer, outLast := last } d)
    | none => (false, d)

/-- An end-to-end acknowledgement (R307), to node `dst`: kind, status and detail, and the dseq or identifier it names. -/
def sendAck (dst kind status detail ident : Nat) (d : Dev) : Dev :=
  if dst = myNode d ∨ d.fab.lost.contains dst then d
  else
    let body := bytesOf 4 (peerAt d dst).rxNext ++ bytesOf 1 kind ++ bytesOf 1 status ++ bytesOf 2 detail ++ bytesOf 4 ident
    (launch (mkFlit d dst 3 2 body) (modPeer dst (fun p => { p with got := 0 }) d)).2

/-! Refusals at the source (R311, R318, R397). -/

/-- Operations of messages (R305). -/
def opWrite : Nat := 1
def opRred : Nat := 2
def opRatom : Nat := 3
def opReadReq : Nat := 4
def opReadResp : Nat := 5
def opSendAnn : Nat := 6
def opSendGo : Nat := 7
def opMcast : Nat := 8

/-- Bit 1 of the args of a RATOM asks for an answer (log entry 56). -/
def wantsAnswer (m : Msg) : Bool := m.op == opReadReq || (m.op == opRatom && bitAt m.args 1) || m.op == opSendAnn

/-- A refusal is recorded against the queue that issued the write; the first stands (R318). -/
def noteRefusal (q status detail : Nat) (d : Dev) : Dev :=
  if q < 65536 then
    modQueue q (fun x => { x with refusal := match x.refusal with
      | some r => some r
      | none => some (status, if status = 0x0E then 0x0002 else detail) }) d
  else d

/-- Issuer number of the messages of ingots (R414). -/
def ingotQ : Nat := 0x30000

/-- Answers that satisfy `f` are no longer awaited. -/
def dropAsks (f : Ask → Bool) (d : Dev) : Dev := { d with fab := { d.fab with asks := d.fab.asks.filter fun a => !f a } }

/-- A command that waits for an answer ends with a refusal; count is the prefix it has completed, up to the byte or element
refused. A hart raises an access fault. -/
def refuseAsk (a : Ask) (status detail : Nat) (d : Dev) : Dev :=
  let d := dropAsks (fun b => b.q == a.q && b.seq == a.seq && (decide (a.q < 65536) || b.idx == a.idx)) d
  match findFlight d a.q a.seq with
  | some f =>
    if !f.waitingNow then d
    else if f.op = 0x55 ∧ status = 0x03 then
      -- the list of announcements is full: the SEND announces again 10 µs from now (R328)
      modFlight a.q a.seq (fun x => { x with prog := 2, aux := mono d + 240000 }) d
    else if f.op = 0x11 then
      let ff := pbits f.head 11 0 1 == 1 && decide (0 < a.idx)
      if ff then finish a.q a.seq 0x01 status a.idx d
      else finish a.q a.seq status (if status = 0x0E then 0x0002 else detail) a.idx d
    else
      let n := if f.op = 0x54 ∨ f.op = 0x55 then 0 else if f.op = 0x71 ∨ f.op = 0x72 then f.aux else a.idx
      finish a.q a.seq status detail n d
  | none =>
    if a.q = ingotQ then
      { d with ingots := d.ingots.map fun g => if g.owner == a.seq && g.fail.isNone then { g with fail := some (status, detail) } else g }
    else if 65536 ≤ a.q ∧ a.q < 65568 then pendArrive (a.q - 65536) a.idx none d else d

/-- A message of this package toward `dst` was refused with a status and detail (R311, R316). -/
def refused (dst dseq status detail : Nat) (d : Dev) : Dev :=
  match d.fab.store.find? (fun s => s.dst == dst && s.msg.dseq == dseq) with
  | none => d
  | some s =>
    match d.fab.asks.find? (fun a => a.dst == dst && a.dseq == dseq) with
    | some a => refuseAsk a status detail d
    | none => if wantsAnswer s.msg then d else noteRefusal s.q status detail d

/-- A flit that cannot go on is dropped, and its source is told (R311). -/
def dropFlit (x : FlitX) (d : Dev) : Dev :=
  if x.typ = 1 ∨ x.typ = 2 then
    if x.src = myNode d then refused x.dest (flitDseq x) 0x06 (x.dest % 2 ^ 14) d
    else sendAck x.src 2 0x06 x.dest (flitDseq x) d
  else d

/-- Send a flit on, or drop it as unreachable. -/
def forward (x : FlitX) (d : Dev) : Dev :=
  let r := launch x d
  if r.1 then r.2 else dropFlit x r.2

/-! Sending messages (R303, R309, R397). -/

/-- Flits a queue, and the package, hold unacknowledged (R88, R309). -/
def openFlits (d : Dev) (q : Nat) : Nat :=
  d.fab.store.foldl (fun n s => if s.q == q then n + flitCount s.msg.data.length else n) 0
def openAll (d : Dev) : Nat := d.fab.store.foldl (fun n s => n + flitCount s.msg.data.length) 0
def openTile (d : Dev) (t : Nat) : Nat :=
  d.fab.store.foldl (fun n s => if s.q < 65536 ∧ qTile s.q = t then n + flitCount s.msg.data.length else n) 0
/-- Whether a message of `n` data bytes may be sent for queue `q` (R88, R309). -/
def roomFor (d : Dev) (q n : Nat) : Bool :=
  decide (openAll d + flitCount n ≤ 131072) &&
    (decide (65536 ≤ q) || (decide (openFlits d q + flitCount n ≤ 512) && decide (openTile d (qTile q) + flitCount n ≤ 2048)))

/-- Send one message to another node; answers its dseq. A message toward a lost node is refused at the source (R397). -/
def sendMsg (dst cls q op sub off args : Nat) (data : List Byte) (d : Dev) : Nat × Dev :=
  let p := peerAt d dst
  let m : Msg := ⟨p.txNext, op, sub, off, args, data⟩
  if d.fab.lost.contains dst then
    (m.dseq, if op = opWrite ∨ op = opRred ∨ (op = opRatom ∧ !wantsAnswer m) then noteRefusal q 0x06 dst d else d)
  else
    let idle := !(d.fab.store.any fun s => s.dst == dst)
    let d := modPeer dst (fun p => { p with txNext := (p.txNext + 1) % 2 ^ 32, since := if idle then mono d else p.since }) d
    let d := { d with fab := { d.fab with store := d.fab.store ++ [⟨dst, cls, q, m⟩] } }
    let d := if q < 65536 ∧ (op = opWrite ∨ op = opRred ∨ (op = opRatom ∧ !wantsAnswer m)) then
        modQueue q (fun x => { x with dests := tabSet (fun _ => 0) x.dests dst (m.dseq + 1) }) d else d
    (m.dseq, (msgFlits d dst cls m).foldl (fun d x => forward x d) d)

/-- Send a message whose answer or refusal `k` of its dseq awaits. -/
def sendAsk (dst cls q op sub off args : Nat) (data : List Byte) (k : Nat → Ask) (d : Dev) : Nat × Dev :=
  sendMsg dst cls q op sub off args data { d with fab := { d.fab with asks := d.fab.asks ++ [k (peerAt d dst).txNext] } }

/-- Whether every flit of message `dseq` to `dst` has left this package's ports (R321). -/
def hasLeft (d : Dev) (dst dseq : Nat) : Bool :=
  d.fab.links.all fun e => e.2.txq.all fun x => !(x.src == myNode d && x.dest == dst % 2 ^ 14 && x.typ != 3 && flitDseq x == dseq)

/-- Send again every unacknowledged message to a node (R307). -/
def resend (dst : Nat) (d : Dev) : Dev :=
  (d.fab.store.filter fun s => s.dst == dst).foldl
    (fun d s => (msgFlits d dst s.cls s.msg).foldl (fun d x => forward x d) d)
    (modPeer dst (fun p => { p with since := mono d }) d)

/-- RESEND_TIMEOUT (R307): 20 µs with messages outstanding and no progress. -/
def resendTimeout (dst : Nat) (d : Dev) : Dev :=
  if d.fab.store.any fun s => s.dst == dst then resend dst (passMono ((peerAt d dst).since + 480000) d) else d

/-- RESEND_TIMEOUT (R307). -/
def execResendTimeout (dst : Nat) (s : State) : Out := onDev s (resendTimeout dst)

/-- Whether sequence number `a` comes before `b`, modulo 2^32. -/
def before32 (a b : Nat) : Bool := let x := (b + 2 ^ 32 - a % 2 ^ 32) % 2 ^ 32; decide (0 < x ∧ x < 2 ^ 31)

/-- A cumulative acknowledgement from node `n` (R307). -/
def cumAck (n v : Nat) (d : Dev) : Dev :=
  let p := peerAt d n
  let d := { d with fab := { d.fab with store := d.fab.store.filter fun s => !(s.dst == n && before32 s.msg.dseq v) } }
  if p.acked = v then
    let d := modPeer n (fun p => { p with dup := p.dup + 1 }) d
    if 1 ≤ p.dup ∧ (d.fab.store.any fun s => s.dst == n) then resend n (modPeer n (fun p => { p with dup := 0 }) d) else d
  else modPeer n (fun p => { p with acked := v, dup := 1, since := mono d }) d

/-- Drop the oldest waiting flit that satisfies `f`. -/
def takeFlit (f : FlitX → Bool) (d : Dev) : Option (FlitX × Dev) :=
  (d.fab.inq.find? f).map fun x => (x, { d with fab := { d.fab with inq := dropFirst f d.fab.inq } })

/-- An ACK of R307 acts. -/
def ackAct (x : FlitX) (d : Dev) : Dev :=
  let f (a n : Nat) : Nat := natOf ((x.body.drop a).take n)
  let v := f 0 4
  let id := f 8 4
  if f 4 1 = 0 then cumAck x.src v d
  else if f 4 1 = 1 then
    let d := if f 5 1 = 0 then d else
      match d.fab.mcout.find? (fun m => m.ident == id) with
      | some m => noteRefusal m.q (f 5 1) (f 6 2) d
      | none => d
    let mc := (d.fab.mcout.map fun m => if m.ident == id then { m with missing := m.missing.filter (· != x.src) } else m)
    { d with fab := { d.fab with mcout := mc.filter fun m => !m.missing.isEmpty } }
  else
    let own := d.fab.store.any fun s => s.dst == x.src && s.msg.dseq == id
    if own then cumAck x.src v (refused x.src id (f 5 1) (f 6 2) d) else refused (f 6 2) id (f 5 1) (f 6 2) d

/-- ACK_RECEIVE (R307): the oldest ACK from a node that waits at this package. -/
def ackReceive (src : Nat) (d : Dev) : Dev :=
  match takeFlit (fun x => x.src == src && x.typ == 3 && x.dest == myNode d) d with
  | some (x, d) => if d.fab.lost.contains src then d else ackAct x d
  | none => d

/-- ACK_RECEIVE (R307). -/
def execAckReceive (src : Nat) (s : State) : Out := onDev s (ackReceive src)

/-- ACK_SEND (R307): a cumulative acknowledgement to a source that has sent something. -/
def execAckSend (src : Nat) (s : State) : Out :=
  onDev s fun d => if tabGet peer0 d.fab.peers src = peer0 src then d else sendAck src 0 0 0 0 d

/-- FLIT_FORWARD (R310): the oldest flit of a source that waits here and is for another node. -/
def flitForward (src : Nat) (d : Dev) : Dev :=
  match takeFlit (fun x => x.src == src && x.dest != myNode d) d with
  | some (x, d) => forward x d
  | none => d

/-- FLIT_FORWARD (R310). -/
def execFlitForward (src : Nat) (s : State) : Out := onDev s (flitForward src)

/-! Ports going down (R312, R382). -/

/-- The part of a port's flits that is sent again: whole messages from their HEAD, and acknowledgements. -/
def wholeMsgs : List FlitX → List (Nat × Nat × Nat) → List FlitX
  | [], _ => []
  | x :: t, heads =>
    let key := (x.src, x.dest, flitDseq x)
    if x.typ = 1 then x :: wholeMsgs t (key :: heads)
    else if x.typ = 2 then (if heads.contains key then x :: wholeMsgs t heads else wholeMsgs t heads)
    else if x.typ = 3 then x :: wholeMsgs t heads
    else wholeMsgs t heads

/-- M_TWINSTAT.d0_up follows port D0. -/
def showD0 (d : Dev) : Dev := setB d mTwinStat 3 (portState d 0 == 2)

/-- A port leaves up, other than by DRAIN, for state `st`: its flits are routed again (R312). -/
def portLeave (p st : Nat) (d : Dev) : Dev :=
  let l := linkAt d p
  let fs := wholeMsgs (l.replay.map (·.2) ++ l.txq) []
  let d := modLink p (fun _ => link0 p) d
  let d := showD0 (setF (setF d (fPortStat p) 0 3 st) (fPortStat p) 4 16 0)
  let d := note 30 0xFFFF (fs.filter (·.typ == 1)).length d
  fs.foldl (fun d x => forward x d) d

/-- A port fails (R296, R301, R382). -/
def portFail (p : Nat) (d : Dev) : Dev :=
  if portState d p = 2 ∨ portState d p = 3 then faultRec 0x2 p 0xFF true (portLeave p 5 d) else d

/-- PORT_FAIL (R312). -/
def execPortFail (p : Nat) (s : State) : Out := onDev s fun d => if p < 18 then portFail p d else d
/-- LINK_NOTICE (R297): the peer's notice brings this end down at once. -/
def execLinkNotice (p : Nat) (s : State) : Out := onDev s fun d => if p < 18 then portFail p d else d

/-- A draining port with nothing left to send or acknowledge is disabled (R297). -/
def settleDrain (p : Nat) (d : Dev) : Dev :=
  if portState d p = 3 ∧ (linkAt d p).txq.isEmpty ∧ (linkAt d p).replay.isEmpty then
    showD0 (setF (setF (modLink p (fun _ => link0 p) d) (fPortStat p) 0 3 4) (fPortStat p) 4 16 0)
  else d

/-! Port operations (R291, R292, R293, R297). -/

/-- Whether a port may train at all (R290, R292, R293). -/
def mayTrain (d : Dev) (p : Nat) : Bool :=
  let dims := rf d fNodeCfg 14 4
  decide (1 ≤ dims ∧ dims ≤ 14) &&
    (if p = 14 ∨ p = 15 then rf d (fPortCtl p) 16 2 == 1 || (rf d (fPortCtl p) 16 2 == 2 && (chordMask d (p - 14)).isSome) else true)

/-- PORT_ENABLE (R297): lanes and role as written take effect. -/
def portEnable (p : Nat) (d : Dev) : Dev :=
  let st := portState d p
  if decide (p < 18) && (st == 0 || st == 4 || st == 5) && mayTrain d p then
    setF (modLink p (fun _ => { link0 p with since := mono d }) (latch d (fPortCtl p))) (fPortStat p) 0 3 1
  else d

/-- PORT_ENABLE (R297). -/
def execPortEnable (p : Nat) (s : State) : Out := onDev s (portEnable p)

/-- Disable DRAIN of a port (R297). -/
def portDrain (p : Nat) (d : Dev) : Dev :=
  if 18 ≤ p then d
  else if portState d p = 2 then settleDrain p (showD0 (setF d (fPortStat p) 0 3 3))
  else if portState d p = 1 then setF (modLink p (fun _ => link0 p) d) (fPortStat p) 0 3 4
  else d

/-- Disable ABORT of a port (R297). -/
def portAbort (p : Nat) (d : Dev) : Dev :=
  if 18 ≤ p then d
  else if portState d p = 2 ∨ portState d p = 3 then portLeave p 4 d
  else if portState d p = 1 then setF (modLink p (fun _ => link0 p) d) (fPortStat p) 0 3 4
  else d

/-- PORT_DISABLE_DRAIN (R297). -/
def execPortDisableDrain (p : Nat) (s : State) : Out := onDev s (portDrain p)
/-- PORT_DISABLE_ABORT (R297). -/
def execPortDisableAbort (p : Nat) (s : State) : Out := onDev s (portAbort p)

/-- The identity check of R291; `dims` carries the chord mask a peer declares on a spare in chord role (role 2), `dim` the
dimension it stands in for (role 1), role 3 a storage enclosure. -/
def identityOk (d : Dev) (p : Nat) (x : Identity) : Bool :=
  let n := myNode d
  if p < 14 then decide (p < rf d fNodeCfg 14 4) && x.node == n ^^^ 2 ^ p && x.port == p
  else if p < 16 then
    if ef d (fPortCtl p) 16 2 = 1 then
      let k := ef d (fPortCtl p) 18 4
      x.node == n ^^^ 2 ^ k && (x.port == 14 || x.port == 15) && x.role == 1 && x.dim == k
    else match chordMask d (p - 14) with
      | some m => x.node == n ^^^ m && (x.port == 14 || x.port == 15) && x.role == 2 && x.dims == m
      | none => false
  else x.role == 3

/-- PORT_TRAINED (R291, R297): the port comes up at the next tick, or stays down as miswired; fewer than half of its lanes fail
it (R296). -/
def portTrained (p lanesUp : Nat) (x : Identity) (d : Dev) : Dev :=
  if p < 18 ∧ portState d p = 1 then
    let lanes := ef d (fPortCtl p) 0 16 % 2 ^ portLanes p
    let up := lanesUp &&& lanes
    let d := setF (setF d (fPortStat p) 20 14 x.node) (fPortStat p) 34 5 x.port
    if !identityOk d p x then setF (setB d (fPortStat p) 3 true) (fPortStat p) 0 3 0
    else if 2 * popCount 16 up < popCount 16 lanes ∨ up = 0 then setF d (fPortStat p) 0 3 5
    else modLink p (fun l => { l with trained := some (up, x) }) d
  else d

/-- PORT_TRAINED (R291). -/
def execPortTrained (p lanesUp : Nat) (peer : Identity) (s : State) : Out := onDev s (portTrained p lanesUp peer)

/-- PORT_TRAIN_TIMEOUT (R297): 50 ms after its enable a port that has not come up is failed. -/
def portTrainTimeout (p : Nat) (d : Dev) : Dev :=
  if p < 18 ∧ portState d p = 1 then
    let d := passMono ((linkAt d p).since + 1200000000) d
    setF (modLink p (fun _ => link0 p) d) (fPortStat p) 0 3 5
  else d

/-- PORT_TRAIN_TIMEOUT (R297). -/
def execPortTrainTimeout (p : Nat) (s : State) : Out := onDev s (portTrainTimeout p)

/-! Lanes (R296, R382, R481). -/

/-- Take a lane out of a port. -/
def laneOut (p lane : Nat) (d : Dev) : Dev := setF d (fPortStat p) (4 + lane) 1 0
/-- Whether fewer than half of the configured lanes are up. -/
def tooNarrow (d : Dev) (p : Nat) : Bool :=
  decide (2 * popCount 16 (rf d (fPortStat p) 4 16) < popCount 16 (ef d (fPortCtl p) 0 16 % 2 ^ portLanes p))

/-- LANE_FAULT (R296): the lane is removed; the port narrows, or fails. -/
def laneFault (p lane : Nat) (d : Dev) : Dev :=
  if p < 18 ∧ lane < 16 ∧ (portState d p = 2 ∨ portState d p = 3) ∧ rb d (fPortStat p) (4 + lane) then
    let d := faultRec 0x1 p lane true (laneOut p lane d)
    if tooNarrow d p then portFail p d else d
  else d

/-- LANE_FAULT (R296). -/
def execLaneFault (p lane : Nat) (s : State) : Out := onDev s (laneFault p lane)

/-- LANE_RETRAIN (R481): one lane of a port at a time, leaving at least half; it leaves at the next tick. -/
def laneRetrain (p lane : Nat) (d : Dev) : Dev :=
  let l := linkAt d p
  if p < 18 ∧ lane < 16 ∧ portState d p = 2 ∧ rb d (fPortStat p) (4 + lane) ∧ l.retrain.isEmpty ∧ !tooNarrow (laneOut p lane d) p then
    modLink p (fun l => { l with retrain := [(lane, 0)] }) d
  else d

/-- LANE_RETRAIN (R481). -/
def execLaneRetrain (p lane : Nat) (s : State) : Out := onDev s (laneRetrain p lane)

/-- LANE_RETRAIN_DONE (R481): the lane rejoins at the next tick, or stays out as a lane fault. -/
def laneRetrainDone (p lane : Nat) (ok : Bool) (d : Dev) : Dev :=
  if (linkAt d p).retrain = [(lane, 1)] then
    if ok then modLink p (fun l => { l with retrain := [(lane, 2)] }) d
    else faultRec 0x1 p lane true (modLink p (fun l => { l with retrain := [] }) d)
  else d

/-- LANE_RETRAIN_DONE (R481). -/
def execLaneRetrainDone (p lane : Nat) (ok : Bool) (s : State) : Out := onDev s (laneRetrainDone p lane ok)

/-- What ticks bring to a port: a trained port comes up; a lane under retraining leaves or rejoins (R297, R481). -/
def portTick (p : Nat) (d : Dev) : Dev :=
  let l := linkAt d p
  let d := match l.trained with
    | some (up, _) =>
      if portState d p = 1 then
        let d := setF (setF d (fPortStat p) 0 3 2) (fPortStat p) 4 16 up
        let d := { d with bridle := { d.bridle with heard := tabSet (fun _ => 0) d.bridle.heard p (frameNum d) } }
        let d := showD0 (modLink p (fun l => { l with trained := none }) d)
        -- pairing begins each time D0 comes up (R393)
        if p = 0 ∧ rf d mTwinStat 0 3 ≠ 5 then setF d mTwinStat 0 3 1 else d
      else d
    | none => d
  match l.retrain with
  | [(lane, 0)] => modLink p (fun l => { l with retrain := [(lane, 1)] }) (laneOut p lane d)
  | [(lane, 2)] => modLink p (fun l => { l with retrain := [] }) (setB d (fPortStat p) (4 + lane) true)
  | _ => d

/-! The link layer (R301, R302). -/

/-- The peer has accepted everything before `lack`. -/
def takeLack (p lack : Nat) (d : Dev) : Dev :=
  let d := modLink p (fun l =>
    let old (s : Nat) : Bool := let x := (lack + 4096 - s) % 4096; decide (1 ≤ x ∧ x ≤ 2048)
    { l with replay := l.replay.filter (fun e => !old e.1), fails := if old l.failSeq then 0 else l.fails }) d
  settleDrain p (pump p d)

/-- A home path that holds more than 64 updates waiting for one line records it, once per line per frame, and whether the line
received merged messages in that frame (R331). -/
def hotLine (x : FlitX) (d : Dev) : Dev :=
  let m := (headMsg x.body).1
  let line := lineOf m.off
  let upd (y : FlitX) : Bool := let n := (headMsg y.body).1
    y.typ == 1 && y.dest == myNode d && (n.op == opWrite || n.op == opRred || n.op == opRatom) && lineOf n.off == line
  if x.typ == 1 && upd x && decide (64 < (d.fab.inq.filter upd).length) && !d.fab.hot.contains line then
    let d := { d with fab := { d.fab with hot := insUp line d.fab.hot } }
    setB (setF (addSat d fHotLine 0 16 1) fHotLine 16 42 (line / 64)) fHotLine 58 (d.fab.merged.contains line)
  else d

/-- FLIT_RECEIVE (R301): accept a sequenced flit in turn, or discard it and ask for a replay. `fecFailed` codewords of it were
uncorrectable. -/
def flitReceive (p : Nat) (w : Flit) (fec : Nat) (d : Dev) : Dev :=
  if p < 18 ∧ (portState d p = 2 ∨ portState d p = 3) then
    let d := addSat d (fLinkCnt p) 32 16 fec
    let (x, lseq, lack, ok) := flitParse w (portDim d p)
    if !ok || fec != 0 then modLink p (fun l => { l with asked := true }) (addSat d (fLinkCnt p) 0 16 1)
    else
      let d := takeLack p lack d
      let inTurn := lseq == (linkAt d p).rxNext
      if x.typ = 0 ∨ x.typ = 5 then (if inTurn then d else modLink p (fun l => { l with asked := true }) d)
      else if inTurn then
        let d := modLink p (fun l => { l with rxNext := (lseq + 1) % 4096, asked := false }) d
        if x.typ = 4 then d
        else
          let x := { x with port := p, came := d.clk.cyc }
          let x := if p = 16 ∨ p = 17 then { x with src := encl p, dest := myNode d } else x
          hotLine x { d with fab := { d.fab with inq := d.fab.inq ++ [x] } }
      else modLink p (fun l => { l with asked := true }) d
  else d

/-- FLIT_RECEIVE (R301). -/
def execFlitReceive (p : Nat) (flit : Flit) (fecFailed : Nat) (s : State) : Out := onDev s (flitReceive p flit fecFailed)

/-- REPLAY_REQUEST (R301): resend from the named lseq; eight failures of the same flit fail the port. -/
def replayRequest (p lseq : Nat) (d : Dev) : Dev :=
  let l := linkAt d p
  if p < 18 ∧ (portState d p = 2 ∨ portState d p = 3) ∧ (l.replay.any fun e => e.1 == lseq) then
    let n := if l.failSeq = lseq then l.fails + 1 else 1
    let d := note 30 0xFFFF 1 (addSat (modLink p (fun l => { l with failSeq := lseq, fails := n }) d) (fLinkCnt p) 16 16 1)
    if 8 ≤ n then portFail p d else d
  else d

/-- REPLAY_REQUEST (R301). -/
def execReplayRequest (p lseq : Nat) (s : State) : Out := onDev s (replayRequest p lseq)

/-- CREDIT_RETURN (R302): `n` credits of a pool come back. -/
def creditReturn (p pool n : Nat) (d : Dev) : Dev :=
  if p < 18 then pump p (modLink p (fun l => { l with used := tabMod (fun _ => 0) l.used pool (· - n) }) d) else d

/-- CREDIT_RETURN (R302). -/
def execCreditReturn (p pool n : Nat) (s : State) : Out := onDev s (creditReturn p pool n)

/-- SWITCH_PLANE_FAULT (R385): the inputs move to the other plane; a second failure is uncontained. -/
def switchPlaneFault (d : Dev) : Dev :=
  if d.phase != .running then d
  else if d.planeBad then tetherNext 0x3 (faultRec 0x3 d.plane 0xFF false d)
  else { (faultRec 0x3 d.plane 0xFF true d) with plane := 1 - d.plane, planeBad := true }

/-- SWITCH_PLANE_FAULT (R385). -/
def execSwitchPlaneFault (s : State) : Out := onDev s switchPlaneFault

end Sys2Proof.Machine
end

