-- ==== Sys2Proof/Machine/Firmware.lean ====
section
/-!
DEFINITION. Machine/Firmware.lean: fuses and firmware slots (R459 to R462), reset and the end of power (R434 to R436, R511), the
operations of M_FWCTL (R465 to R467, R478), signed requests (R468 to R473), checks of configuration registers (R17, R439, R442),
uncontained faults (R384, R405) and the start of a margin run (R286).
-/
namespace Sys2Proof.Machine

def modPwr (f : Power → Power) (d : Dev) : Dev := { d with pwr := f d.pwr }

/-- An uncontained fault: recorded, and tether mode asked for at the next tick (R384, R405). -/
def uncontained (cls unit : Nat) (d : Dev) : Dev := tetherNext cls (faultRec cls unit 0xFF false d)

/-- TETHER_REQUEST (R405, R408). -/
def tetherRequest (by' : Agent) (d : Dev) : Dev := if by' == .job || inTether d || !running d then d else uncontained 0xE 0xFF d

/-- TETHER_REQUEST (R408). -/
def execTetherRequest (by' : Agent) (s : State) : Out := onDev s (tetherRequest by')

/-! Fuses (R459, R460). -/

/-- Fuse word `k`: as blown since, or as the factory left it. -/
def fuse (d : Dev) (k : Nat) : Nat := tabGet Config.factoryFuse d.firm.fuse k
def modFirm (f : Firm → Firm) (d : Dev) : Dev := { d with firm := f d.firm }
/-- Blow every bit of fuse word `k` (`n` bits) that `v` holds; whether the burn completed is not determined (R460). -/
def blow (k v : Nat) (d : Dev) : Bool × Dev :=
  let p := drawBelow 2 d
  if p.1 = 0 then (true, modFirm (fun f => { f with fuse := tabSet Config.factoryFuse f.fuse k (fuse d k ||| v) }) p.2) else (false, p.2)
def ones32 : Nat := 2 ^ 32 - 1
/-- Life-cycle state: that of the highest blown word (R460, R468). -/
def lifeState (d : Dev) : Nat :=
  if fuse d 6 % 2 ^ 32 = ones32 then 3 else if fuse d 5 % 2 ^ 32 = ones32 then 2 else if fuse d 4 % 2 ^ 32 = ones32 then 1 else 0
/-- The owner key hash, where it is blown. -/
def okhBlown (d : Dev) : Bool := fuse d 3 != 0
/-- Whether vendor key 0 is revoked. -/
def revoked (d : Dev) : Bool := fuse d 2 % 2 ^ 32 == ones32
/-- Anti-rollback counter: consecutive blown bits of svn from bit 0 (R460). -/
def svnCount (d : Dev) : Nat := (findUp (fun i => !bitAt (fuse d 7) i) 64 0).getD 64
/-- The stepping code (R363). -/
def stepCode (d : Dev) : Nat := fuse d 8 % 16

/-! Firmware images (R461, R462). -/

/-- First byte of a firmware slot (R457). -/
def slotBase (s : Nat) : Nat := 0x8000000 * (s % 2)
def slotSize : Nat := 0x8000000

/-- A field of an image read through `get`. -/
def imgField (get : Nat → Nat → List Byte) (a n : Nat) : Nat := natOf (get a n)

/-- The checks of R462 on the image that `get` reads. -/
def imageOk (d : Dev) (get : Nat → Nat → List Byte) : Bool :=
  let f := imgField get
  let len := f 12 4
  let key := f 9 1
  f 0 4 == 0x57465A48 && f 4 2 == 1 && decide (1 ≤ f 10 2 ∧ f 10 2 ≤ 32) && decide (8192 ≤ len ∧ len ≤ slotSize) &&
    bitAt (f 6 1) (stepCode d) &&
  decide (key ≤ 1) && !(key == 0 && revoked d) && natOf (shake256 32 (get 1088 1793)) == fuse d key &&
  Config.falconOk (get 1088 1793) (get 0 4096) (get 4096 1280) &&
  get 16 32 == shake256 32 (get 8192 (len - 8192)) &&
  decide (f 7 1 ≤ 64) && decide (svnCount d ≤ f 7 1)

/-- Read a firmware slot. -/
def slotGet (d : Dev) (s a n : Nat) : List Byte := flashBytes d (slotBase s + a) n
/-- Whether a slot passes R462; one being written does not (R467). -/
def slotOk (d : Dev) (s : Nat) : Bool := d.firm.slotBusy != some s && imageOk d (slotGet d s)

/-- The running slot (R465). -/
def runSlot (d : Dev) : Nat := rf d mFwStat 0 1
def otherSlot (d : Dev) : Nat := 1 - runSlot d
def setFerr (v : Nat) (d : Dev) : Dev := setF d mFwStat 48 4 v

/-- M_FWSTAT shows the preferred slot, the trial and the other slot (R465). -/
def showFw (d : Dev) : Dev :=
  let o := otherSlot d
  let ok := slotOk d o
  let d := setB (setB (setF d mFwStat 1 1 d.firm.preferred) mFwStat 2 d.firm.trial.isSome) mFwStat 6 d.firm.slotBusy.isSome
  let d := setF (setF d mFwStat 16 8 (svnCount d)) mFwStat 32 8 (if ok then imgField (slotGet d o) 7 1 else 0xFF)
  setF d mFwStat 40 8 (imgField (slotGet d o) 8 1)

/-! Reset (R287, R434, R458, R511). -/

/-- The package after a reset that ends now: what stands in flash, fuses and the boot record survives, all else is as at reset; the
boot record's count is one more (R458), and a configuration is still to be applied. -/
def resetTo (ph : Phase) (d : Dev) : Dev :=
  { Dev.reset with
    phase := ph, flash := d.flash, draws := d.draws,
    led := { Dev.reset.led with next := d.led.next, lastTai := taiNow d, secs := d.led.secs + d.clk.cyc / 600000000, energy := d.led.energy,
                                cycles := d.led.cycles },
    firm := { Dev.reset.firm with pins := d.firm.pins, fuse := d.firm.fuse, preferred := d.firm.preferred, trial := d.firm.trial,
                                  boots := d.firm.boots, slotBusy := d.firm.slotBusy, grant := d.firm.grant,
                                  deadTiles := d.firm.deadTiles, deadStacks := d.firm.deadStacks } }

/-- A package reset with the rails up (R511, R513). -/
def packageReset (d : Dev) : Dev :=
  if d.phase = .off then d
  else setB (resetTo (if d.firm.pins.testHold then .testHold else .rom) d) mPwrStat 0 true

/-- Every rail goes off. -/
def powerOff (orderly : Bool) (d : Dev) : Dev :=
  resetTo .off (if d.phase = .running ∨ d.phase = .wiping then ledger 0x0E 0 (bytesOf 1 (b2n (!orderly))) d else d)

/-- What follows a completed drain: a life-cycle transition resets the package, an orderly power-down turns it off (R436, R470). -/
def afterDrain (d : Dev) : Dev :=
  if !rb d mTether 6 then d
  else if d.firm.after = 1 then packageReset d
  else if d.firm.after = 2 then powerOff true d else d

/-- M_PWRCTL.off (R436). -/
def orderlyPowerDown (by' : Agent) (d : Dev) : Dev :=
  if by' == .job ∨ !running d then d
  else
    let d := modFirm (fun f => { f with after := 2 }) d
    if inTether d then afterDrain d else if d.tetherReq.isSome then d else uncontained 0xE 0xFF d

/-- ORDERLY_POWER_DOWN (R436). -/
def execOrderlyPowerDown (by' : Agent) (s : State) : Out := onDev s (orderlyPowerDown by')

/-! Configuration registers that are checked (R17, R439, R442). -/

/-- Entries of an A_TILEMAP word. -/
def mapEntries (v : Word) : List Nat := (upto 8).map fun l => wbits v (4 * l) 4
/-- Whether a mapping keeps R17: no reserved code, no physical tile twice. -/
def tilemapOk (v : Word) : Bool :=
  let es := mapEntries v
  es.all (fun p => decide (p ≤ 8) || p == 0xF) && allDistinct (es.filter (· != 0xF))

/-- A hardware-checked register keeps its value and sets its err bit when a write is out of range (R439, R442). -/
def checkedWrite (o : Nat) (v : Word) (d : Dev) : Option Dev :=
  if 0x600 ≤ o ∧ o < 0x650 then
    let lo := wbits v 0 10
    let hi := wbits v 10 10
    if lo ≤ hi ∧ 650 ≤ lo ∧ hi ≤ 950 then none else some (setB d o 20 true)
  else if o = mPwrPol then (if 500 ≤ wbits v 0 12 ∧ wbits v 0 12 ≤ 2000 then none else some (setB d o 22 true))
  else none

/-- First byte of a configuration copy (R457). -/
def cfgBase (i : Nat) : Nat := 0x10000000 + 0x100000 * i

/-! M_FWCTL (R466, R467, R478 to R480). -/

/-- A ledger record of kind 0x0A. -/
def fwRecord (op : Nat) (d : Dev) : Dev := ledger 0x0A (runSlot d) (bytesOf 1 op ++ bytesOf 1 (runSlot d) ++ bytesOf 1 (svnCount d)) d

/-- An operation of M_FWCTL by an agent that may write it: none changes anything while a live switch or a slot write runs. -/
def fwOp (by' : Agent) (body : Dev → Dev) (d : Dev) : Dev :=
  if by' == .job ∨ !(running d || d.phase == .wiping) then d
  else if rb d mFwStat 5 ∨ rb d mFwStat 6 then setFerr 5 d
  else body d

def armTrial (d : Dev) : Dev :=
  if slotOk d (otherSlot d) then fwRecord 1 (setFerr 0 (showFw (modFirm (fun f => { f with trial := some (otherSlot d) }) d)))
  else setFerr 1 d
def confirm (d : Dev) : Dev :=
  if rb d mFwStat 3 then
    fwRecord 2 (setFerr 0 (setB (showFw (modFirm (fun f => { f with preferred := runSlot d }) d)) mFwStat 3 false))
  else setFerr 6 d
def cancelTrial (d : Dev) : Dev := fwRecord 3 (setFerr 0 (showFw (modFirm (fun f => { f with trial := none }) d)))
def burn (d : Dev) : Dev :=
  let run := rf d mFwStat 8 8
  let other := rf d mFwStat 32 8
  if other = 0xFF ∨ other < run then setFerr 3 d
  else if run ≤ svnCount d then setFerr 0 d
  else
    let b := blow 7 (2 ^ run - 1) d
    if b.1 then fwRecord 4 (setFerr 0 (showFw b.2)) else setFerr 4 b.2
def live (d : Dev) : Dev :=
  if !slotOk d (otherSlot d) then setFerr 1 d
  else if rf d mFwStat 40 8 ≠ rf d mFwStat 24 8 then setFerr 2 d
  else fwRecord 5 (setFerr 0 (setB (modFirm (fun f => { f with live := some 0 }) d) mFwStat 5 true))

/-- ARM_TRIAL (R467). -/
def execArmTrial (by' : Agent) (s : State) : Out := onDev s (fwOp by' armTrial)
/-- CONFIRM (R467). -/
def execConfirm (by' : Agent) (s : State) : Out := onDev s (fwOp by' confirm)
/-- CANCEL_TRIAL (R467). -/
def execCancelTrial (by' : Agent) (s : State) : Out := onDev s (fwOp by' cancelTrial)
/-- BURN (R467). -/
def execBurn (by' : Agent) (s : State) : Out := onDev s (fwOp by' burn)
/-- LIVE (R478): the switch begins with the P-die's harts. -/
def execLive (by' : Agent) (s : State) : Out := onDev s (fwOp by' live)

/-- Log a failing read of Myeles, made by hart 30 or 31 (R229, R268). -/
def myelesLog (e : Nat × Nat) (d : Dev) : Dev := let (k, d) := drawBelow 2 d; logErr e (reqOf 5 (30 + k)) d
/-- A read of Myeles (R265). -/
def myelesRead (a n : Nat) (d : Dev) : Dev :=
  if d.weak.isEmpty then d else let (k, d) := drawBelow 2 d; correctReads a n (reqOf 5 (30 + k)) d

/-! Signed requests (R468 to R473). -/

/-- Scopes a debug token may grant in a life-cycle state, and whether the owner signs there (R468). -/
def stateScopes (st : Nat) : Nat × Bool := if st = 0 then (0x3F, false) else if st = 1 then (0x1F, true) else if st = 2 then (5, true) else (0x1F, false)
/-- Fuse word a transition blows and whether the owner signs it; none where no such transition exists (R469). -/
def transition (fr goal : Nat) : Option (Nat × Bool) :=
  if fr = 0 ∧ goal = 1 then some (4, false)
  else if fr = 1 ∧ goal = 2 then some (5, true)
  else if (fr = 1 ∨ fr = 2) ∧ goal = 3 then some (6, true) else none

/-- The public key a request names, where it may sign (R471): the running image's for its index, or the owner's from the key
store, checked against okh. -/
def signerKey (d : Dev) (key : Nat) : Option (List Byte) :=
  if key = 2 then
    let k := flashBytes d 0x1E001000 1793
    if okhBlown d ∧ natOf (shake256 32 k) = fuse d 3 then some k else none
  else if key ≤ 1 ∧ imgField (slotGet d (runSlot d)) 9 1 = key ∧ !(key = 0 ∧ revoked d) then some (slotGet d (runSlot d) 1088 1793)
  else none

/-- Both configuration copies are erased: every byte reads 0xFF (R469). -/
def eraseConfig (d : Dev) : Dev := flashPut (cfgBase 0) (List.replicate 0x200000 0xFF#8) d

/-- Act on a request whose signature, serial and boot count hold; answers the result (R468 to R471). -/
def authAct (r : List Byte) (d : Dev) : Nat × Dev :=
  let f (a n : Nat) : Nat := natOf ((r.drop a).take n)
  let st := lifeState d
  let key := f 5 1
  let note (d : Dev) : Dev := ledger 0x09 0 ((r.drop 4).take 4 ++ (r.drop 20).take 2) d
  if f 4 1 = 0 then
    let a := stateScopes st
    if (key = 2) ≠ (a.2 = true) ∨ f 6 2 ||| a.1 ≠ a.1 then (6, d)
    else (2, note (setB (modFirm (fun x => { x with grant := some (f 6 2) }) d) mAuthStat 4 true))
  else if f 4 1 = 1 then
    match transition (f 20 1) (f 21 1) with
    | none => (6, d)
    | some (k, owner) =>
      if f 20 1 ≠ st ∨ (key = 2) ≠ (owner = true) then (6, d)
      else
        let b := blow k ones32 d
        let c := if f 21 1 = 1 then blow 3 (f 24 32) b.2 else (true, b.2)
        if !b.1 ∨ !c.1 then (8, c.2)
        else
          let d := if f 21 1 = 3 then eraseConfig c.2 else c.2
          let d := note (setB (modFirm (fun x => { x with after := 1 }) d) mAuthStat 4 true)
          (2, if inTether d then afterDrain d else if d.tetherReq.isSome then d else uncontained 0xE 0xFF d)
  else if f 4 1 = 2 then
    if key ≠ 1 then (6, d)
    else
      let b := blow 2 ones32 d
      if b.1 then (2, note (setB b.2 mAuthStat 4 true)) else (8, b.2)
  else (6, d)

/-- AUTH_GO (R473): check and act on the request at M_AUTHCTL.addr. -/
def authGo (by' : Agent) (d : Dev) : Dev :=
  if by' == .job ∨ !running d then d
  else
    let a := rf d mAuthCtl 0 48
    if a % 64 ≠ 0 ∨ !inStacks d a 1344 then setF d mAuthStat 0 4 3
    else match readErr d a 1344 with
    | some e => setF (myelesLog e d) mAuthStat 0 4 3
    | none =>
      let d := myelesRead a 1344 d
      let r := ldBytes d a 1344
      let f (a n : Nat) : Nat := natOf ((r.drop a).take n)
      match signerKey d (f 5 1) with
      | none => setF d mAuthStat 0 4 7
      | some k =>
        if f 0 4 ≠ 0x4B545A48 ∨ !Config.falconOk k (r.take 64) (r.drop 64) then setF d mAuthStat 0 4 3
        else if f 8 8 ≠ (rg d mSerial).toNat then setF d mAuthStat 0 4 4
        else if f 16 4 ≠ rf d mBootCnt 0 32 then setF d mAuthStat 0 4 5
        else
          let x := authAct r d
          -- a transition that could reset the package at once leaves nothing to show
          if x.2.phase = .rom ∨ x.2.phase = .testHold then x.2 else setF x.2 mAuthStat 0 4 x.1

/-- AUTH_GO (R473). -/
def execAuthGo (by' : Agent) (s : State) : Out := onDev s (authGo by')

/-! Margining (R286). -/

/-- MARGIN_START (R286): the written fields are taken, and the run begins or is refused. -/
def marginStart (a : Nat) (v : Word) (by' : Agent) (d : Dev) : Dev :=
  if 8 ≤ a ∨ by' == .job ∨ !running d then d
  else
    let o := aMargCtl a
    let busy := rb d o 15
    let d := if busy then d else setReg d o (wordWrite ((regFields o).getD []) true false .all (rg d o) v).1
    let st := 2 * a + wbits v 1 1
    let lane := wbits v 6 7
    let noFrames := !d.clk.ticked || d.clk.mode == .waiting
    if busy ∨ !(noFrames || retired d st) ∨ wbits v 13 2 = 3 ∨ (64 ≤ lane ∧ lane ≠ 127) then setB d o 16 true
    else setB d o 15 true

/-- MARGIN_START (R286). -/
def execMarginStart (a : Nat) (value : Word) (by' : Agent) (s : State) : Out := onDev s (marginStart a value by')

end Sys2Proof.Machine
end

