-- ==== Sys2Proof/Machine/Window.lean ====
section
/-!
DEFINITION. Machine/Window.lean: the control window (R524 to R529): what each of its words reads as and what a write of it does
(R6, R7, R525).
-/
namespace Sys2Proof.Machine

/-! Sensors (R452, R453). -/

def sens0 (_ : Nat) : Sens := ⟨0, 0, false⟩
def sensAt (d : Dev) (i : Nat) : Sens := tabGet sens0 d.pwr.sens i
/-- Whole degrees of a temperature reading in m°C; readings below zero show as zero. -/
def degrees (v : Nat) : Nat := (sext 32 v).toNat / 1000

/-- The 16 bytes of a reading, as it stands at pod time `now` (R453). -/
def sensBytes (d : Dev) (i : Nat) : List Byte :=
  let x := sensAt d i
  bytesOf 8 x.time ++ bytesOf 2 i ++ bytesOf 1 (b2n x.unlocked + 2 * b2n (decide (x.time + 2000 * sensEvery i < podNs d))) ++
    bytesOf 1 0 ++ bytesOf 4 x.value

/-! Doorbell pages (R72, R524). -/

/-- First byte and end of the doorbell pages. -/
def bellBase : Nat := ctrlBase + 0x4000000
/-- Queue of a doorbell address (R72, R524). -/
def bellQueue (a : Nat) : Nat := let o := a - bellBase; o / 0x2000 * 1024 + o % 0x2000 / 8
/-- Whether an address is one of the doorbell pages. -/
def isBell (a : Nat) : Bool := decide (bellBase ≤ a ∧ a < bellBase + 0x80000)

/-! Reading a word (R7, R525). -/

/-- Whether an offset is one of the per-tile registers of an absent logical tile, which read as zero and ignore writes (R525). -/
def absentReg (d : Dev) (off : Nat) : Bool :=
  decide (0x200000 ≤ off ∧ off < 0xA00000 ∧ 0x1000 ≤ off % 0x100000 ∧ off % 0x100000 < 0x1800) &&
    tileAbsent d (8 * (off / 0x100000 - 2) + (off % 0x100000 - 0x1000) / 0x100)

/-- Whether an offset names a register of the window: the state keeps P_RECOVERY and the TAP at slots that are not assigned. -/
def assigned (off : Nat) : Bool := off != pRecovery && (regFields off).isSome

/-- Milliseconds the current holdover has lasted (R59). -/
def holdMs (d : Dev) : Nat := match d.bridle.holdStart with | some t => satTo 0xFFFF ((d.clk.cyc - t) / 600000) | none => 0

/-- A register of a block as it reads now; an unassigned slot reads as zero. -/
def regNow (d : Dev) (off : Nat) : Nat :=
  if !assigned off || absentReg d off then 0
  else if off = fPodTime then podNs d % 2 ^ 64
  else if off = fBridleStat then putBits (rg d off).toNat 32 16 (holdMs d)
  else (rg d off).toNat

/-- The word at an aligned offset of the control window, with what reading it does; none where the offset lies in no populated
region (R259, R524, R525). The device windows and the P-die region are not read here. -/
def ctrlRead (off : Nat) (d : Dev) : Option (Nat × Dev) :=
  if inBlock off then some (regNow d off, d)
  else if inTables off then some ((rg d off).toNat, d)
  else match counterOf off, sensorOf off, flashOf off with
    | some e, _, _ => let d := classify e d; some (if off / 8 % 32 < 19 then cnt d e (off / 8 % 32) else 0, d)
    | none, some i, _ => some (natOf (((sensBytes d i).drop (8 * (off / 8 % 2))).take 8), d)
    | none, none, some x => some (natOf (flashBytes d x 8), d)
    | none, none, none => none

/-! Writing a word (R7, R525). -/

/-- A write by access type alone; whether it would have changed a locked field (R7). -/
def plainWrite (off : Nat) (v : Word) (by' : Agent) (d : Dev) : Bool × Dev :=
  match regFields off with
  | none => (false, d)
  | some fs =>
    let r := wordWrite fs (by' != .job) (rb d mStatus 5) (jobSet off) (rg d off) v
    (r.2, setReg d off r.1)

/-- A register was enabled by this write: records written start from 0 (R269, R380, R455, R495). -/
def restart (was : Bool) (off bit ptr n : Nat) (d : Dev) : Dev := if !was && rb d off bit then setF d ptr 0 n 0 else d

/-- A ring register: a write whose size lies outside `[lo, hi]` is ignored as a whole. -/
def ringReg (off lo hi : Nat) (v : Word) (by' : Agent) (d : Dev) : Dev :=
  if lo ≤ wbits v 48 5 ∧ wbits v 48 5 ≤ hi then (plainWrite off v by' d).2 else d

/-- A write of M_TRCCFG (R493, R494): base and sizes hold while enable is 1; an enable that finds no valid region is refused. -/
def trcWrite (v : Word) (by' : Agent) (d : Dev) : Dev :=
  let was := rb d mTrcCfg 40
  if was then (plainWrite mTrcCfg (wput v 0 38 (rf d mTrcCfg 0 38)) by' d).2
  else
    let e := wbits v 28 5
    let s := wbits v 33 5
    let n := 64 * (2 ^ e + 2 ^ s)
    if wbit v 40 && !(decide (14 ≤ e ∧ e ≤ 28 ∧ 14 ≤ s ∧ s ≤ 28 ∧ n ≤ 16 * gib) && inStacks d (wbits v 0 28 <<< 20) n) then
      setB d mTrcCfg 41 true
    else
      let d := (plainWrite mTrcCfg v by' d).2
      restart was mTrcCfg 40 mTrcSPtr 28 (restart was mTrcCfg 40 mTrcEPtr 28 d)

/-- TILEMAP_WRITE (R16, R17): held until the next tick, or rejected as a whole. -/
def tilemapWrite (a : Nat) (v : Word) (by' : Agent) (d : Dev) : Dev :=
  if 8 ≤ a ∨ by' == .job ∨ d.phase = .off then d
  else if tilemapOk v then (plainWrite (aTileMap a) v by' d).2 else setB d (aTileStat a) 18 true

/-- TILEMAP_WRITE (R16). -/
def execTilemapWrite (a : Nat) (value : Word) (by' : Agent) (s : State) : Out := onDev s (tilemapWrite a value by')

/-- LLCCFG_WRITE (R233): the ways that change role are zeroed before the write completes. -/
def llccfgWrite (v : Word) (by' : Agent) (d : Dev) : Bool × Dev :=
  if by' == .job ∨ d.phase = .off then (false, d)
  else
    let old := ef d pLlcCfg 0 4
    let r := plainWrite pLlcCfg v by' d
    let new := rf r.2 pLlcCfg 0 4
    let lo := Nat.min old new
    (r.1, latch (wipe (ctrlBase + pRegionOff + 4 * mib * lo) (4 * mib * (Nat.max old new - lo)) r.2) pLlcCfg)

/-- LLCCFG_WRITE (R233). -/
def execLlccfgWrite (value : Word) (by' : Agent) (s : State) : Out := onDev s fun d => (llccfgWrite value by' d).2

/-- A write of a queue descriptor register (R70). -/
def descWrite (off : Nat) (v : Word) (by' : Agent) (d : Dev) : Dev :=
  let q := (off - 0x2000000) / 32
  if off / 8 % 4 = 3 then d
  else if qState d q ≠ 0 then
    if tileAbsent d (qTile q) then d else setF (setB d (aSeqErr (qTile q)) 0 true) (aSeqErr (qTile q)) 3 10 (qIndex q)
  else (plainWrite off v by' d).2

/-- A write of M_FWCTL (R466). -/
def fwctlWrite (op : Nat) (by' : Agent) (d : Dev) : Dev :=
  if op = 1 then fwOp by' armTrial d
  else if op = 2 then fwOp by' confirm d
  else if op = 3 then fwOp by' cancelTrial d
  else if op = 4 then fwOp by' burn d
  else if op = 5 then fwOp by' live d
  else d

/-- A write of F_PORTCTL (R293). -/
def portctlWrite (off : Nat) (v : Word) (by' : Agent) (d : Dev) : Dev :=
  if by' == .job then d
  else
    let p := (off - 0x101000) / 0x20
    let d := (plainWrite off v by' d).2
    let op := wbits v 22 3
    if op = 1 then portEnable p d else if op = 2 then portDrain p d else if op = 3 then portAbort p d else d

/-- A write of A_MARGCTL (R286). -/
def margWrite (a : Nat) (v : Word) (by' : Agent) (d : Dev) : Dev :=
  if wbit v 0 then marginStart a v by' d
  else if rb d (aMargCtl a) 15 then (if by' == .job then d else setB d (aMargCtl a) 16 (rb d (aMargCtl a) 16 && !wbit v 16))
  else (plainWrite (aMargCtl a) v by' d).2

/-- A write of the word at an aligned offset of the control window by an agent: whether it would have changed a locked field; none
where the offset lies in no populated region. Bits that act have acted when it returns (R7, R525, R530). -/
def ctrlWrite (off : Nat) (v : Word) (by' : Agent) (d : Dev) : Option (Bool × Dev) :=
  let plain : Bool × Dev := plainWrite off v by' d
  let acts (d : Dev) : Option (Bool × Dev) := some (false, d)
  if !inBlock off then (if inTables off || (counterOf off).isSome || (sensorOf off).isSome || (flashOf off).isSome then acts d else none)
  else if !assigned off || absentReg d off then acts d
  else if 0x4000000 ≤ off then acts (doorbell (bellQueue (ctrlBase + off)) (wbits v 0 16) d)
  else if 0x2000000 ≤ off then acts (descWrite off v by' d)
  else if 0x200000 ≤ off ∧ off < 0xA00000 then
    let k := off % 0x100000
    let a := off / 0x100000 - 2
    if k = 0 then acts (tilemapWrite a v by' d)
    else if k = 0x20 then acts (margWrite a v by' d)
    else if 0x1000 ≤ k ∧ k % 0x100 = 0x18 then acts (qctl (1024 * (8 * a + (k - 0x1000) / 0x100) + wbits v 0 10) (wbits v 10 3) by' d)
    else some plain
  else if 0x101000 ≤ off ∧ off < 0x101240 ∧ off % 0x20 = 0 then acts (portctlWrite off v by' d)
  else if off = pLlcCfg then some (llccfgWrite v by' d)
  else if off = mErrRing then acts (restart (rb d off 54) off 54 mErrPtr 24 (ringReg off 8 16 v by' d))
  else if off = mFrmRing then acts (restart (rb d off 53) off 53 mFrmPtr 24 (ringReg off 8 20 v by' d))
  else if off = mSensRing then acts (ringReg off 12 26 v by' d)
  else if off = mSensRate then acts (restart (rb d off 26) off 26 mSensPtr 28 plain.2)
  else if off = mTrcCfg then acts (trcWrite v by' d)
  else if off = mChtabApply then acts (chtabapplyWrite v.toNat by' d)
  else if off = mFwCtl then acts (fwctlWrite (wbits v 0 3) by' d)
  else if off = mAuthCtl then acts (if wbit v 48 then authGo by' plain.2 else plain.2)
  else if off = mTether then acts (if wbit v 1 then tetherRequest by' d else d)
  else if off = mPwrCtl then acts (if wbit v 0 then orderlyPowerDown by' d else d)
  else if off = mIdlePlan then acts (modPwr (fun p => { p with planQ := p.planQ ++ [(frameNum d + 3, (rg plain.2 off).toNat)] }) plain.2)
  else if (0x600 ≤ off ∧ off < 0x650) ∨ off = mPwrPol then
    (if by' == .job then acts d else match checkedWrite off v d with | some d' => acts d' | none => some plain)
  else if off = fPodSec then
    acts (if by' == .job then d else { d with bridle := { d.bridle with podSec := v.toNat } })
  else if off = fBridleCfg then acts (if by' == .job then d else bridleWrite v d)
  else if off = fPlanApply then acts (planapplyWrite v.toNat d)
  else if off = fPlanCtl then
    acts (if wbit v 0 then planStage (wbit v 1) d else if wbit v 1 then planDrop false d else d)
  else some plain

/-! Accesses of commands (R525). A command reaches the window in aligned 8-byte words; a device window and what is reserved lie in no
populated region for it. -/

/-- Whether `n` words from an offset on are populated. -/
def slotsFrom : Nat → Nat → Bool
  | 0, _ => true
  | n + 1, off => ctrlSlot off && slotsFrom n (off + 8)

/-- Why a command may not access `n` bytes from `a` of the control window in units of `u` bytes, as (status, detail). -/
def winFault (a n u : Nat) : Option (Nat × Nat) :=
  if !ctrlSlot (a - ctrlBase) then some (0x0E, 0x0002)
  else if a % 8 ≠ 0 ∨ n % 8 ≠ 0 ∨ u % 8 ≠ 0 then some (0x0D, 0x0006)
  else if slotsFrom (n / 8) (a - ctrlBase) then none else some (0x0E, 0x0002)

/-- Why a command may not touch `n` bytes from `a`, of memory or, in units of `u` bytes, of the control window. -/
def busRange (d : Dev) (wr : Bool) (a n u : Nat) : Option (Nat × Nat) :=
  if inCtrl a && decide (0 < n) then winFault a n u else badRange d wr a n

/-- The word at an aligned address of the window, with what reading it does. -/
def winWord (a : Nat) (d : Dev) : Nat × Dev := (ctrlRead (a - ctrlBase) d).getD (0, d)

/-- Bytes `[a, a+n)` of the window, by the words that hold them. -/
def winBytes (a n : Nat) (d : Dev) : List Byte × Dev :=
  let lo := a - a % 8
  let r := (upto (cdiv (a + n - lo) 8)).foldl (fun (x : List Byte × Dev) k =>
    let w := winWord (lo + 8 * k) x.2
    (x.1 ++ bytesOf 8 w.1, w.2)) ([], d)
  ((r.1.drop (a - lo)).take n, r.2)

/-- Words written to the window from `a` on by a command of queue `q`, in increasing order: by a management queue, or by a job queue,
which writes the job set alone (R525). -/
def winWrite (q a : Nat) (bs : List Byte) (d : Dev) : Dev :=
  (upto (bs.length / 8)).foldl (fun d k =>
    match ctrlWrite (a - ctrlBase + 8 * k) (BitVec.ofNat 64 (natOf ((bs.drop (8 * k)).take 8))) (if qMgmt d q then .mgmtQueue else .job) d with
    | some r => r.2
    | none => d) d

/-- Bytes a command reads. -/
def busRead (a n : Nat) (r : Req) (d : Dev) : List Byte × Dev :=
  if inCtrl a then winBytes a n d else (ldBytes d a n, correctReads a n r d)

/-- Bytes a command of queue `q` writes. -/
def busWrite (q : Nat) (r : Req) (a : Nat) (bs : List Byte) (d : Dev) : Dev :=
  if inCtrl a then winWrite q a bs d else memWrite r a bs d

/-- A word a command of queue `q` updates at once: its old value. -/
def busUpdate (q : Nat) (r : Req) (a : Nat) (g : Nat → Nat) (d : Dev) : Nat × Dev :=
  if inCtrl a then let w := winWord a d; (w.1, winWrite q a (bytesOf 8 (g w.1)) w.2)
  else (ld d a 8, memWriteN r a 8 (g (ld d a 8)) (correctReads a 8 r d))

/-- A piece of `n` bytes of a transfer that ends in the window is cut to whole words. -/
def wordPiece (dst n : Nat) : Nat := if inCtrl dst ∧ n % 8 ≠ 0 then (if 8 ≤ n then n - n % 8 else 8) else n

end Sys2Proof.Machine
end

