-- ==== Sys2Proof/Machine/Mover.lean ====
section
/-!
DEFINITION. Machine/Mover.lean: COPY, GATHER, SCATTER and INVAL, the read cache, and the granules of copy-before-write
(R98, R275 to R281, R319, R320).
-/
namespace Sys2Proof.Machine

/-! Global addresses (R314). -/

def gOff (g : Nat) : Nat := bits g 0 48
def gNode (g : Nat) : Nat := bits g 48 14
/-- Whether a node lies in this package's rack domain. -/
def inRack (d : Dev) (n : Nat) : Bool := n / 128 == myNode d / 128
/-- Bytes up to the next 4 KiB boundary (R303). -/
def toPage (a : Nat) : Nat := 4096 - a % 4096

/-! The read cache (R319). Lines are keyed by global address. -/

/-- Key of a line at node `n`; lines of this package are keyed by their local address. -/
def cacheKey (d : Dev) (n a : Nat) : Nat := if n = myNode d then lineOf a else n * 2 ^ 48 + 2 ^ 62 + lineOf a

def cacheGet (d : Dev) (t key : Nat) : Option Nat := ((tileAt d t).rcache.find? fun e => e.1 == key).map (·.2)

/-- Install a line (R11). In a full cache, of 8,192 lines, it takes the place of one that no rule names (log entry 49). -/
def cachePut (t key v : Nat) (d : Dev) : Dev :=
  if (tileAt d t).rcache.length < 8192 then modTile t (fun x => { x with rcache := x.rcache ++ [(key, v)] }) d
  else
    let (i, d) := drawBelow 8192 d
    modTile t (fun x => { x with rcache := x.rcache.eraseIdx i ++ [(key, v)] }) d

/-- Whether reads of a local address by a mover go through the read cache: every line outside the tile's own store. -/
def cached (t a : Nat) : Bool := !(decide (tileBase + tileSpan * t ≤ a) && decide (a < tileBase + tileSpan * (t + 1)))

/-- Read one local line for a mover: its number, or how it fails. -/
def lineRead (t line : Nat) (r : Req) (d : Dev) : Option (Nat × Nat) × Nat × Dev :=
  if cached t line then
    match cacheGet d t line with
    | some v => (none, v, d)
    | none => match lineErr d line with
      | some e => (some (line, e), 0, d)
      | none => let v := ld d line 64; (none, v, cachePut t line v (correctReads line 64 r d))
  else match lineErr d line with
    | some e => (some (line, e), 0, d)
    | none => (none, ld d line 64, correctReads line 64 r d)

/-- Read `n` local bytes from `a` for a mover; words of the control window are in no cache (R525). -/
def cread (t a n : Nat) (r : Req) (d : Dev) : Option (Nat × Nat) × List Byte × Dev :=
  if inCtrl a then (none, winBytes a n d)
  else (upto (lineSpan a n)).foldl (fun (acc : Option (Nat × Nat) × List Byte × Dev) i =>
    match acc.1 with
    | some _ => acc
    | none =>
      let line := lineOf a + 64 * i
      let x := lineRead t line r acc.2.2
      let lo := Nat.max a line
      let k := Nat.min (line + 64) (a + n) - lo
      (x.1, acc.2.1 ++ bytesOf k (x.2.1 >>> (8 * (lo - line))), x.2.2)) (none, [], d)

/-! COPY (R275 to R277). -/

structure CopyP where
  t : Nat
  src : Nat
  snode : Nat
  dst : Nat
  dnode : Nat
  len : Nat
  deriving DecidableEq, Repr

def copyOf (q : Nat) (p : Packet) : CopyP :=
  ⟨qTile q, gOff (pbytes p 16 8), gNode (pbytes p 16 8), gOff (pbytes p 24 8), gNode (pbytes p 24 8), bits (pbytes p 32 6) 0 40⟩

/-- Parameter bits of the mover's copy and gather commands. -/
def moverUsed (op : Nat) : List (Nat × Nat) :=
  if op = 0x10 then [(128, 62), (192, 62), (256, 40)]
  else if op = 0x13 then [fieldAt 10 54]
  else [(80, 10), fieldAt 12 4, (128, 48), (192, 62), (256, 48)]

/-- Whether COPY's parameters are in range; two ranges of one node must not overlap (R275, R276). -/
def copyInRange (q : Nat) (p : Packet) : Bool :=
  let x := copyOf q p
  decide (1 ≤ x.len) && !(x.snode == x.dnode && overlap x.src x.len x.dst x.len)

/-- Rate of an end of a COPY at a local address (R277). -/
def rateAt (d : Dev) (t a : Nat) : Nat :=
  match regionOf d a with
  | .stack st _ => if st / 2 = t / 8 then 128 else 64
  | .tile u => if u / 8 = t / 8 then 128 else 64
  | .pRegion => 16
  | .far _ => 12
  | .ctrl => 1 + Config.windowRate
  | _ => 64

/-- Lowest rate along a range. -/
def rateRange (d : Dev) (t : Nat) : Nat → Nat → Nat → Nat
  | 0, a, _ => rateAt d t a
  | f + 1, a, n =>
    let e := regionEnd d a
    if a + n ≤ e then rateAt d t a else Nat.min (rateAt d t a) (rateRange d t f e (a + n - e))

/-- Predicted count of a COPY (R277). -/
def copyPred (d : Dev) (q : Nat) (p : Packet) : Nat :=
  let x := copyOf q p
  if x.snode ≠ myNode d ∨ x.dnode ≠ myNode d then 0
  else 32 + cdiv x.len (Nat.min (rateRange d x.t 64 x.src x.len) (rateRange d x.t 64 x.dst x.len))

/-- Why a COPY may not begin (R276): the source is judged first. -/
def copyRefusal (d : Dev) (x : CopyP) : Option (Nat × Nat) :=
  let side (n a : Nat) (wr : Bool) : Option (Nat × Nat) :=
    if !inRack d n then some (0x0E, 0x0002)
    else if n = myNode d then busRange d wr a x.len 8
    else if 2 ^ 48 < a + x.len then some (0x0E, 0x0002)
    else if d.fab.lost.contains n then some (0x06, n)
    else none
  match side x.snode x.src false with
  | some e => some e
  | none => side x.dnode x.dst true

/-- A command stops after `n` units, because of an error, of ABORT, or because it is done. -/
inductive StopAt where
  | error (e : Nat × Nat) (wr : Bool)
  | limit
  deriving DecidableEq, Repr

/-- Destination lines of a local COPY in order from offset `o`: bytes done, and why it stopped. `lim`: lines allowed. -/
def copyLines (x : CopyP) (q : Nat) (r : Req) : Nat → Nat → Nat → Dev → Nat × Option StopAt × Dev
  | 0, _, o, d => (o, none, d)
  | f + 1, lim, o, d =>
    if x.len ≤ o then (o, none, d)
    else if lim = 0 then (o, some .limit, d)
    else
      let a := x.dst + o
      let n := Nat.min (64 - a % 64) (x.len - o)
      let c := cread x.t (x.src + o) n r d
      match c.1 with
      | some e => (o, some (.error e false), c.2.2)
      | none => match writeErr c.2.2 a n with
        | some e => (o, some (.error e true), c.2.2)
        | none => copyLines x q r f (lim - 1) (o + n) (busWrite q r a c.2.1 c.2.2)

/-- Destination lines in flight when a COPY stopped: each holds old or new data (R95, R276); one whose source cannot be read
keeps its old data; words of the control window are accessed one by one. -/
def copyTail (x : CopyP) (r : Req) (stop : Nat) : Nat → Nat → Dev → Dev
  | 0, _, d => d
  | f + 1, o, d =>
    if x.len ≤ o ∨ stop ≤ o ∨ inCtrl x.src ∨ inCtrl x.dst then d
    else
      let a := x.dst + o
      let n := Nat.min (64 - a % 64) (x.len - o)
      let b := drawBelow 2 d
      let d := b.2
      let ok := b.1 == 1 && (readErr d (x.src + o) n).isNone && (writeErr d a n).isNone
      copyTail x r stop f (o + n) (if ok then memWrite r a (ldBytes d (x.src + o) n) d else d)

/-- COPY between two ranges of this package. -/
def copyLocal (f : Flight) (x : CopyP) (d : Dev) : Dev :=
  let r := f.req 2 x.t
  let lines := lineSpan x.dst x.len
  let lim := unitsDone f lines d
  let c := copyLines x f.q r (lines + 1) lim.1 0 lim.2
  match c.2.1 with
  | none => finish f.q f.seq 0 0 c.1 c.2.2
  | some (.error e w) =>
    let d := copyTail x r (c.1 + 4096) 66 (c.1 + Nat.min (64 - (x.dst + c.1) % 64) (x.len - c.1)) c.2.2
    finish f.q f.seq (errStatus e.2) 0 c.1 (if w then logWriteErr e r d else logErr e r d)
  | some .limit =>
    let o := stopped f c.1
    finish f.q f.seq o.1 o.2.1 o.2.2 (if c.1 = 0 then c.2.2 else copyTail x r (c.1 + 4096) 66 c.1 c.2.2)

/-- Ask another node for the lines of `[a, a+n)` (R305); `idx` names the place in the command, `fill` says whether the lines
enter the read cache. -/
def askRead (f : Flight) (node idx a n : Nat) (fill : Bool) (d : Dev) : Dev :=
  let len := lineSpan a n * 64
  let k (dseq : Nat) : Ask := ⟨node, dseq, f.q, f.seq, idx, n, a, fill⟩
  let m := sendAsk node (pkClass f.head) f.q opReadReq 0 (lineOf a) (len * 65536) [] k d
  if d.fab.lost.contains node then refuseAsk (k m.1) 0x06 node m.2 else m.2

/-- Whether a command waits for an answer. -/
def asking (d : Dev) (f : Flight) : Bool := d.fab.asks.any fun a => a.q == f.q && a.seq == f.seq
/-- A command waits for no answer any more. -/
def dropOwn (f : Flight) (d : Dev) : Dev := dropAsks (fun a => a.q == f.q && a.seq == f.seq) d

/-- Bytes of a remote range from the read cache, where it holds every line of it (R319). -/
def cacheRead (d : Dev) (t node a n : Nat) : Option (List Byte) :=
  let ls := (upto (lineSpan a n)).map fun i => cacheGet d t (cacheKey d node (lineOf a + 64 * i))
  if ls.all (·.isSome) then
    some (((ls.flatMap fun v => bytesOf 64 (v.getD 0)).drop (a % 64)).take n)
  else none

/-- Length of the longest start of a remote range whose lines are all in the read cache, or all absent from it. -/
def cacheRun (d : Dev) (t node a n : Nat) : Nat :=
  let hit (i : Nat) : Bool := (cacheGet d t (cacheKey d node (lineOf a + 64 * i))).isSome
  match findUp (fun i => hit i != hit 0) (lineSpan a n) 0 with
  | some k => Nat.min n (lineOf a + 64 * k - a)
  | none => n

/-- The bytes `[a, a+n)` of an answer that holds their lines from the first line on: a line the read cache has meanwhile is taken
from there, and a line that may be installed is (R319, R320). -/
def cacheFill (t node a n : Nat) (fill : Bool) (bs : List Byte) (d : Dev) : List Byte × Dev :=
  let r := (upto (lineSpan a n)).foldl (fun (acc : List Byte × Dev) i =>
    let key := cacheKey acc.2 node (lineOf a + 64 * i)
    match cacheGet acc.2 t key with
    | some v => (acc.1 ++ bytesOf 64 v, acc.2)
    | none =>
      let l := (bs.drop (64 * i)).take 64
      (acc.1 ++ l, if fill then cachePut t key (natOf l) acc.2 else acc.2)) ([], d)
  ((r.1.drop (a % 64)).take n, r.2)

/-- Next piece of a transfer at offset `o`: it crosses no 4 KiB boundary of either end. -/
def pieceLen (src dst len o : Nat) : Nat := Nat.min (len - o) (Nat.min (toPage (src + o)) (toPage (dst + o)))

/-- Data of a COPY from another node has arrived for the piece at offset `idx` (R276). -/
def copyArrive (f : Flight) (idx : Nat) (bs : List Byte) (d : Dev) : Dev :=
  let x := copyOf f.q f.head
  if x.dnode = myNode d then
    match writeErr d (x.dst + idx) bs.length with
    | some e =>
      let r := f.req 2 x.t
      let good := if e.1 ≤ x.dst + idx then 0 else e.1 - (x.dst + idx)
      finish f.q f.seq (errStatus e.2) 0 (idx + good)
        (logWriteErr e r (dropOwn f (busWrite f.q r (x.dst + idx) (bs.take good) d)))
    | none =>
      let d := modFlight f.q f.seq (fun h => { h with aux := idx + bs.length }) (busWrite f.q (f.req 2 x.t) (x.dst + idx) bs d)
      if idx + bs.length = x.len then finish f.q f.seq 0 0 x.len d else d
  else
    modFlight f.q f.seq (fun h => { h with aux := idx + bs.length })
      (sendMsg x.dnode (pkClass f.head) f.q opWrite 0 (x.dst + idx) 0 bs d).2

/-- Pieces of a COPY from another node asked for while room lasts (R88): `prog` counts bytes asked. A piece the read cache holds
comes from there, in its turn. -/
def copyAsk (x : CopyP) (f : Flight) : Nat → Dev → Dev
  | 0, d => d
  | k + 1, d =>
    match findFlight d f.q f.seq with
    | some g =>
      if !g.waitingNow ∨ x.len ≤ g.prog ∨ !roomFor d f.q 4096 then d
      else
        let a := x.src + g.prog
        let n := cacheRun d x.t x.snode a (pieceLen x.src x.dst x.len g.prog)
        let n := if x.dnode = myNode d then wordPiece x.dst n else n
        let on := modFlight f.q f.seq (fun h => { h with prog := g.prog + n })
        match cacheRead d x.t x.snode a n with
        | some bs => if asking d f then d else copyAsk x f k (copyArrive f g.prog bs (on d))
        | none => copyAsk x f k (on (askRead f x.snode g.prog a n true d))
    | none => d

/-- Pieces of a COPY to another node sent while room lasts; a bad source line stops it (R276). -/
def copySend (x : CopyP) (f : Flight) : Nat → Dev → Dev
  | 0, d => d
  | k + 1, d =>
    match findFlight d f.q f.seq with
    | some g =>
      if !g.waitingNow ∨ x.len ≤ g.prog ∨ !roomFor d f.q 4096 then d
      else
        let n := Nat.min (x.len - g.prog) (toPage (x.dst + g.prog))
        let c := cread x.t (x.src + g.prog) n (f.req 2 x.t) d
        match c.1 with
        | some e =>
          -- whole destination lines before the first that takes a byte of the bad line are sent
          let good := e.1 - (x.src + g.prog)
          let cut := if good = 0 then 0 else good - (x.dst + g.prog + good) % 64
          let bs := c.2.1.take cut
          let d := if bs.isEmpty then c.2.2
            else (sendMsg x.dnode (pkClass f.head) f.q opWrite 0 (x.dst + g.prog) 0 bs c.2.2).2
          finish f.q f.seq (errStatus e.2) 0 (g.prog + bs.length) (logErr e (f.req 2 x.t) d)
        | none =>
          let m := sendMsg x.dnode (pkClass f.head) f.q opWrite 0 (x.dst + g.prog) 0 c.2.1 c.2.2
          copySend x f k (modFlight f.q f.seq (fun h => { h with prog := g.prog + n, aux := m.1 }) m.2)
    | none => d

/-- COPY (R275, R276). A transfer with an end on another node goes on each time the command is taken up, as answers and
acknowledgements make room. -/
def copy (f : Flight) (d : Dev) : Dev :=
  let x := copyOf f.q f.head
  let me := myNode d
  match (if f.prog = 0 then copyRefusal d x else none) with
  | some (st, det) => finish f.q f.seq st det 0 d
  | none =>
    if x.snode = me ∧ x.dnode = me then copyLocal f x d
    else if f.stop ≠ 0 then
      let n := if x.snode = me then f.prog else f.aux
      let o := stopped f n
      finish f.q f.seq o.1 o.2.1 o.2.2 (dropOwn f d)
    else if x.snode = me then
      let d := copySend x f 4096 d
      match findFlight d f.q f.seq with
      | some g => if g.waitingNow ∧ g.prog = x.len ∧ hasLeft d x.dnode g.aux then finish f.q f.seq 0 0 x.len d else d
      | none => d
    else
      let d := copyAsk x f 4096 d
      match findFlight d f.q f.seq with
      | some g =>
        if g.waitingNow ∧ g.aux = x.len ∧ (x.dnode = me ∨ hasLeft d x.dnode ((peerAt d x.dnode).txNext - 1)) then
          finish f.q f.seq 0 0 x.len d else d
      | none => d

/-- COPY (R275). -/
def execCopy (q seq : Nat) (s : State) : Out := onDev s (withFlight 0x10 q seq copy)

/-! GATHER and SCATTER (R98, R532). -/

structure GathP where
  t : Nat
  es : Nat
  ff : Bool
  iw : Nat
  n : Nat
  index : Nat
  base : Nat
  node : Nat
  dest : Nat
  deriving DecidableEq, Repr

def gathOf (q : Nat) (p : Packet) : GathP :=
  let e := pbytes p 10 1
  ⟨qTile q, if e = 4 then 64 else 2 ^ e, pbits p 11 0 1 == 1, if pbits p 11 1 1 = 1 then 8 else 4, pbytes p 12 4, pbytes p 16 8,
    gOff (pbytes p 24 8), gNode (pbytes p 24 8), pbytes p 32 8⟩

def gathInRange (p : Packet) : Bool := decide (pbytes p 10 1 ≤ 4) && decide (1 ≤ pbytes p 12 4 ∧ pbytes p 12 4 ≤ 16777216)

/-- Predicted count of GATHER and SCATTER (R532). -/
def gathPred (d : Dev) (q : Nat) (p : Packet) : Nat :=
  let x := gathOf q p
  if x.node ≠ myNode d then 0
  else
    32 + Nat.max (cdiv (64 * x.n) (rateAt d x.t x.base))
      (Nat.max (cdiv (x.es * x.n) (rateRange d x.t 64 x.dest (x.es * x.n))) (cdiv (x.iw * x.n) (rateRange d x.t 64 x.index (x.iw * x.n))))

/-- Address of element `j` of the gathered array, which may exceed 48 bits. -/
def GathP.elem (x : GathP) (d : Dev) (j : Nat) : Nat :=
  let a := x.index + j * x.iw
  x.base + (if inCtrl a then natOf (winBytes a x.iw d).1 else ld d a x.iw) * x.es

/-- The fault of element `j`, as (status, detail, failing line to log, whether a write) (R98). `scatter`: elements are
written. -/
def GathP.fault (x : GathP) (d : Dev) (scatter : Bool) (j : Nat) : Option (Nat × Nat × Option ((Nat × Nat) × Bool)) :=
  let mem (e : Nat × Nat) (w : Bool) : Option (Nat × Nat × Option ((Nat × Nat) × Bool)) :=
    some (errStatus e.2, x.node, some (e, w))
  if !inRack d x.node then some (0x0E, 0x0002, none)
  else match readErr d (x.index + j * x.iw) x.iw with
    | some e => mem e false
    | none =>
      let a := x.elem d j
      if 2 ^ 48 < a + x.es then some (0x0E, 0x0002, none)
      else if x.node ≠ myNode d then
        if d.fab.lost.contains x.node then some (0x06, x.node, none)
        else if scatter then match readErr d (x.dest + j * x.es) x.es with | some e => mem e false | none => none
        else match writeErr d (x.dest + j * x.es) x.es with | some e => mem e true | none => none
      else match busRange d scatter a x.es x.es with
        | some (st, det) => some (st, if st = 0x0E then 0x0002 else det, none)
        | none =>
          if scatter then
            match readErr d (x.dest + j * x.es) x.es with
            | some e => mem e false
            | none => match writeErr d a x.es with | some e => mem e true | none => none
          else
            let needs := (upto (lineSpan a x.es)).filter fun i => !(cached x.t a && (cacheGet d x.t (lineOf a + 64 * i)).isSome)
            match needs.findSome? (fun i => (lineErr d (lineOf a + 64 * i)).map fun e => (lineOf a + 64 * i, e)) with
            | some e => mem e false
            | none => match writeErr d (x.dest + j * x.es) x.es with | some e => mem e true | none => none

/-- End of a GATHER or SCATTER at its first fault `j` (R98). -/
def GathP.stop (x : GathP) (f : Flight) (j : Nat) (e : Nat × Nat × Option ((Nat × Nat) × Bool)) (d : Dev) : Dev :=
  let r := f.req 2 x.t
  let d := match e.2.2 with
    | some (l, w) => if w then logWriteErr l r d else logErr l r d
    | none => d
  if x.ff ∧ 0 < j then finish f.q f.seq 0x01 e.1 j d else finish f.q f.seq e.1 e.2.1 j d

/-- Move element `j` within this package. -/
def GathP.move (x : GathP) (q : Nat) (r : Req) (scatter : Bool) (j : Nat) (d : Dev) : Dev :=
  let a := x.elem d j
  let d := (busRead (x.index + j * x.iw) x.iw r d).2
  if scatter then let c := busRead (x.dest + j * x.es) x.es r d; busWrite q r a c.1 c.2
  else let c := cread x.t a x.es r d; busWrite q r (x.dest + j * x.es) c.2.1 c.2.2

/-- Elements from `j` on within this package until the first fault. -/
def GathP.local' (x : GathP) (f : Flight) (scatter : Bool) : Nat → Nat → Dev → Dev
  | 0, j, d => if j = x.n then finish f.q f.seq 0 0 x.n d else let o := stopped f j; finish f.q f.seq o.1 o.2.1 o.2.2 d
  | k + 1, j, d => match x.fault d scatter j with
    | some e => x.stop f j e d
    | none => x.local' f scatter k (j + 1) (x.move f.q (f.req 2 x.t) scatter j d)

/-- Element `idx` of a GATHER has arrived from another node. -/
def gatherArrive (f : Flight) (idx : Nat) (bs : List Byte) (d : Dev) : Dev :=
  let x := gathOf f.q f.head
  match writeErr d (x.dest + idx * x.es) x.es with
  | some e => x.stop f idx (errStatus e.2, x.node, some (e, true)) (dropOwn f d)
  | none =>
    let d := modFlight f.q f.seq (fun h => { h with aux := idx + 1 }) (busWrite f.q (f.req 2 x.t) (x.dest + idx * x.es) bs d)
    if idx + 1 = x.n then finish f.q f.seq 0 0 x.n d else d

/-- Elements of a GATHER or SCATTER toward another node, while room lasts: `prog` counts elements asked for or sent. -/
def GathP.remote (x : GathP) (f : Flight) (scatter : Bool) : Nat → Dev → Dev
  | 0, d => d
  | k + 1, d =>
    match findFlight d f.q f.seq with
    | some g =>
      if !g.waitingNow ∨ x.n ≤ g.prog ∨ !roomFor d f.q 128 then d
      else match x.fault d scatter g.prog with
        | some e => if scatter ∨ g.aux = g.prog then x.stop f g.prog e d else d
        | none =>
          let a := x.elem d g.prog
          let d := (busRead (x.index + g.prog * x.iw) x.iw (f.req 2 x.t) d).2
          if scatter then
            let c := busRead (x.dest + g.prog * x.es) x.es (f.req 2 x.t) d
            let bs := c.1
            let d := c.2
            let n := Nat.min x.es (toPage a)
            let m := sendMsg x.node (pkClass f.head) f.q opWrite 0 a 0 (bs.take n) d
            let m := if n < x.es then sendMsg x.node (pkClass f.head) f.q opWrite 0 (a + n) 0 (bs.drop n) m.2 else m
            x.remote f scatter k (modFlight f.q f.seq (fun h => { h with prog := g.prog + 1, aux := m.1 }) m.2)
          else
            let on := modFlight f.q f.seq (fun h => { h with prog := g.prog + 1 })
            match cacheRead d x.t x.node a x.es with
            | some bs => if asking d f then d else x.remote f scatter k (gatherArrive f g.prog bs (on d))
            | none => x.remote f scatter k (on (askRead f x.node g.prog a x.es true d))
    | none => d

/-- GATHER and SCATTER (R98). -/
def gather (scatter : Bool) (f : Flight) (d : Dev) : Dev :=
  let x := gathOf f.q f.head
  let pre := if f.prog ≠ 0 then none else match busRange d false x.index (x.n * x.iw) x.iw with
    | some e => some e
    | none => busRange d (!scatter) x.dest (x.n * x.es) x.es
  match pre with
  | some (st, det) => finish f.q f.seq st det 0 d
  | none =>
    if x.node = myNode d ∨ !inRack d x.node then
      let lim := unitsDone f x.n d
      x.local' f scatter lim.1 0 lim.2
    else if f.stop ≠ 0 then
      let o := stopped f (if scatter then f.prog else f.aux)
      finish f.q f.seq o.1 o.2.1 o.2.2 (dropOwn f d)
    else
      let d := x.remote f scatter 4096 d
      match findFlight d f.q f.seq with
      | some g =>
        if g.waitingNow ∧ g.prog = x.n ∧ (if scatter then hasLeft d x.node g.aux else g.aux == x.n) then finish f.q f.seq 0 0 x.n d else d
      | none => d

/-- GATHER (R98). -/
def execGather (q seq : Nat) (s : State) : Out := onDev s (withFlight 0x11 q seq (gather false))
/-- SCATTER (R98). -/
def execScatter (q seq : Nat) (s : State) : Out := onDev s (withFlight 0x12 q seq (gather true))

/-! INVAL (R319, R320). -/

/-- Whether INVAL's parameters are in range and its reserved bits zero. -/
def invalInRange (p : Packet) : Bool :=
  decide (pbytes p 10 1 ≤ 1) && (pbytes p 10 1 == 0 || decide (1 ≤ bits (pbytes p 24 8) 0 40))
def invalClean (p : Packet) : Bool :=
  if pbytes p 10 1 = 1 then bits (pbytes p 24 8) 40 24 == 0 && bits (pbytes p 16 8) 62 2 == 0 && pbytes p 11 5 == 0 && pbytes p 32 32 == 0
  else pbytes p 11 53 == 0

/-- Lines a RANGE covers. -/
def invalLines (p : Packet) : Nat := lineSpan (gOff (pbytes p 16 8)) (bits (pbytes p 24 8) 0 40)
/-- Predicted count of INVAL (R320). -/
def invalPred (p : Packet) : Nat := if pbytes p 10 1 = 0 then 1040 else 16 + cdiv (invalLines p) 8

/-- INVAL (R320): lines are dropped, and fills on their way are not installed. -/
def inval (f : Flight) (d : Dev) : Dev :=
  let t := qTile f.q
  let g := pbytes f.head 16 8
  let n := bits (pbytes f.head 24 8) 0 40
  let key := if gNode g = myNode d then 0 else gNode g * 2 ^ 48 + 2 ^ 62
  let hit (k : Nat) : Bool := pbytes f.head 10 1 == 0 || decide (key + lineOf (gOff g) ≤ k ∧ k < key + gOff g + n)
  let cnt := ((tileAt d t).rcache.filter fun e => hit e.1).length
  let d := modTile t (fun x => { x with rcache := x.rcache.filter fun e => !hit e.1 }) d
  let asks := d.fab.asks.map fun a =>
    if a.q < 65536 ∧ qTile a.q = t ∧ (pbytes f.head 10 1 = 0 ∨ (a.dst = gNode g ∧ overlap (lineOf a.off) (64 * lineSpan a.off a.len) (gOff g) n)) then
      { a with fill := false } else a
  finish f.q f.seq 0 0 cnt { d with fab := { d.fab with asks := asks } }

/-- INVAL (R320). -/
def execInval (q seq : Nat) (s : State) : Out := onDev s (withFlight 0x13 q seq inval)

/-! Granules of copy-before-write (R278 to R282). -/

/-- Perform the held writes of an A-die that need wait no longer, in arrival order (R279). -/
def releaseHeld (a : Nat) (d : Dev) : Dev :=
  let hs := (trackerAt d a).held
  let d := modTracker a (fun t => { t with held := [] }) d
  hs.foldl (fun d h =>
    if mustHold d h.addr then modTracker a (fun t => { t with held := t.held ++ [h] }) d else poke h.addr h.data d) d

def sessionOf (d : Dev) (a k : Nat) : Option Session := if k = 0 then (trackerAt d a).s0 else (trackerAt d a).s1
def setSession (a k : Nat) (x : Option Session) (d : Dev) : Dev :=
  showTracker a (modTracker a (fun t => if k = 0 then { t with s0 := x } else { t with s1 := x }) d)

/-- Every open session of the package. -/
def sessions (d : Dev) : List Session :=
  (upto 8).flatMap fun a => ((trackerAt d a).s0.toList ++ (trackerAt d a).s1.toList)

/-- Whether a session may take another staging slot: at most 8, and the free slots must leave every other open session its 4
(R280). -/
def slotFree (d : Dev) (s : Session) : Bool :=
  let used := (sessions d).foldl (fun n x => n + x.slots.length) 0
  let owed := (sessions d).foldl (fun n x => n + (4 - x.slots.length)) 0 - (4 - s.slots.length)
  decide (s.slots.length < 8) && decide (used < 64) && (decide (s.slots.length < 4) || decide (used + owed < 64))

/-- The lowest staging slot no session holds. -/
def freeSlot (d : Dev) : Nat := (findUp (fun k => !(sessions d).any fun s => s.slots.any fun e => e.1 == k) 64 0).getD 64

/-- GRANULE_TAKEN (R280, R281): the granule is staged as it stands and its held writes proceed; an uncorrectable line in it
marks it bad. -/
def granuleTaken (a k g : Nat) (d : Dev) : Dev :=
  match sessionOf d a k with
  | some s =>
    if owesGranule g (some s) && slotFree d s then
      let base := a * stackSpan + g * 0x40000
      let bad := (upto 4096).filterMap fun i => (lineErr d (base + 64 * i)).map fun e => (base + 64 * i, e)
      let bytes := d.mem.filter fun e => decide (base ≤ e.1 ∧ e.1 < base + 0x40000)
      let s := { s with slots := s.slots ++ [(freeSlot d, g)], snapBytes := bytes.foldl (fun t e => tabSet memRest t e.1 e.2) s.snapBytes,
                        badLines := s.badLines ++ bad.map (·.1),
                        taken := if bad.isEmpty then insUp g s.taken else s.taken,
                        badG := if bad.isEmpty then s.badG else insUp g s.badG }
      let d := bad.foldl (fun d e => logErr e (reqOf 7 a) d) (correctSpans [(base, 0x40000)] (reqOf 7 a) d)
      releaseHeld a (setSession a k (some s) d)
    else d
  | none => d

/-- GRANULE_TAKEN (R280). -/
def execGranuleTaken (a session granule : Nat) (s : State) : Out :=
  onDev s fun d => if a < 8 ∧ session < 2 then granuleTaken a session granule d else d

end Sys2Proof.Machine
end

