-- ==== Sys2Proof/Machine/Remote.lean ====
section
/-!
DEFINITION. Machine/Remote.lean: FENCE and SIGNAL, the fabric unit's remote operations, and what a node does with the messages
that reach it (R90, R92, R303 to R331).
-/
namespace Sys2Proof.Machine

/-! Arguments of messages (log entry 56): bytes 0-1 flags, [0] combined, [1] an answer is wanted, [2] isat or,
on SEND_ANN, withdrawn, [3] data of a SEND, [4] a four-byte atomic of a hart; bytes 2-5 an identifier. -/

def argFlag (m : Msg) (i : Nat) : Bool := bitAt m.args i
def argId (m : Msg) : Nat := bits m.args 16 32
/-- Identifier of a command in messages. -/
def cmdId (q seq : Nat) : Nat := q * 65536 + seq % 65536

/-! Atomic updates (R324, R326). -/

/-- New value of an 8-byte word under RATOM operation `op`. -/
def atomOp (op old v cmp : Nat) : Nat :=
  let s (x : Nat) : Int := sext 64 x
  match op with
  | 0 => (old + v) % 2 ^ 64
  | 1 => v
  | 2 => if old = cmp then v else old
  | 3 => old &&& v
  | 4 => old ||| v
  | 5 => old ^^^ v
  | 6 => if s old < s v then v else old
  | 7 => if s v < s old then v else old
  | 8 => Nat.max old v
  | _ => Nat.min old v

/-- An atomic update of a word of `w` bytes; a hart may update four (R227, R314). -/
def atomOpN (w op old v cmp : Nat) : Nat :=
  if w = 4 then
    let x (n : Nat) : Nat := wrapBits 64 (sext 32 n)
    atomOp op (x old) (x v) (x cmp) % 2 ^ 32
  else atomOp op old v cmp

/-- An element sum of RRED in format `fmt` (R324): nearest-even, canonical NaN; integers wrap or saturate. -/
def rredAdd (fmt : Nat) (isat : Bool) (a b : Nat) : Nat :=
  if fmt ≤ 1 then
    (encodeX (fmtF fmt) 0 false (addN 0 (decodeF (fmtF fmt) a) (decodeF (fmtF fmt) b))).1
  else
    let w := 8 * esz fmt
    let x := sext w a + sext w b
    wrapBits w (if isat then (clampInt w true x).1 else x)

/-- Fault of an access by status and detail, with the failing line to log (for a write: true). -/
abbrev Trouble := Nat × Nat × Option ((Nat × Nat) × Bool)

/-- Log the failing line of a trouble for requester `r`. -/
def logTrouble (e : Trouble) (r : Req) (d : Dev) : Dev :=
  match e.2.2 with
  | some (l, w) => if w then logWriteErr l r d else logErr l r d
  | none => d

/-- Why this package may not update `[a, a+n)` in part; memory errors carry `det`. -/
def updateTrouble (d : Dev) (det a n : Nat) : Option Trouble :=
  match badRange d true a n with
  | some (st, dt) => some (st, dt, none)
  | none => match writeErr d a n with
    | some e => some (errStatus e.2, det, some (e, true))
    | none => none

/-- Add `n` bytes of elements onto memory at `a` (R324). -/
def rredApply (fmt : Nat) (isat : Bool) (r : Req) : Nat → Nat → List Byte → Dev → Dev
  | 0, _, _, d => d
  | k + 1, a, bs, d =>
    let w := esz fmt
    if bs.length < w then d
    else rredApply fmt isat r k (a + w) (bs.drop w) (memWriteN r a w (rredAdd fmt isat (ld d a w) (natOf (bs.take w))) (correctReads a w r d))

/-- Add elements of a ZG64 block, from its element `j0` on, onto the block at `blk` (R121, R324): `g` and `hdr` are the source
header's exponent and flags. -/
def zgApply (r : Req) (blk g hdr j0 : Nat) (bs : List Byte) (d : Dev) : Dev :=
  let d := correctReads blk 2 r d
  let h := ld d (blk + 1) 1
  if g = 255 then memWriteN r (blk + 1) 1 (h ||| 4) d
  else if ld d blk 1 ≠ g then memWriteN r (blk + 1) 1 (h ||| hdr ||| 8) d
  else rredApply 9 false r 256 (blk + 64 + 8 * j0) bs (memWriteN r (blk + 1) 1 (h ||| hdr) d)

/-- Why a command may not update the word at `a`; memory errors carry `det`. -/
def wordTrouble (d : Dev) (det a : Nat) : Option Trouble :=
  if inCtrl a then (winFault a 8 8).map fun e => (e.1, e.2, none) else updateTrouble d det a 8

/-! FENCE (R90, R318). -/

/-- Destinations a FENCE GLOBAL counts: those of its queue, or, past sixteen, every destination the tile has messages out to. -/
def fenceDests (d : Dev) (q : Nat) : Tab Nat :=
  let own := (queueAt d q).dests
  if own.length ≤ 16 then own
  else d.fab.store.foldl (fun t s =>
    if s.q < 65536 ∧ qTile s.q = qTile q then tabSet (fun _ => 0) t s.dst ((peerAt d s.dst).txNext) else t) []

/-- Whether every message to `dst` before dseq `v` has been acknowledged. -/
def ackedTo (d : Dev) (dst v : Nat) : Bool := !(d.fab.store.any fun s => s.dst == dst && before32 s.msg.dseq v)

/-- FENCE (R90): every earlier packet has a written reply; a GLOBAL one takes its snapshot then and waits for its
destinations. -/
def fence (f : Flight) (d : Dev) : Dev :=
  if qRetire d f.q ≠ f.seq then d
  else if pbytes f.head 10 1 = 0 then finish f.q f.seq 0 0 0 d
  else
    let d := if f.prog = 0 then
        modFlight f.q f.seq (fun x => { x with prog := 1 })
          (modQueue f.q (fun x => { x with dests := fenceDests d f.q }) d)
      else d
    let x := queueAt d f.q
    let clear := modQueue f.q (fun x => { x with dests := [], mcasts := [], refusal := none })
    match x.dests.find? (fun e => d.fab.lost.contains e.1) with
    | some e => finish f.q f.seq 0x06 e.1 ((x.dests.filter fun y => !d.fab.lost.contains y.1 && ackedTo d y.1 y.2).length) (clear d)
    | none =>
      if x.dests.all (fun e => ackedTo d e.1 e.2) && !(d.fab.mcout.any fun m => x.mcasts.contains m.ident) then
        let n := x.dests.length
        match x.refusal with
        | some (st, det) => finish f.q f.seq st det n (clear d)
        | none => finish f.q f.seq 0 0 n (clear d)
      else d

/-- FENCE (R90). -/
def execFence (q seq : Nat) (s : State) : Out := onDev s (withFlight 0x01 q seq fence)

/-! RATOM and SIGNAL (R92, R326). -/

/-- A held atomic is counted as a stalled write once (R279, R282). -/
def stallOnce (f : Flight) (a : Nat) (d : Dev) : Dev :=
  if f.prog = 9 then d
  else modFlight f.q f.seq (fun x => { x with prog := 9 }) (note 36 0xFFFF 1 (addSat d (aCbwStat (a / stackSpan)) 38 16 1))

/-- Data of a RATOM message: operand and compared value. -/
def atomData (v cmp : Nat) : List Byte := bytesOf 8 v ++ bytesOf 8 cmp

/-- SIGNAL (R92): the semaphore is added to once every earlier packet has a written reply. -/
def signal (f : Flight) (d : Dev) : Dev :=
  let g := pbytes f.head 16 8
  let v := pbytes f.head 24 8
  let a := gOff g
  let n := gNode g
  let r := f.req 9 (qTile f.q)
  if f.prog = 2 then (if hasLeft d n f.aux then finish f.q f.seq 0 0 1 d else d)
  else if qRetire d f.q ≠ f.seq then d
  else if !inRack d n then finish f.q f.seq 0x0E 0x0002 0 d
  else if n = myNode d then
    match wordTrouble d 0 a with
    | some e => finish f.q f.seq e.1 e.2.1 0 (logTrouble e r d)
    | none =>
      if mustHold d a then stallOnce f a d
      else finish f.q f.seq 0 0 1 (busUpdate f.q r a (fun w => atomOp 0 w v 0) d).2
  else if d.fab.lost.contains n then finish f.q f.seq 0x06 n 0 d
  else if !roomFor d f.q 16 then d
  else
    let m := sendMsg n (pkClass f.head) f.q opRatom 0 a 0 (atomData v 0) d
    let d := modFlight f.q f.seq (fun x => { x with prog := 2, aux := m.1 }) m.2
    if hasLeft d n m.1 then finish f.q f.seq 0 0 1 d else d

/-- SIGNAL (R92). -/
def execSignal (q seq : Nat) (s : State) : Out := onDev s (withFlight 0x03 q seq signal)

/-- The old value of a RATOM is written to ret where it is asked for, and the command ends (R326). -/
def ratomDone (f : Flight) (old : Nat) (d : Dev) : Dev :=
  let r := f.req 2 (qTile f.q)
  let ret := bits (pbytes f.head 40 6) 0 48
  if pbits f.head 11 0 1 = 0 then finish f.q f.seq 0 0 1 d
  else match writeErr d ret 8 with
    | some e => finish f.q f.seq (errStatus e.2) 0 0 (logWriteErr e r d)
    | none => finish f.q f.seq 0 0 1 (busWrite f.q r ret (bytesOf 8 old) d)

/-- RATOM (R326). -/
def ratom (f : Flight) (d : Dev) : Dev :=
  let g := pbytes f.head 16 8
  let a := gOff g
  let n := gNode g
  let op := pbytes f.head 10 1
  let v := pbytes f.head 24 8
  let cmp := pbytes f.head 32 8
  let r := f.req 2 (qTile f.q)
  let wants := pbits f.head 11 0 1 == 1
  let ret := bits (pbytes f.head 40 6) 0 48
  if f.prog = 1 then
    -- without ret, the command ends when its message is acknowledged
    if !wants && ackedTo d n (f.aux + 1) then finish f.q f.seq 0 0 1 (dropOwn f d) else d
  else if !inRack d n then finish f.q f.seq 0x0E 0x0002 0 d
  else match (if wants then busRange d true ret 8 8 else none) with
  | some (st, det) => finish f.q f.seq st det 0 d
  | none =>
    if n = myNode d then
      match wordTrouble d 0 a with
      | some e => finish f.q f.seq e.1 e.2.1 0 (logTrouble e r d)
      | none =>
        if mustHold d a then stallOnce f a d
        else
          let x := busUpdate f.q r a (fun w => atomOp op w v cmp) d
          ratomDone f x.1 x.2
    else if d.fab.lost.contains n then finish f.q f.seq 0x06 n 0 d
    else if !roomFor d f.q 16 then d
    else
      let m := sendAsk n (pkClass f.head) f.q opRatom op a (2 * b2n wants) (atomData v cmp) (⟨n, ·, f.q, f.seq, 0, 8, a, false⟩) d
      modFlight f.q f.seq (fun x => { x with prog := 1, aux := m.1 }) m.2

/-- RATOM (R326). -/
def execRatom (q seq : Nat) (s : State) : Out := onDev s (withFlight 0x54 q seq ratom)

/-- A WAITSEM tests its semaphore (R93): a word that cannot be read ends it; a word that meets its mode ends it with OK,
count 1, GE_SUB subtracting in the same access; none where it stays waiting. -/
def waitsemTest (f : Flight) (d : Dev) : Option Dev :=
  let a := bits (pbytes f.head 16 8) 0 48
  let operand := pbytes f.head 24 8
  let mode := pbytes f.head 10 1
  let r := f.req 9 (qTile f.q)
  match busRange d (mode == 2) a 8 8 with
  | some (st, det) => some (finish f.q f.seq st det 0 d)
  | none => match readErr d a 8 with
    | some e => some (finish f.q f.seq (errStatus e.2) 0 0 (logErr e r d))
    | none =>
      let v := if inCtrl a then (winWord a d).1 else ld d a 8
      let met := if mode = 1 then v == operand else decide (sext 64 operand ≤ sext 64 v)
      -- a subtraction a copy session would hold is performed, with its test, once it need not wait (R279)
      if met && !(mode == 2 && mustHold d a) then
        some (finish f.q f.seq 0 0 1 (if mode = 2 then (busUpdate f.q r a (fun v => (v + 2 ^ 64 - operand) % 2 ^ 64) d).2
          else (busRead a 8 r d).2))
      else none

/-- The line a WAITSEM watches. -/
def watchLine (f : Flight) : Nat := lineOf (bits (pbytes f.head 16 8) 0 48)

/-- Lines tile `t` watches (R93). -/
def watched (d : Dev) (t : Nat) : List Nat :=
  d.flights.foldl (fun l f => if f.op == 0x04 && f.waitingNow && f.prog == 1 && qTile f.q == t then insUp (watchLine f) l else l) []

/-- WAITSEM at issue (R93): test, else watch its line where one of the 64 watches is free. -/
def waitsem (f : Flight) (d : Dev) : Dev :=
  match waitsemTest f d with
  | some d' => d'
  | none =>
    let w := watched d (qTile f.q)
    if w.contains (watchLine f) || decide (w.length < 64) then modFlight f.q f.seq (fun x => { x with prog := 1 }) d else d

/-- WAITSEM (R93). -/
def execWaitsem (q seq : Nat) (s : State) : Out := onDev s (withFlight 0x04 q seq waitsem)

/-- A write to a watched line re-tests the WAITSEMs that watch it, in the order they were issued; a WAITSEM that had found no
free watch takes one now (R93). -/
def waitsemWake (line : Nat) (d : Dev) : Dev :=
  d.flights.foldl (fun d f =>
    if f.op == 0x04 && f.waitingNow && f.prog == 1 && watchLine f == line then
      match waitsemTest f d with | some d' => d' | none => d
    else d) d

/-- WAITSEM_WAKE (R93). -/
def execWaitsemWake (addr : Nat) (s : State) : Out := onDev s (waitsemWake (lineOf addr))

/-- A WAITSEM whose timeout has passed answers ABORTED detail 2; time moves on to that instant (R93). -/
def waitsemExpire (f : Flight) (d : Dev) : Dev :=
  let tmo := pbytes f.head 12 4
  if tmo = 0 then d
  else
    let d := passMono (f.aux + 24 * tmo) d
    match waitsemTest f d with
    | some d' => d'
    | none => finish f.q f.seq 0x02 0x0002 0 d

/-- WAITSEM_TIMEOUT (R93). -/
def execWaitsemTimeout (q seq : Nat) (s : State) : Out := onDev s (withFlight 0x04 q seq waitsemExpire)

/-! PUT, GET, RRED, MCAST (R321 to R325). -/

/-- Read bytes for the fabric unit: those before the first line that fails, and how it fails. -/
def plainRead (d : Dev) (a n : Nat) (r : Req) : Option (Nat × Nat) × List Byte × Dev :=
  match readErr d a n with
  | some e => (some e, ldBytes d a (e.1 - a), d)
  | none => (none, busRead a n r d)

/-- Bytes `[o, n)` of a local transfer, line by line of the destination: bytes done and the error that stopped it. -/
def moveLines (q src dst len : Nat) (r : Req) : Nat → Nat → Dev → Nat × Option ((Nat × Nat) × Bool) × Dev
  | 0, o, d => (o, none, d)
  | k + 1, o, d =>
    if len ≤ o then (o, none, d)
    else
      let n := Nat.min (64 - (dst + o) % 64) (len - o)
      let c := plainRead d (src + o) n r
      match c.1 with
      | some e => (o, some (e, false), c.2.2)
      | none => match writeErr c.2.2 (dst + o) n with
        | some e => (o, some (e, true), c.2.2)
        | none => moveLines q src dst len r k (o + n) (busWrite q r (dst + o) c.2.1 c.2.2)

/-- A transfer within this package ends: all of it, stopped at an error, or stopped by ABORT at a place not given (R95). -/
def moveLocal (f : Flight) (src dst len : Nat) (after : Dev → Dev) (d : Dev) : Dev :=
  let r := f.req 2 (qTile f.q)
  let lines := lineSpan dst len
  let lim := unitsDone f lines d
  let c := moveLines f.q src dst len r lim.1 0 lim.2
  match c.2.1 with
  | some (e, w) => finish f.q f.seq (errStatus e.2) 0 c.1 (if w then logWriteErr e r c.2.2 else logErr e r c.2.2)
  | none =>
    if c.1 = len then finish f.q f.seq 0 0 len (after c.2.2)
    else let o := stopped f c.1; finish f.q f.seq o.1 o.2.1 o.2.2 c.2.2

/-- Messages of a transfer of local bytes to another node, while room lasts: `prog` counts bytes sent from `base` on. A line that
cannot be read ends the command with the bytes before it. `args` goes with every message. -/
def sendBytes (f : Flight) (src node dst len base args : Nat) : Nat → Dev → Dev
  | 0, d => d
  | k + 1, d =>
    match findFlight d f.q f.seq with
    | some g =>
      let o := g.prog - base
      if !g.waitingNow ∨ len ≤ o ∨ !roomFor d f.q 4096 then d
      else
        let n := Nat.min (len - o) (toPage (dst + o))
        let c := plainRead d (src + o) n (f.req 2 (qTile f.q))
        let m := if c.2.1.isEmpty then (g.aux, c.2.2)
          else sendMsg node (pkClass f.head) f.q opWrite 0 (dst + o) args c.2.1 c.2.2
        let d := modFlight f.q f.seq (fun h => { h with prog := g.prog + c.2.1.length, aux := m.1 }) m.2
        match c.1 with
        | some e => finish f.q f.seq (errStatus e.2) 0 (o + c.2.1.length) (logErr e (f.req 2 (qTile f.q)) d)
        | none => sendBytes f src node dst len base args k d
    | none => d

/-- PUT (R322). -/
def put (f : Flight) (d : Dev) : Dev :=
  let src := bits (pbytes f.head 16 8) 0 48
  let g := pbytes f.head 24 8
  let node := gNode g
  let dst := gOff g
  let len := bits (pbytes f.head 32 6) 0 40
  let sig := pbits f.head 10 0 1 == 1
  let sa := gOff (pbytes f.head 40 8)
  let sv := pbytes f.head 48 8
  let me := node == myNode d
  let pre := if f.prog ≠ 0 then none else match busRange d false src len 8 with
    | some e => some e
    | none =>
      if me then
        match busRange d true dst len 8 with
        | some e => some e
        | none => if sig then busRange d true sa 8 8 else none
      else if 2 ^ 48 < dst + len then some (0x0E, 0x0002)
      else if d.fab.lost.contains node then some (0x06, node) else none
  match pre with
  | some (st, det) => finish f.q f.seq st det 0 d
  | none =>
    if me then
      let r := f.req 2 (qTile f.q)
      if sig && mustHold d sa then stallOnce f sa d
      else match (if sig then writeErr d sa 8 else none) with
        | some e => finish f.q f.seq (errStatus e.2) 0 0 (logWriteErr e r d)
        | none => moveLocal f src dst len (fun d => if sig then (busUpdate f.q r sa (fun w => atomOp 0 w sv 0) d).2 else d) d
    else if f.stop ≠ 0 then let o := stopped f f.prog; finish f.q f.seq o.1 o.2.1 o.2.2 d
    else
      let d := sendBytes f src node dst len 0 0 4096 d
      match findFlight d f.q f.seq with
      | some h =>
        if !h.waitingNow then d
        else
          let d := if h.prog = len ∧ sig ∧ roomFor d f.q 16 then
              let m := sendMsg node (pkClass f.head) f.q opRatom 0 sa 0 (atomData sv 0) d
              modFlight f.q f.seq (fun x => { x with prog := len + 1, aux := m.1 }) m.2
            else d
          match findFlight d f.q f.seq with
          | some h => if h.prog = len + b2n sig ∧ hasLeft d node h.aux then finish f.q f.seq 0 0 len d else d
          | none => d
      | none => d

/-- PUT (R322). -/
def execPut (q seq : Nat) (s : State) : Out := onDev s (withFlight 0x50 q seq put)

/-- Data of a GET has arrived for the piece at offset `idx`. -/
def getArrive (f : Flight) (idx : Nat) (bs : List Byte) (d : Dev) : Dev :=
  let dst := bits (pbytes f.head 24 8) 0 48
  let len := bits (pbytes f.head 32 6) 0 40
  let r := f.req 2 (qTile f.q)
  match writeErr d (dst + idx) bs.length with
  | some e =>
    let good := if e.1 ≤ dst + idx then 0 else e.1 - (dst + idx)
    finish f.q f.seq (errStatus e.2) 0 (idx + good) (logWriteErr e r (dropOwn f (busWrite f.q r (dst + idx) (bs.take good) d)))
  | none =>
    let d := modFlight f.q f.seq (fun h => { h with aux := idx + bs.length }) (busWrite f.q r (dst + idx) bs d)
    if idx + bs.length = len then finish f.q f.seq 0 0 len d else d

/-- Pieces of a GET asked for while room lasts. -/
def getAsk (f : Flight) (node src dst len : Nat) : Nat → Dev → Dev
  | 0, d => d
  | k + 1, d =>
    match findFlight d f.q f.seq with
    | some g =>
      if !g.waitingNow ∨ len ≤ g.prog ∨ !roomFor d f.q 4096 then d
      else
        let n := wordPiece dst (pieceLen src dst len g.prog)
        getAsk f node src dst len k
          (modFlight f.q f.seq (fun h => { h with prog := g.prog + n }) (askRead f node g.prog (src + g.prog) n false d))
    | none => d

/-- GET (R323): it always reads the home. -/
def get (f : Flight) (d : Dev) : Dev :=
  let g := pbytes f.head 16 8
  let node := gNode g
  let src := gOff g
  let dst := bits (pbytes f.head 24 8) 0 48
  let len := bits (pbytes f.head 32 6) 0 40
  let me := node == myNode d
  let pre := if f.prog ≠ 0 then none else
    match (if me then busRange d false src len 8 else if 2 ^ 48 < src + len then some (0x0E, 0x0002)
      else if d.fab.lost.contains node then some (0x06, node) else none) with
    | some e => some e
    | none => busRange d true dst len 8
  match pre with
  | some (st, det) => finish f.q f.seq st det 0 d
  | none =>
    if me then moveLocal f src dst len id d
    else if f.stop ≠ 0 then let o := stopped f f.aux; finish f.q f.seq o.1 o.2.1 o.2.2 (dropOwn f d)
    else getAsk f node src dst len 4096 d

/-- GET (R323). -/
def execGet (q seq : Nat) (s : State) : Out := onDev s (withFlight 0x51 q seq get)

/-- Element at position `k` of an RRED in bytes from the start, for format `fmt`. -/
def rredBytes (fmt n : Nat) : Nat := if fmt = 0xC then n / 256 * 2112 else n * esz fmt

/-- Bytes an RRED accesses at a time: elements, or a block's header and elements. -/
def rredUnit (fmt : Nat) : Nat := if fmt = 0xC then 1 else esz fmt

/-- One ZG64 message: the elements from `j` on of the block at local `sb`, as many as fit the 4 KiB region of the destination. -/
def zgPiece (db j : Nat) : Nat := Nat.min (256 - j) ((toPage (db + 64 + 8 * j) + 7) / 8)

/-- Next message of an RRED at `prog` elements, applied here or sent; the error that stops it. -/
def rredStep (f : Flight) (fmt src node dst n : Nat) (isat me : Bool) (o : Nat) (d : Dev) : Nat × Option Trouble × Dev :=
  let r := f.req 2 (qTile f.q)
  if fmt = 0xC then
    let sb := src + o / 256 * 2112
    let db := dst + o / 256 * 2112
    let j := o % 256
    let k := zgPiece db j
    match readErr d sb 64, readErr d (sb + 64 + 8 * j) (8 * k) with
    | some e, _ => (0, some (errStatus e.2, 0, some (e, false)), d)
    | _, some e => (0, some (errStatus e.2, 0, some (e, false)), d)
    | none, none =>
      let d := correctSpans [(sb, 64), (sb + 64 + 8 * j, 8 * k)] r d
      let bs := ldBytes d (sb + 64 + 8 * j) (8 * k)
      let g := ld d sb 1
      let h := ld d (sb + 1) 1
      if me then
        match writeErr d db 2, writeErr d (db + 64 + 8 * j) (8 * k) with
        | some e, _ => (0, some (errStatus e.2, 0, some (e, true)), d)
        | _, some e => (0, some (errStatus e.2, 0, some (e, true)), d)
        | none, none => (k, none, zgApply r db g h j bs d)
      else
        let m := sendMsg node (pkClass f.head) f.q opRred fmt (db + 64 + 8 * j) (g <<< 48 + h <<< 56 + j <<< 64) bs d
        (k, none, modFlight f.q f.seq (fun x => { x with aux := m.1 }) m.2)
  else
    let w := esz fmt
    let k := Nat.min (n - o) (if me then 1 else toPage (dst + o * w) / w)
    match readErr d (src + o * w) (k * w) with
    | some e =>
      if k = 1 ∨ e.1 < src + (o + 1) * w then (0, some (errStatus e.2, 0, some (e, false)), d)
      else
        let k := (e.1 - (src + o * w)) / w
        if me then (0, none, d)
        else
          let m := sendMsg node (pkClass f.head) f.q opRred fmt (dst + o * w) (4 * b2n isat) (ldBytes d (src + o * w) (k * w))
            (correctReads (src + o * w) (k * w) r d)
          (k, none, modFlight f.q f.seq (fun x => { x with aux := m.1 }) m.2)
    | none =>
      let c := busRead (src + o * w) (k * w) r d
      let bs := c.1
      let d := c.2
      if me then
        match writeErr d (dst + o * w) w with
        | some e => (0, some (errStatus e.2, 0, some (e, true)), d)
        | none => (k, none, if inCtrl dst then (busUpdate f.q r (dst + o * w) (fun x => rredAdd fmt isat x (natOf bs)) d).2
            else rredApply fmt isat r 1 (dst + o * w) bs d)
      else
        let m := sendMsg node (pkClass f.head) f.q opRred fmt (dst + o * w) (4 * b2n isat) bs d
        (k, none, modFlight f.q f.seq (fun x => { x with aux := m.1 }) m.2)

/-- Messages or elements of an RRED from `prog` on, while room lasts. -/
def rredGo (f : Flight) (fmt src node dst n : Nat) (isat me : Bool) : Nat → Dev → Dev
  | 0, d => d
  | k + 1, d =>
    match findFlight d f.q f.seq with
    | some g =>
      if !g.waitingNow ∨ n ≤ g.prog ∨ (!me ∧ !roomFor d f.q 4096) ∨ (me ∧ mustHold d (dst + rredBytes fmt g.prog)) then d
      else
        let x := rredStep f fmt src node dst n isat me g.prog d
        match x.2.1 with
        | some e => finish f.q f.seq e.1 e.2.1 g.prog (logTrouble e (f.req 2 (qTile f.q)) x.2.2)
        | none => rredGo f fmt src node dst n isat me k (modFlight f.q f.seq (fun h => { h with prog := g.prog + x.1 }) x.2.2)
    | none => d

/-- RRED (R324). -/
def rred (f : Flight) (d : Dev) : Dev :=
  let fmt := pbytes f.head 10 1
  let isat := pbits f.head 11 0 1 == 1
  let n := pbytes f.head 12 4
  let src := bits (pbytes f.head 16 8) 0 48
  let g := pbytes f.head 24 8
  let node := gNode g
  let dst := gOff g
  let me := node == myNode d
  let len := rredBytes fmt n
  let pre := if f.prog ≠ 0 then none else match busRange d false src len (rredUnit fmt) with
    | some e => some e
    | none =>
      if me then busRange d true dst len (rredUnit fmt)
      else if 2 ^ 48 < dst + len then some (0x0E, 0x0002)
      else if d.fab.lost.contains node then some (0x06, node) else none
  match pre with
  | some (st, det) => finish f.q f.seq st det 0 d
  | none =>
    if f.stop ≠ 0 ∧ !me then let o := stopped f f.prog; finish f.q f.seq o.1 o.2.1 o.2.2 d
    else
      let lim := if me then unitsDone f n d else (n, d)
      let d := rredGo f fmt src node dst lim.1 isat me (lim.1 + 1) lim.2
      match findFlight d f.q f.seq with
      | some h =>
        if !h.waitingNow ∨ h.prog < lim.1 then d
        else if f.stop ≠ 0 ∧ lim.1 < n then let o := stopped f h.prog; finish f.q f.seq o.1 o.2.1 o.2.2 d
        else if me ∨ hasLeft d node h.aux then finish f.q f.seq 0 0 n d else d
      | none => d

/-- RRED (R324). -/
def execRred (q seq : Nat) (s : State) : Out := onDev s (withFlight 0x52 q seq rred)

/-- Members of an MCAST set (R325). -/
def mcMember (base span m : Nat) : Bool := (m ||| span) == (base ||| span)
def mcMembers (d : Dev) (base span : Nat) : List Nat :=
  (upto (2 ^ rf d fNodeCfg 14 4)).filter (mcMember (base % 2 ^ 14) (span % 2 ^ 14))

/-- Arguments of an MCAST message holding a copy for span `s`. -/
def mcArgs (base span s : Nat) : Nat := base <<< 16 + span <<< 32 + s <<< 48

/-- Send a copy of an MCAST from source `src`, with span `s`, to a node. -/
def mcCopy (src dst cls s : Nat) (m : Msg) (d : Dev) : Dev :=
  let m := { m with args := putBits m.args 48 14 s }
  (msgFlits d dst cls m).foldl (fun d x => forward { x with src := src } d) d

/-- Copies a node holding span `s` sends on: for each set bit in decreasing order (R325). -/
def mcSpread (src cls s : Nat) (m : Msg) (d : Dev) : Dev :=
  ((upto 14).reverse.filter (bitAt s)).foldl (fun d k => mcCopy src (myNode d ^^^ 2 ^ k) cls (s % 2 ^ k) m d) d

/-- Flits of MCAST messages a queue holds unacknowledged. -/
def mcRoom (d : Dev) (q : Nat) : Bool :=
  decide (d.fab.mcout.foldl (fun n m => if m.q == q then n + flitCount m.msg.data.length else n) (openFlits d q) + 37 ≤ 512)

/-- One MCAST message leaves its source. -/
def mcSend (f : Flight) (base span off : Nat) (bs : List Byte) (d : Dev) : Dev :=
  let id := d.fab.nextId
  let me := myNode d
  let msg : Msg := ⟨id, opMcast, 0, off, mcArgs base span span, bs⟩
  let missing := (mcMembers d base span).filter fun n => n != me && !d.fab.lost.contains n
  let d := { d with fab := { d.fab with nextId := (id + 1) % 2 ^ 32 } }
  let d := if missing.isEmpty then d else
    { (modQueue f.q (fun x => { x with mcasts := x.mcasts ++ [id] }) d) with
      fab := { d.fab with mcout := d.fab.mcout ++ [⟨id, f.q, pkClass f.head, missing, msg, mono d⟩] } }
  if mcMember base span me then mcSpread me (pkClass f.head) span msg d
  else mcCopy me ((base - (base &&& span)) ||| (me &&& span)) (pkClass f.head) span msg d

/-- Messages of an MCAST while room lasts; an issuer that is a member writes its own copy. -/
def mcGo (f : Flight) (src dst base span len : Nat) (member : Bool) : Nat → Dev → Dev
  | 0, d => d
  | k + 1, d =>
    match findFlight d f.q f.seq with
    | some g =>
      if !g.waitingNow ∨ len ≤ g.prog ∨ !mcRoom d f.q then d
      else
        let r := f.req 2 (qTile f.q)
        let n := Nat.min (len - g.prog) (toPage (dst + g.prog))
        let c := plainRead d (src + g.prog) n r
        match (if member ∧ !c.2.1.isEmpty then writeErr c.2.2 (dst + g.prog) c.2.1.length else none) with
        | some e => finish f.q f.seq (errStatus e.2) 0 g.prog (logWriteErr e r c.2.2)
        | none =>
          let d := if member then busWrite f.q r (dst + g.prog) c.2.1 c.2.2 else c.2.2
          let d := if c.2.1.isEmpty then d else mcSend f base span (dst + g.prog) c.2.1 d
          let d := modFlight f.q f.seq (fun h => { h with prog := g.prog + c.2.1.length }) d
          match c.1 with
          | some e => finish f.q f.seq (errStatus e.2) 0 (g.prog + c.2.1.length) (logErr e r d)
          | none => mcGo f src dst base span len member k d
    | none => d

/-- Whether no flit of this package's MCASTs waits on its ports. -/
def mcLeft (d : Dev) (q : Nat) : Bool :=
  let ids := (queueAt d q).mcasts
  d.fab.links.all fun e => e.2.txq.all fun x => !(x.src == myNode d && x.typ != 3 && ids.contains (flitDseq x))

/-- MCAST (R325). -/
def mcast (f : Flight) (d : Dev) : Dev :=
  let src := bits (pbytes f.head 16 8) 0 48
  let dst := bits (pbytes f.head 24 6) 0 48
  let base := pbytes f.head 32 2 % 2 ^ 14
  let span := pbytes f.head 34 2 % 2 ^ 14
  let len := bits (pbytes f.head 36 6) 0 40
  let member := mcMember base span (myNode d)
  let pre := if f.prog ≠ 0 then none else match busRange d false src len 8 with
    | some e => some e
    | none => if member then busRange d true dst len 8 else if 2 ^ 48 < dst + len then some (0x0E, 0x0002) else none
  match pre with
  | some (st, det) => finish f.q f.seq st det 0 d
  | none =>
    if f.stop ≠ 0 then let o := stopped f f.prog; finish f.q f.seq o.1 o.2.1 o.2.2 d
    else
      let d := mcGo f src dst base span len member 4096 d
      match findFlight d f.q f.seq with
      | some h => if h.waitingNow ∧ h.prog = len ∧ mcLeft d f.q then finish f.q f.seq 0 0 len d else d
      | none => d

/-- MCAST (R325). -/
def execMcast (q seq : Nat) (s : State) : Out := onDev s (withFlight 0x53 q seq mcast)

/-- MCAST_RESEND (R325): after 20 µs without acknowledgement, direct copies to the members still missing. -/
def mcastResend (ident : Nat) (d : Dev) : Dev :=
  match d.fab.mcout.find? (fun m => m.ident == ident) with
  | none => d
  | some m =>
    let d := passMono (m.since + 480000) d
    let d := { d with fab := { d.fab with mcout := d.fab.mcout.map fun x => if x.ident == ident then { x with since := mono d } else x } }
    m.missing.foldl (fun d n => mcCopy (myNode d) n m.cls 0 m.msg d) d

/-- MCAST_RESEND (R325). -/
def execMcastResend (ident : Nat) (s : State) : Out := onDev s (mcastResend ident)

/-! SEND and RECV (R327, R328). -/

/-- Peer of a SEND or RECV path: the named node, or the enclosure on a T port. -/
def pathPeer (path node : Nat) : Nat := if path = 0 then node else encl (15 + path)

/-- Add an announcement to the list of unmatched ones, if it has room. -/
def annAdd (a : Ann) (d : Dev) : Bool × Dev :=
  if d.fab.anns.length < 4096 then (true, { d with fab := { d.fab with anns := d.fab.anns ++ [a] } }) else (false, d)

/-- A SEND announces itself; here, where it is for this node. -/
def announce (f : Flight) (d : Dev) : Dev :=
  let path := pbytes f.head 10 1
  let dest := pbytes f.head 24 8
  let mtag := pbytes f.head 12 4
  let len := bits (pbytes f.head 32 6) 0 32
  let node := pathPeer path (bits dest 16 14)
  let id := cmdId f.q f.seq
  let set (p : Nat) := modFlight f.q f.seq fun x => { x with prog := p }
  if path = 0 ∧ node = myNode d then
    let r := annAdd ⟨node, 0, id, bits dest 0 16, mtag, len⟩ d
    if r.1 then set 1 r.2 else modFlight f.q f.seq (fun x => { x with prog := 2, aux := mono d + 240000 }) d
  else if d.fab.lost.contains node then finish f.q f.seq 0x06 node 0 d
  else
    set 1 (sendAsk node (pkClass f.head) f.q opSendAnn path (bits dest 0 16) (id <<< 16 + mtag <<< 48 + len <<< 80) []
      (⟨node, ·, f.q, f.seq, 0, 0, 0, false⟩) d).2

/-- A SEND stopped before its match removes its announcement (R328). -/
def withdraw (f : Flight) (d : Dev) : Dev :=
  let path := pbytes f.head 10 1
  let node := pathPeer path (bits (pbytes f.head 24 8) 16 14)
  let id := cmdId f.q f.seq
  let d := dropOwn f d
  if f.prog ≠ 1 then d
  else if path = 0 ∧ node = myNode d then
    { d with fab := { d.fab with anns := d.fab.anns.filter fun a => !(a.src == node && a.id == id) } }
  else (sendMsg node (pkClass f.head) f.q opSendAnn path 0 (4 + id <<< 16) [] d).2

/-- The data of a RECV that matched [source, offered length, SEND, tag] reaches its end: the info record is written and the reply
decided (R327, R328). -/
def recvDone (f : Flight) (d : Dev) : Dev :=
  let r := f.req 2 (qTile f.q)
  let cap := bits (pbytes f.head 32 6) 0 32
  let info := bits (pbytes f.head 40 6) 0 48
  let len := f.mark.getD 1 0
  let rec' := bytesOf 4 (f.mark.getD 0 0 % 2 ^ 14) ++ bytesOf 4 (f.mark.getD 3 0) ++ bytesOf 4 len ++ bytesOf 4 0
  match writeErr d info 16 with
  | some e => finish f.q f.seq (errStatus e.2) 0 (Nat.min len cap) (logWriteErr e r d)
  | none =>
    let d := memWrite r info rec' d
    if cap < len then finish f.q f.seq 0x01 0x0001 cap d else finish f.q f.seq 0 0 len d

/-- Bytes of a SEND reach the RECV they are for. -/
def recvBytes (q seq a : Nat) (bs : List Byte) (d : Dev) : Dev :=
  match findFlight d q seq with
  | some f =>
    let r := f.req 2 (qTile f.q)
    if f.op = 0x56 ∧ f.waitingNow ∧ f.prog = 1 then
      match writeErr d a bs.length with
      | some e => finish q seq (errStatus e.2) 0 f.aux (logWriteErr e r d)
      | none =>
        let n := f.aux + bs.length
        let d := modFlight q seq (fun x => { x with aux := n }) (memWrite r a bs d)
        if n = Nat.min (f.mark.getD 1 0) (bits (pbytes f.head 32 6) 0 32) then recvDone { f with aux := n } d else d
    else d
  | none => d

/-- Data of a matched SEND flows while room lasts: `mark` holds [node, buffer, cap, receiving command]; `prog` is 3 and the bytes
sent. -/
def sendFlow (f : Flight) (d : Dev) : Dev :=
  let src := bits (pbytes f.head 16 8) 0 48
  let len := bits (pbytes f.head 32 6) 0 32
  let node := f.mark.getD 0 0
  let buf := f.mark.getD 1 0
  let cap := f.mark.getD 2 0
  let id := f.mark.getD 3 0
  let n := Nat.min len cap
  let ending (d : Dev) : Dev := if cap < len then finish f.q f.seq 0x01 0 cap d else finish f.q f.seq 0 0 len d
  if f.stop ≠ 0 then let o := stopped f (f.prog - 3); finish f.q f.seq o.1 o.2.1 o.2.2 d
  else if node = myNode d then
    let c := plainRead d src n (f.req 2 (qTile f.q))
    let d := if c.2.1.isEmpty then c.2.2 else recvBytes (id / 65536) (id % 65536) buf c.2.1 c.2.2
    match c.1 with
    | some e => finish f.q f.seq (errStatus e.2) 0 c.2.1.length (logErr e (f.req 2 (qTile f.q)) d)
    | none => ending d
  else
    let d := sendBytes f src node buf n 3 (8 + id <<< 16) 4096 d
    match findFlight d f.q f.seq with
    | some h => if h.waitingNow ∧ h.prog = n + 3 ∧ (n = 0 ∨ hasLeft d node h.aux) then ending d else d
    | none => d

/-- SEND (R327, R328): it announces itself and waits for its match. -/
def send (f : Flight) (d : Dev) : Dev :=
  let src := bits (pbytes f.head 16 8) 0 48
  let len := bits (pbytes f.head 32 6) 0 32
  if 3 ≤ f.prog then sendFlow f d
  else if f.stop ≠ 0 then finish f.q f.seq 0x02 (if f.stop = 2 then 0x0004 else 0x0001) 0 (withdraw f d)
  else if f.prog ≠ 0 then d
  else match badRange d false src len with
    | some (st, det) => finish f.q f.seq st det 0 d
    | none => announce f d

/-- SEND (R328). -/
def execSend (q seq : Nat) (s : State) : Out := onDev s (withFlight 0x55 q seq send)

/-- SEND_ANN_RETRY (R328): a refused announcement is sent again 10 µs later. -/
def sendAnnRetry (f : Flight) (d : Dev) : Dev := if f.prog = 2 then announce f (passMono f.aux d) else d

/-- SEND_ANN_RETRY (R328). -/
def execSendAnnRetry (q seq : Nat) (s : State) : Out := onDev s (withFlight 0x55 q seq sendAnnRetry)

/-- A SEND has been matched by a RECV. -/
def sendStart (q seq node buf cap id : Nat) (d : Dev) : Dev :=
  match findFlight d q seq with
  | some f =>
    if f.op = 0x55 ∧ f.waitingNow ∧ f.prog = 1 then
      let set (x : Flight) : Flight := { x with prog := 3, mark := [node, buf, cap, id] }
      sendFlow (set f) (modFlight q seq set (dropOwn f d))
    else d
  | none => d

/-- RECV (R328): it takes the oldest announcement for its queue and path whose tag matches. -/
def recv (f : Flight) (d : Dev) : Dev :=
  let path := pbytes f.head 10 1
  let rtag := pbytes f.head 12 4
  let mask := pbytes f.head 16 4
  let buf := bits (pbytes f.head 24 6) 0 48
  let cap := bits (pbytes f.head 32 6) 0 32
  let info := bits (pbytes f.head 40 6) 0 48
  if f.prog = 1 then d
  else match (match badRange d true buf cap with | some e => some e | none => badRange d true info 16) with
  | some (st, det) => finish f.q f.seq st det 0 d
  | none =>
    let hit (a : Ann) : Bool := a.queue == f.q && a.path == path && (a.mtag &&& mask) == (rtag &&& mask)
    match d.fab.anns.find? hit with
    | none => d
    | some a =>
      let mark := [a.src, a.len, a.id, a.mtag]
      let id := cmdId f.q f.seq
      let d := { d with fab := { d.fab with anns := dropFirst hit d.fab.anns } }
      let d := modFlight f.q f.seq (fun x => { x with prog := 1, aux := 0, mark := mark }) d
      let d := if Nat.min a.len cap = 0 then recvDone { f with prog := 1, mark := mark } d else d
      if a.src = myNode d then sendStart (a.id / 65536) (a.id % 65536) a.src buf cap id d
      else (sendMsg a.src (pkClass f.head) f.q opSendGo 0 buf (a.id <<< 16 + cap <<< 48 + id <<< 80) [] d).2

/-- RECV (R328). -/
def execRecv (q seq : Nat) (s : State) : Out := onDev s (withFlight 0x56 q seq recv)

/-- Take the oldest message from a node in the inbox that satisfies `f`. -/
def takeMsg (f : Nat × Msg → Bool) (d : Dev) : Option ((Nat × Msg) × Dev) :=
  (d.fab.inbox.find? f).map fun x => (x, { d with fab := { d.fab with inbox := dropFirst f d.fab.inbox } })

/-- SEND_ANNOUNCE (R328): listed, refused when the list is full, or withdrawn. -/
def sendAnnounce (src : Nat) (d : Dev) : Dev :=
  match takeMsg (fun x => x.1 == src && x.2.op == opSendAnn) d with
  | none => d
  | some ((_, m), d) =>
    let id := argId m
    if argFlag m 2 then { d with fab := { d.fab with anns := d.fab.anns.filter fun a => !(a.src == src && a.id == id) } }
    else
      let r := annAdd ⟨src, if isEncl src then src - encl 15 else 0, id, m.off % 65536, bits m.args 48 32, bits m.args 80 32⟩ d
      if r.1 then r.2 else sendAck src 2 0x03 0 m.dseq d

/-- SEND_ANNOUNCE (R328). -/
def execSendAnnounce (src : Nat) (s : State) : Out := onDev s (sendAnnounce src)

/-- The oldest SEND_GO for a command that waits here (R328). -/
def takeGo (q seq : Nat) (d : Dev) : Option ((Nat × Msg) × Dev) :=
  takeMsg (fun x => x.2.op == opSendGo && argId x.2 == cmdId q seq) d

/-! Messages at their destination (R306, R307, R315, R316). -/

/-- Why a request from another node is refused, with the line to log (R315, R316). -/
def homeTrouble (d : Dev) (wr : Bool) (a n : Nat) : Option Trouble :=
  if inTether d then some (0x06, myNode d, none)
  else match badRange d wr a n with
  | some (st, det) => if st = 0x06 then some (0x06, myNode d, none) else some (0x0E, if det = 0x0009 then 0x0009 else 0x0002, none)
  | none => match (if wr then writeErr d a n else readErr d a n) with
    | some e => some (errStatus e.2, myNode d, some (e, wr))
    | none => none

/-- Requester of a message at its home (R268, R316). -/
def homeReq : Req := reqOf 3 0xFF

/-- Answer a READ_REQ, or a RATOM that wants its old value (R305, R316). -/
def answer (src cls : Nat) (m : Msg) (status detail : Nat) (bs : List Byte) (d : Dev) : Dev :=
  (sendMsg src cls 0x20000 opReadResp 0 m.off (m.dseq <<< 16 + status <<< 48 + detail <<< 56) bs d).2

/-- Bytes of the word an atomic message updates. -/
def atomWidth (m : Msg) : Nat := if argFlag m 4 then 4 else 8

/-- The written bytes of an update: where they start and how many, its ZG64 header counting as part of it. -/
def updateSpan (m : Msg) : Nat × Nat := (m.off, if m.op = opRatom then atomWidth m else m.data.length)

/-- Whether an update must wait for a copy session (R279). -/
def updateHeld (d : Dev) (m : Msg) : Bool :=
  (m.op == opWrite || m.op == opRred || m.op == opRatom) && !isBell m.off && (badRange d true m.off (updateSpan m).2).isNone &&
    mustHold d m.off

/-- The replica region of a package lies from `rbase` on in its far tier, two generations of `rsize` (R391). -/
def replicaBase (d : Dev) (gen : Nat) : Nat := farBase + (rf d mTwinCfg 2 12 + gen * rf d mTwinCfg 14 12) * gib

/-- A write of the partner into the replica region shows that its session is in progress (R392). -/
def seeReplica (src a : Nat) (d : Dev) : Dev :=
  if src = myNode d ^^^ 1 ∧ replicaBase d 0 ≤ a ∧ a < replicaBase d 2 then setB d mTwinStat 51 true else d

/-- A 4 KiB block of an ingot has arrived for SHARD_LOAD or SHARD_VERIFY (R420). -/
def blockArrive (f : Flight) (idx : Nat) (bs : List Byte) (d : Dev) : Dev :=
  modFlight f.q f.seq (fun h =>
    { h with mark := insUp idx h.mark,
             buf := (bs.zipIdx).foldl (fun t (b, i) => tabSet memRest t (4096 * idx + i) b) h.buf }) d

/-- Apply a message whose turn has come (R305, R306). -/
def applyMsg (src cls : Nat) (m : Msg) (d : Dev) : Dev :=
  let refuse (e : Trouble) (d : Dev) : Dev := sendAck src 2 e.1 e.2.1 m.dseq (logTrouble e homeReq d)
  if m.op = opWrite then
    if argFlag m 3 then recvBytes (argId m / 65536) (argId m % 65536) m.off m.data d
    else if isBell m.off && !inTether d then
      if m.data.length = 8 ∧ m.off % 8 = 0 then doorbell (bellQueue m.off) (natOf m.data % 65536) d
      else refuse (0x0E, 0x0002, none) d
    else match homeTrouble d true m.off m.data.length with
      | some e => refuse e d
      | none => seeReplica src m.off (memWrite homeReq m.off m.data d)
  else if m.op = opRred then
    match homeTrouble d true m.off m.data.length with
    | some e => refuse e d
    | none =>
      if m.sub = 0xC then
        let j := bits m.args 64 16
        let blk := m.off - 64 - 8 * j
        match homeTrouble d true blk 2 with
        | some e => refuse e d
        | none => zgApply homeReq blk (bits m.args 48 8) (bits m.args 56 8) j m.data d
      else rredApply m.sub (argFlag m 2) homeReq 4096 m.off m.data d
  else if m.op = opRatom then
    let w := atomWidth m
    match homeTrouble d true m.off w with
    | some e => if argFlag m 1 then answer src cls m e.1 e.2.1 [] (logTrouble e homeReq d) else refuse e d
    | none =>
      let old := ld d m.off w
      let d := memWriteN homeReq m.off w (atomOpN w m.sub old (natOf (m.data.take 8)) (natOf ((m.data.drop 8).take 8)))
        (correctReads m.off w homeReq d)
      if argFlag m 1 then answer src cls m 0 0 (bytesOf w old) d else d
  else if m.op = opReadReq then
    let n := bits m.args 16 13
    if isBell m.off && !inTether d then answer src cls m 0 0 (bytesOf n 0) d
    else match homeTrouble d false m.off n with
      | some e => answer src cls m e.1 e.2.1 [] (logTrouble e homeReq d)
      | none => answer src cls m 0 0 (ldBytes d m.off n) (correctReads m.off n homeReq d)
  else if m.op = opReadResp then
    let id := argId m
    match d.fab.asks.find? (fun a => a.dst == src && a.dseq == id) with
    | none => d
    | some a =>
      let st := bits m.args 48 8
      if st ≠ 0 then refuseAsk a st (bits m.args 56 16) d
      else
        let d := { d with fab := { d.fab with asks := dropFirst (fun b => b == a) d.fab.asks } }
        match findFlight d a.q a.seq with
        | some f =>
          if !f.waitingNow then d
          else if f.op = 0x54 then ratomDone f (natOf m.data) d
          else
            let c := if f.op = 0x51 ∨ f.op = 0x71 ∨ f.op = 0x72 then ((m.data.drop (a.off % 64)).take a.len, d)
              else cacheFill (qTile f.q) src a.off a.len a.fill m.data d
            if f.op = 0x10 then copyArrive f a.idx c.1 c.2
            else if f.op = 0x11 then gatherArrive f a.idx c.1 c.2
            else if f.op = 0x51 then getArrive f a.idx c.1 c.2
            else if f.op = 0x71 ∨ f.op = 0x72 then blockArrive f a.idx c.1 c.2 else d
        | none =>
          if 65536 ≤ a.q ∧ a.q < 65568 then
            pendArrive (a.q - 65536) a.idx (some (natOf ((m.data.drop (if a.fill then 0 else a.off % 64)).take a.len))) d
          else d
  else { d with fab := { d.fab with inbox := d.fab.inbox ++ [(src, m)] } }

/-- An MCAST copy reaches a node (R325): it is sent on, and applied once where the node is a member. -/
def applyMcast (src cls : Nat) (m : Msg) (d : Dev) : Dev :=
  let base := bits m.args 16 14
  let span := bits m.args 32 14
  let seen := tabGet (fun _ => []) d.fab.mcin src
  let again := seen.contains m.dseq
  let d := if again then d else mcSpread src cls (bits m.args 48 14) m d
  let d := if again then d else
    { d with fab := { d.fab with mcin := tabSet (fun _ => []) d.fab.mcin src ((seen ++ [m.dseq]).drop (seen.length + 1 - 256)) } }
  if !mcMember base span (myNode d) then d
  else if again then sendAck src 1 0 0 m.dseq d
  else match homeTrouble d true m.off m.data.length with
    | some e => sendAck src 1 e.1 e.2.1 m.dseq (logTrouble e homeReq d)
    | none => sendAck src 1 0 0 m.dseq (memWrite homeReq m.off m.data d)

/-- A complete message from a node: applied in its turn, dropped as a duplicate, or dropped as too early (R306, R307). -/
def deliver (src cls : Nat) (m : Msg) (d : Dev) : Dev :=
  if m.op = opMcast then applyMcast src cls m d
  else
    let exp := (peerAt d src).rxNext
    if m.dseq = exp then
      let d := applyMsg src cls m (modPeer src (fun p => { p with rxNext := (exp + 1) % 2 ^ 32, got := p.got + 1, fresh := 0 }) d)
      if 32 ≤ (peerAt d src).got then sendAck src 0 0 0 0 d else d
    else sendAck src 0 0 0 0 d

/-! Messages merged at their home (R330). -/

/-- Whether a message is an RRED, or a RATOM without ret, that updates one 64-byte line. -/
def mergeable (m : Msg) : Bool :=
  (m.op == opRred || (m.op == opRatom && !argFlag m 1)) && 0 < (updateSpan m).2 &&
    lineOf m.off == lineOf (m.off + (updateSpan m).2 - 1)

/-- Whether the message `k` of flit `y` may be merged with the message `m` of flit `x`: of the same operation and format, to the
same line, waiting in the same input queue (port, class and layer), arrived within 64 cycles of each other. -/
def mergesWith (d : Dev) (x : FlitX) (m : Msg) (y : FlitX) (k : Msg) : Bool :=
  mergeable k && k.op == m.op && k.sub == m.sub && argFlag k 2 == argFlag m 2 && atomWidth k == atomWidth m &&
    lineOf k.off == lineOf m.off && y.port == x.port && y.cls == x.cls && y.layer == x.layer &&
    decide (y.came ≤ x.came + 64 ∧ x.came ≤ y.came + 64) && (homeTrouble d true k.off (updateSpan k).2).isNone && !updateHeld d k

/-- The messages, in queue order, that one update merges: of each source those whose turn it is, before anything of that source that
is not merged (R306, R330). -/
def mergeSet (d : Dev) (x : FlitX) (m : Msg) : List (FlitX × Msg) :=
  (d.fab.inq.foldl (fun (acc : List (FlitX × Msg) × Tab Nat × List Nat) y =>
    if y.dest ≠ myNode d ∨ ¬ (y.typ = 1 ∨ y.typ = 2) ∨ acc.2.2.contains y.src then acc
    else
      let k := headMsg y.body
      let exp := tabGet (fun s => (peerAt d s).rxNext) acc.2.1 y.src
      if y.typ = 1 ∧ k.1.data.length = k.2 ∧ k.1.dseq = exp ∧ !d.fab.lost.contains y.src ∧ mergesWith d x m y k.1 then
        (acc.1 ++ [(y, k.1)], tabSet (fun s => (peerAt d s).rxNext) acc.2.1 y.src ((exp + 1) % 2 ^ 32), acc.2.2)
      else (acc.1, acc.2.1, y.src :: acc.2.2)) ([], [], [])).1

/-- The elements of merged floating-point RREDs of format `fmt`: those of one element are summed in queue order before they are
added to memory; other messages give the same result merged as one after another. -/
def mergedElems (fmt : Nat) (ms : List Msg) : Tab Nat :=
  (ms.flatMap fun m => (upto (m.data.length / esz fmt)).map fun i =>
      (m.off + i * esz fmt, natOf ((m.data.drop (i * esz fmt)).take (esz fmt)))).foldl
    (fun t e => if t.any (fun x => x.1 == e.1) then t.map (fun x => if x.1 = e.1 then (x.1, rredAdd fmt false x.2 e.2) else x)
      else t ++ [e]) []

/-- A message that is merged leaves the queue and counts as received from its own source (R330). -/
def takeMerged (p : FlitX × Msg) (d : Dev) : Dev :=
  let d := modPeer p.1.src (fun r => { r with rxNext := (p.2.dseq + 1) % 2 ^ 32, got := r.got + 1, fresh := 0, part := none }) d
  { d with fab := { d.fab with inq := dropFirst (fun y => y == p.1) d.fab.inq } }

/-- One update for merged messages (R330): each is acknowledged to its own source; F_HOTLINE shows that the line of its last
event in this frame received merged messages. -/
def deliverMerged (x : FlitX) (m : Msg) (ps : List (FlitX × Msg)) (d : Dev) : Dev :=
  let line := lineOf m.off
  let d := ps.foldl (fun d p => takeMerged p d) d
  let d := { d with fab := { d.fab with merged := insUp line d.fab.merged } }
  let d := if d.fab.hot.contains line && rf d fHotLine 16 42 == line / 64 then setB d fHotLine 58 true else d
  let d := if m.op = opRred ∧ m.sub ≤ 1 then
      (mergedElems m.sub (ps.map fun p => p.2)).foldl (fun d e => rredApply m.sub false homeReq 1 e.1 (bytesOf (esz m.sub) e.2) d) d
    else ps.foldl (fun d p => applyMsg p.1.src x.cls p.2 d) d
  ps.foldl (fun d p => if 32 ≤ (peerAt d p.1.src).got then sendAck p.1.src 0 0 0 0 d else d) d

/-- The next message of a node is taken from the flits that wait here: whole messages that arrived as one HEAD or as a HEAD and
its DATA; anything else discards what was incomplete (R306). -/
def assemble (src : Nat) : Nat → Dev → Dev
  | 0, d => d
  | n + 1, d =>
    let is (x : FlitX) : Bool := x.src == src && x.dest == myNode d && (x.typ == 1 || x.typ == 2)
    match d.fab.inq.find? is with
    | none => d
    | some x =>
      let p := peerAt d src
      let got : Option (Msg × Nat) :=
        if x.typ = 1 then some (headMsg x.body)
        else match p.part with
          | some m => if m.dseq = flitDseq x then
              some ({ m with data := m.data ++ (x.body.drop 4).take (Nat.min 112 (p.want - m.data.length)) }, p.want) else none
          | none => none
      let next (d : Dev) : Dev := { d with fab := { d.fab with inq := dropFirst is d.fab.inq } }
      match got with
      | none => assemble src n (next (modPeer src (fun p => { p with part := none }) d))
      | some (m, len) =>
        if m.data.length = len then
          if m.op ≠ opMcast ∧ m.dseq = p.rxNext ∧ updateHeld d m then
            -- held until its granule is taken; counted once (R279, R282)
            if p.fresh = 1 then d
            else modPeer src (fun p => { p with fresh := 1 }) (note 36 0xFFFF 1 (addSat d (aCbwStat (m.off / stackSpan)) 38 16 1))
          else
            let ps := if x.typ = 1 ∧ mergeable m then mergeSet d x m else []
            if 2 ≤ ps.length ∧ ps.any (fun y => y.1 == x) then deliverMerged x m ps d
            else deliver src x.cls m (next (modPeer src (fun p => { p with part := none }) d))
        else assemble src n (next (modPeer src (fun p => { p with part := some m, want := len }) d))

/-- MESSAGE_RECEIVE (R306). A lost node's messages are not taken (R397). -/
def messageReceive (src : Nat) (d : Dev) : Dev :=
  if d.fab.lost.contains src || retraining d then d else assemble src (d.fab.inq.length + 1) d

/-- MESSAGE_RECEIVE (R306). -/
def execMessageReceive (src : Nat) (s : State) : Out := onDev s (messageReceive src)

/-! Packet checks of the remote operations (R320 to R327). -/

/-- Parameter bits the remote operations use. -/
def remoteUsed (p : Packet) : List (Nat × Nat) :=
  let op := pkOpcode p
  if op = 0x50 then [(80, 1), (128, 48), (192, 62), (256, 40)] ++ (if pbits p 10 0 1 = 1 then [(320, 62), fieldAt 48 8] else [])
  else if op = 0x51 then [(128, 62), (192, 48), (256, 40)]
  else if op = 0x52 then [fieldAt 10 1, (88, 1), fieldAt 12 4, (128, 48), (192, 62)]
  else if op = 0x53 then [(128, 48), (192, 48), (256, 14), (272, 14), (288, 40)]
  else if op = 0x54 then [fieldAt 10 1, (88, 1), (128, 62), fieldAt 24 8] ++ (if pbytes p 10 1 = 2 then [fieldAt 32 8] else []) ++
    (if pbits p 11 0 1 = 1 then [(320, 48)] else [])
  else if op = 0x55 then [fieldAt 10 1, fieldAt 12 4, (128, 48), (192, 30), (256, 32)]
  else if op = 0x56 then [fieldAt 10 1, fieldAt 12 4, fieldAt 16 4, (192, 48), (256, 32), (320, 48)]
  else []

/-- Whether a remote operation's parameters are in range and its addresses aligned (R321 to R327). -/
def remoteInRange (p : Packet) : Bool :=
  let op := pkOpcode p
  let len40 (b : Nat) : Bool := decide (1 ≤ bits (pbytes p b 6) 0 40)
  if op = 0x50 then
    len40 32 && (pbits p 10 0 1 == 0 || (pbytes p 40 8 % 8 == 0 && gNode (pbytes p 40 8) == gNode (pbytes p 24 8)))
  else if op = 0x51 then len40 32
  else if op = 0x52 then
    let f := pbytes p 10 1
    let n := pbytes p 12 4
    let al := if f = 0xC then 64 else esz f
    [0, 1, 8, 9, 0xC].contains f && decide (1 ≤ n ∧ n ≤ 2 ^ 28) && (f != 0xC || n % 256 == 0) && pbytes p 16 6 % al == 0 &&
      pbytes p 24 6 % al == 0
  else if op = 0x53 then len40 36
  else if op = 0x54 then
    decide (pbytes p 10 1 ≤ 9) && pbytes p 16 8 % 8 == 0 && (pbits p 11 0 1 == 0 || pbytes p 40 6 % 8 == 0)
  else if op = 0x55 then decide (pbytes p 10 1 ≤ 2) && decide (1 ≤ pbytes p 32 4)
  else if op = 0x56 then decide (pbytes p 10 1 ≤ 2)
  else true

end Sys2Proof.Machine
end

