-- ==== Sys2Proof/Machine/Coll.lean ====
section
/-!
DEFINITION. Machine/Coll.lean: groups, COLL, COLL_BATCH and COLL_REFORM, the port adders and the stage messages (R332 to R361).
-/
namespace Sys2Proof.Machine

/-! Groups, slots and ranks (R333, R334). -/

/-- An entry of F_GROUPTAB. -/
structure Grp where
  idx : Nat
  id : Nat
  valid : Bool
  epoch : Nat
  base : Nat
  span : Nat
  absent : List Nat
  mixed : Bool
  tm : Nat
  cseq : Nat
  deriving DecidableEq, Repr

def grpAt (d : Dev) (e : Nat) : Grp :=
  let w (k : Nat) : Nat := (rg d (fGroupTab e k)).toNat
  let ab := w 2 + (w 3) <<< 64
  ⟨e, bits (w 0) 0 12, bitAt (w 0) 15, bits (w 0) 16 16, bits (w 0) 32 14, bits (w 0) 48 14,
    (upto (bits (w 1) 0 8)).map (fun i => bits ab (16 * i) 16), bitAt (w 1) 8, bits (w 1) 32 32, bits (w 4) 0 32⟩

/-- The table entry of a group identifier. -/
def findGrp (d : Dev) (id : Nat) : Option Grp :=
  (findUp (fun e => (grpAt d e).valid && (grpAt d e).id == id) 64 0).map (grpAt d)

/-- Dimensions of a span, lowest first. -/
def spanDims (span : Nat) : List Nat := (upto 14).filter (bitAt span)
/-- Rank of a slot (R333). -/
def rankOf (span m : Nat) : Nat := ((spanDims span).zipIdx.map fun (k, j) => b2n (bitAt m k) <<< j).foldl (· + ·) 0
/-- Slot of a rank. -/
def slotOf (base span r : Nat) : Nat :=
  ((spanDims span).zipIdx.map fun (k, j) => b2n (bitAt r j) <<< k).foldl (· + ·) (base - (base &&& span))
def Grp.size (g : Grp) : Nat := 2 ^ popCount 14 g.span
def Grp.slots (g : Grp) : List Nat := (upto g.size).map (slotOf g.base g.span)
def Grp.live (g : Grp) (m : Nat) : Bool := mcMember g.base g.span m && !g.absent.contains m
def Grp.lives (g : Grp) : List Nat := g.slots.filter g.live
def Grp.rank (g : Grp) (m : Nat) : Nat := rankOf g.span m

/-- The nearest live slot, lowest node first among those at equal distance. -/
def Grp.nearest (g : Grp) (a : Nat) : Nat :=
  (g.lives.foldl (fun (b : Nat × Nat) m =>
    let h := popCount 14 (m ^^^ a)
    if h < b.1 ∨ (h = b.1 ∧ m < b.2) then (h, m) else b) (15, a)).2
/-- The package that acts for a slot: itself, or its proxy (R333). -/
def Grp.host (g : Grp) (v : Nat) : Nat :=
  if g.live v then v
  else match (spanDims g.span).find? (fun k => g.live (v ^^^ 2 ^ k)) with
    | some k => v ^^^ 2 ^ k
    | none => g.nearest v
/-- Slots this package acts for, its own first. -/
def Grp.mine (g : Grp) (me : Nat) : List Nat := me :: (g.absent.filter fun a => g.host a == me)

/-- Whether some live slot lies in the block of `v` under the levels of `dims`. -/
def Grp.blockLive (g : Grp) (v : Nat) (dims : List Nat) : Bool :=
  decide (g.absent.length < 2 ^ dims.length) ||
    (dims.foldl (fun l k => l ++ l.map (· ^^^ 2 ^ k)) [v]).any g.live

/-! What an instance computes (R338, R339, R361). -/

/-- One entry of a batch, or the command itself: formats, operation, parts, destination, and the units it takes. -/
structure CEnt where
  op : Nat
  sfmt : Nat
  dfmt : Nat
  rop : Nat
  gmode : Nat
  rotate : Bool
  rnd : Nat
  nparts : Nat
  afmt : Nat
  n : Nat
  parts : Nat
  dst : Nat
  gplane : Nat
  root : Nat
  ustart : Nat
  units : Nat
  deriving DecidableEq, Repr

/-- Elements of a unit (R339). -/
def unitElems (afmt : Nat) : Nat := if afmt = 1 then 16 else if afmt = 2 then 32 else 256
def unitBytes (afmt : Nat) : Nat := if afmt = 0xC then 2112 else 64

/-- The entry whose fields `f byte length` reads at the byte positions of a COLL head. -/
def entOf (f : Nat → Nat → Nat) (ustart : Nat) : CEnt :=
  let afmt := f 23 1 % 16
  let n := f 24 4
  ⟨f 10 1, f 11 1 % 16, f 11 1 / 16, f 12 1 % 4, bits (f 12 1) 2 1, bitAt (f 12 1) 3, bits (f 12 1) 4 3, f 21 1, afmt, n, f 28 6, f 34 6,
    f 40 6, f 46 2, ustart, cdiv n (unitElems afmt)⟩

/-- What an instance runs: its entries, units in all, units per slot and chunk, and the assay's sampling. -/
structure CDesc where
  batch : Bool
  ents : List CEnt
  total : Nat
  ck : Nat
  alog2 : Nat
  deriving DecidableEq, Repr

/-- Entries of a batch table, each after the units of those before it. -/
def entsFrom (d : Dev) (tab : Nat) : Nat → Nat → Nat → List CEnt
  | 0, _, _ => []
  | k + 1, i, u =>
    let e := entOf (fun a n => ld d (tab + 64 * i + a - 10) n) u
    e :: entsFrom d tab k (i + 1) (u + e.units)

/-- The instance of a flight in a group of `slots` slots. -/
def descOf (d : Dev) (f : Flight) (slots : Nat) : CDesc :=
  if f.op = 0x62 then
    let es := entsFrom d (pbytes f.head 28 6) (pbytes f.head 10 2) 0 0
    ⟨true, es, roundUp (es.foldl (fun n e => n + e.units) 0) slots, 16, pbytes f.head 13 1⟩
  else
    let e := entOf (pbytes f.head) 0
    ⟨false, [e], e.units, pbytes f.head 22 1, pbytes f.head 13 1⟩

def CDesc.op (x : CDesc) : Nat := match x.ents with | e :: _ => e.op | [] => 0
def CDesc.afmt (x : CDesc) : Nat := match x.ents with | e :: _ => e.afmt | [] => 0
def CDesc.first (x : CDesc) : CEnt := x.ents.headD (entOf (fun _ _ => 0) 0)
def CDesc.reduces (x : CDesc) : Bool := decide (x.op ≤ 1)
/-- Whether a sum depends on its order (R345). -/
def CDesc.floatSum (x : CDesc) : Bool := x.afmt != 0xC && x.ents.any fun e => e.rop == 0
/-- The entry a unit belongs to; none for padding. -/
def CDesc.ent (x : CDesc) (u : Nat) : Option CEnt := x.ents.find? fun e => decide (e.ustart ≤ u ∧ u < e.ustart + e.units)
/-- Chunks of the instance (R342). -/
def CDesc.chunks (x : CDesc) (slots : Nat) : Nat := cdiv x.total (x.ck * slots)

/-- Units of slice `s` in chunk `c` (R340, R342). -/
def CDesc.unitsOf (x : CDesc) (slots c s : Nat) : List Nat :=
  if x.op = 1 then
    let t := x.total / slots
    (upto (Nat.min x.ck (t - c * x.ck))).map fun i => s * t + c * x.ck + i
  else
    let u0 := c * x.ck * slots
    let k := Nat.min x.ck ((x.total - u0) / slots)
    (upto k).map fun i => u0 + s * k + i

/-- Slice a unit belongs to. -/
def CDesc.sliceOf (x : CDesc) (slots u : Nat) : Nat :=
  if x.op = 1 then u / (x.total / slots)
  else
    let c := u / (x.ck * slots)
    let k := Nat.min x.ck ((x.total - c * x.ck * slots) / slots)
    (u - c * x.ck * slots) / k

/-! Contributions (R345 to R348). -/

/-- Address of part `p`. -/
def CEnt.part (d : Dev) (e : CEnt) (p : Nat) : Nat := bits (ld d (e.parts + 8 * p) 8) 0 48
/-- Bytes of unit `u` in a part. -/
def CEnt.unitSpan (e : CEnt) (u : Nat) : Nat × Nat :=
  let k := (u - e.ustart) * unitElems e.afmt
  if e.sfmt = 0xC then ((u - e.ustart) * 2112, 2112) else (k * esz e.sfmt, Nat.min (unitElems e.afmt) (e.n - k) * esz e.sfmt)

/-- Combine two values of the arithmetic format under `rop` (R332). -/
def adder (afmt rop a b : Nat) : Nat :=
  let f := fmtF afmt
  let x := decodeF f a
  let y := decodeF f b
  (encodeX f 0 false (if rop = 0 then addN 0 x y else if rop = 1 then maxN x y else minN x y)).1

/-- Combine neighbours level by level (R345). -/
def treeUp (f : Nat → Nat → Nat) : List Nat → List Nat
  | a :: b :: t => f a b :: treeUp f t
  | l => l
def treeAll (f : Nat → Nat → Nat) : Nat → List Nat → Nat
  | 0, l => l.headD 0
  | n + 1, l => treeAll f n (treeUp f l)

/-- One part's element `k` of unit `u` as a finite number, infinity or NaN; ZG64 elements stand at their block's exponent. -/
def CEnt.elem (d : Dev) (e : CEnt) (p u k : Nat) : Num :=
  let a := e.part d p + (e.unitSpan u).1
  if e.sfmt = 0xC then
    let g := ld d a 1
    if g = 255 then .fin false 0 0
    else let x := sext 64 (ld d (a + 64 + 8 * k) 8); .fin (decide (x < 0)) x.natAbs ((g : Int) - 166)
  else if k * esz e.sfmt < (e.unitSpan u).2 then decodeF (fmtF e.sfmt) (ld d (a + k * esz e.sfmt) (esz e.sfmt)) else .fin false 0 0

/-- Exponent a unit's contributions ask for (R347): the largest biased exponent, or a ZG64 block's own. -/
def CEnt.expOf (d : Dev) (e : CEnt) (u : Nat) : Nat :=
  (upto e.nparts).foldl (fun m p =>
    if e.sfmt = 0xC then let g := ld d (e.part d p + (e.unitSpan u).1) 1; if g = 255 then m else Nat.max m g
    else (upto 256).foldl (fun m k => Nat.max m (biased32 (e.elem d p u k))) m) 0

/-- Header flags a part brings into unit `u` at exponent `g` (R121 to R123). -/
def CEnt.flagsOf (d : Dev) (e : CEnt) (p u g : Nat) : Nat :=
  if e.sfmt = 0xC then
    let a := e.part d p + (e.unitSpan u).1
    let b := ld d a 1
    if b = 255 then 4 else ld d (a + 1) 1 % 16 ||| (if g < b then 8 else 0)
  else (upto 256).foldl (fun h k => let x := e.elem d p u k; h ||| zgFlags x ||| (if g < biased32 x then 8 else 0)) 0

/-- This member's contribution to unit `u`, at exponent `g` in ZG64. -/
def CEnt.contrib (d : Dev) (e : CEnt) (u g : Nat) : List Byte :=
  if e.afmt = 0xC then
    let h := (upto e.nparts).foldl (fun h p => h ||| e.flagsOf d p u g) 0
    bytesOf 64 (g + 256 * h) ++ (upto 256).flatMap fun k =>
      bytesOf 8 (wrapBits 64 ((upto e.nparts).foldl (fun s p => s + zgInt g (e.elem d p u k)) 0))
  else
    let w := esz e.afmt
    (upto (unitElems e.afmt)).flatMap fun k =>
      bytesOf w (treeAll (adder e.afmt e.rop) 3 ((upto e.nparts).map fun p => (encodeF (fmtF e.afmt) 0 false (e.elem d p u k)).1))

/-- Contribution to a unit, zero for padding. -/
def CDesc.contrib (d : Dev) (x : CDesc) (u g : Nat) : List Byte :=
  match x.ent u with
  | some e => e.contrib d u g
  | none => if x.afmt = 0xC then bytesOf 64 g ++ bytesOf 2048 0 else bytesOf 64 0

/-- Port adder on one unit (R332): a NaN block adds its flag only; blocks of different G set ovf. -/
def addUnit (afmt rop : Nat) (a b : List Byte) : List Byte :=
  if afmt = 0xC then
    let ga := natOf (a.take 1)
    let gb := natOf (b.take 1)
    let h := natOf ((a.drop 1).take 1) ||| natOf ((b.drop 1).take 1)
    if gb = 255 then a.take 1 ++ bytesOf 63 (natOf ((a.drop 1).take 1) ||| 4) ++ a.drop 64
    else if ga = 255 then b.take 1 ++ bytesOf 63 (natOf ((b.drop 1).take 1) ||| 4) ++ b.drop 64
    else if ga ≠ gb then a.take 1 ++ bytesOf 63 (h ||| 8) ++ a.drop 64
    else a.take 1 ++ bytesOf 63 h ++ (upto 256).flatMap fun k =>
      bytesOf 8 ((natOf ((a.drop (64 + 8 * k)).take 8) + natOf ((b.drop (64 + 8 * k)).take 8)) % 2 ^ 64)
  else
    let w := esz afmt
    (upto (unitElems afmt)).flatMap fun k =>
      bytesOf w (adder afmt rop (natOf ((a.drop (w * k)).take w)) (natOf ((b.drop (w * k)).take w)))

/-- Port adder on the units of a slice. -/
def CDesc.addSlice (x : CDesc) : List Nat → List Byte → List Byte → List Byte
  | [], _, _ => []
  | u :: t, a, b =>
    let n := unitBytes x.afmt
    addUnit x.afmt ((x.ent u).map (·.rop) |>.getD 0) (a.take n) (b.take n) ++ x.addSlice t (a.drop n) (b.drop n)

/-- Write a reduced unit to dst, converted (R340): elements from `pos` units on; the elements written, and a failing write. -/
def CEnt.store (e : CEnt) (r : Req) (u pos : Nat) (bs : List Byte) (d : Dev) : Nat × Bool × Dev :=
  let k0 := (u - e.ustart) * unitElems e.afmt
  let cnt := Nat.min (unitElems e.afmt) (e.n - k0)
  let w := esz e.afmt
  let out := if e.dfmt = 0xC then bs else
    (upto cnt).flatMap fun k =>
      let x := if e.afmt = 0xC then
          zgNum (natOf (bs.take 1)) (natOf ((bs.drop 1).take 1)) (sext 64 (natOf ((bs.drop (64 + 8 * k)).take 8)))
        else decodeF (fmtF e.afmt) (natOf ((bs.drop (w * k)).take w))
      bytesOf (esz e.dfmt) (encodeF (fmtF e.dfmt) e.rnd false x).1
  let a := e.dst + (if e.dfmt = 0xC then pos * 2112 else pos * unitElems e.afmt * esz e.dfmt)
  match writeErr d a out.length with
  | some x => (0, true, logWriteErr x r d)
  | none => (cnt, false, memWrite r a out d)

/-! Stage messages (R353, R354). -/

/-- The collective engine as a requester (R268). -/
def collReq (q tag seq : Nat) : Req := ⟨q, tag, 10, 0xFF, seq⟩

/-- Residue of a message's data (R354): the elements of ZG64 data at byte `off` of its stream, or the sum of the bytes. -/
def residue (zg : Bool) (off : Nat) (bs : List Byte) : Nat :=
  if zg then
    (((upto (bs.length / 8)).map fun i =>
      if (off + 8 * i) % 2112 < 64 then 0 else (sext 64 (natOf ((bs.drop (8 * i)).take 8)) % 255).toNat).foldl (· + ·) 0) % 255
  else (bs.foldl (fun n b => n + b.toNat) 0) % 255

/-- Whether a message operation carries ZG64 data. -/
def zgOp (op afmt : Nat) : Bool := afmt == 0xC && (op == 0x10 || op == 0x11 || op == 0x13)

def mGrp (m : Msg) : Nat := bits m.args 0 12
def mEpoch (m : Msg) : Nat := bits m.args 16 16
def mCseq (m : Msg) : Nat := bits m.args 32 32
def mChunk (m : Msg) : Nat := bits m.args 64 24
def mLevel (m : Msg) : Nat := bits m.args 88 8
def mRes (m : Msg) : Nat := bits m.args 96 8
def mOpfmt (m : Msg) : Nat := bits m.args 104 8

/-- Whether a staged message belongs to an instance. -/
def Coll.owns (i : Coll) (m : Msg) : Bool := mGrp m == i.grp && mEpoch m == i.epoch && mCseq m == i.cseq

/-- Send data of a stage to the package that acts for slot `w`, in messages of 4,096 bytes; `v` is the slot it comes from. Data
for a slot of this package goes straight to its pool. -/
def stageSend (i : Coll) (cls op chunk level opfmt v node : Nat) : Nat → Nat → List Byte → Dev → Dev
  | 0, _, _, d => d
  | k + 1, at', bs, d =>
    if bs.isEmpty ∧ at' ≠ 0 then d
    else
      let part := bs.take 4096
      let zg := zgOp op (opfmt / 16)
      let args := i.grp + i.epoch <<< 16 + i.cseq <<< 32 + chunk <<< 64 + level <<< 88 + residue zg at' part <<< 96 + opfmt <<< 104
      let off := v <<< 32 + at'
      let d := if node = myNode d then
          { d with colls := { d.colls with rx := d.colls.rx ++ [(node, ⟨0, op, 0, off, args, part⟩)] } }
        else (sendMsg node cls 0x20000 op 0 off args part d).2
      stageSend i cls op chunk level opfmt v node k (at' + 4096) (bs.drop 4096) d

/-- Data received for one stage from slot `w`, in order. -/
def staged (d : Dev) (i : Coll) (op chunk level w : Nat) : List Byte :=
  (d.colls.rx.filter fun e => i.owns e.2 && e.2.op == op && mChunk e.2 == chunk && mLevel e.2 == level && e.2.off >>> 32 == w).flatMap
    fun e => e.2.data
/-- Drop the data of a stage from the pool. -/
def unstage (i : Coll) (op chunk level : Nat) (d : Dev) : Dev :=
  { d with colls := { d.colls with
      rx := d.colls.rx.filter fun e => !(i.owns e.2 && e.2.op == op && mChunk e.2 == chunk && mLevel e.2 == level) } }

/-! Instances (R351, R356). -/

def findColl (d : Dev) (q seq : Nat) : Option Coll := d.colls.insts.find? fun i => i.q == q && i.seq == seq
def setColl (i : Coll) (d : Dev) : Dev :=
  { d with colls := { d.colls with insts := updFirst (fun x => x.q == i.q && x.seq == i.seq) (fun _ => i) d.colls.insts } }

/-- Bytes the instances in flight hold of the pool (R343). -/
def collHeld (d : Dev) : Nat :=
  d.colls.insts.foldl (fun n i => match findFlight d i.q i.seq, findGrp d i.grp with
    | some f, some g =>
      let x := descOf d f g.size
      n + Nat.max 1 (x.ck * g.size * unitBytes x.afmt * (if x.alog2 = 0 then 2 else 4))
    | _, _ => n + 1) 0

/-- Remove an instance and what is staged for it. -/
def dropColl (i : Coll) (d : Dev) : Dev :=
  let d := { d with colls := { d.colls with insts := d.colls.insts.filter fun x => !(x.q == i.q && x.seq == i.seq),
                                            rx := d.colls.rx.filter fun e => !i.owns e.2 } }
  { d with collUse := collHeld d }

/-- An instance ends with a status. -/
def endColl (i : Coll) (status detail count : Nat) (d : Dev) : Dev := finish i.q i.seq status detail count (dropColl i d)

/-- Send a NOTICE to every other live member (R356). -/
def notice (i : Coll) (g : Grp) (cls status opfmt : Nat) (d : Dev) : Dev :=
  g.lives.foldl (fun d n =>
    if n = myNode d then d
    else (sendMsg n cls 0x20000 0x14 0 0 (i.grp + i.epoch <<< 16 + i.cseq <<< 32 + opfmt <<< 104)
      (bytesOf 2 status ++ bytesOf 2 (myNode d)) d).2) d

/-- Count of a failed instance (R358, R361). -/
def failCount (i : Coll) (f : Flight) : Nat := if f.op = 0x62 then 0 else i.count

/-- This member detects a failure: it is recorded, told to the members, and ends the instance (R356, R359). -/
def failColl (i : Coll) (f : Flight) (g : Grp) (opfmt status level detail : Nat) (d : Dev) : Dev :=
  let d := if rb d fCollErr 56 then d
    else setRegN d fCollErr (status + i.grp <<< 8 + level <<< 20 + i.cseq <<< 24 + 2 ^ 56)
  endColl i status detail (failCount i f) (notice i g (pkClass f.head) status opfmt d)

/-- What one move of an instance does. -/
inductive CStep where
  | wait
  | go (i : Coll) (d : Dev)
  | ended (d : Dev)

/-! Running (R341 to R350). -/

/-- Stage a dimension belongs to (R341). -/
def stageNo (k : Nat) : Nat := if k < 2 then 0 else if k < 7 then 1 else if k < 10 then 2 else 3
/-- Levels of a chunk in order: stage by stage, rotated within each (R341). -/
def levels (span : Nat) (rotate : Bool) (c : Nat) : List Nat :=
  (upto 4).flatMap fun s =>
    let ds := (spanDims span).filter fun k => stageNo k == s
    if rotate ∧ !ds.isEmpty then ds.drop (c % ds.length) ++ ds.take (c % ds.length) else ds

/-- Units of slice `s` an instance works on: of its chunk, or of its redo; the assay takes its sample (R350, R355). -/
def Coll.units (i : Coll) (x : CDesc) (slots s : Nat) : List Nat :=
  if i.inRedo then i.redo.filter fun u => x.sliceOf slots u == s
  else
    let us := x.unitsOf slots i.chunk s
    if i.phase = 2 ∨ i.phase = 3 then us.filter fun u => (u + 40503 * i.cseq) % 2 ^ x.alog2 == 0 else us
def Coll.allUnits (i : Coll) (x : CDesc) (slots : Nat) : List Nat := (upto slots).flatMap fun s => i.units x slots s

/-- Key of held data. -/
def heldKey (v s : Nat) : Nat := v * 2 ^ 14 + s
def Coll.get (i : Coll) (v s : Nat) : List Byte := tabGet (fun _ => []) i.held (heldKey v s)
def Coll.put (i : Coll) (v s : Nat) (bs : List Byte) : Coll := { i with held := tabSet (fun _ => []) i.held (heldKey v s) bs }

/-- Whether slice `s` stays with slot `v` over the levels `dims`; `flip`: at the other node of each pair. -/
def keeps (g : Grp) (dims : List Nat) (flip : Bool) (v s : Nat) : Bool :=
  dims.all fun k => bitAt s (rankOf g.span (2 ^ k)).log2 == (bitAt v k != flip)

/-- The levels of the current phase: the assay runs them backwards, or the same tree at the other nodes (R355). -/
def Coll.order (i : Coll) (g : Grp) (x : CDesc) : List Nat :=
  let o := levels g.span x.first.rotate i.chunk
  if (i.phase = 2 ∨ i.phase = 3) ∧ !x.floatSum then o.reverse else o
def Coll.flip (i : Coll) (x : CDesc) : Bool := (i.phase == 2 || i.phase == 3) && x.floatSum

/-- Message operation of a phase. -/
def phaseOp (p : Nat) : Nat := if p = 0 then 0x12 else if p = 1 then 0x10 else if p = 4 then 0x11 else if p = 5 then 0x16 else 0x13

/-- Slices slot `v` sends at a level of a phase, and those it takes from its partner. -/
def Coll.sends (i : Coll) (g : Grp) (x : CDesc) (k v : Nat) : List Nat :=
  let o := i.order g x
  let dim := o.getD k 0
  if i.phase = 0 then [0]
  else if i.phase = 4 then (upto g.size).filter (keeps g (o.take (k + 1)) false v)
  else (upto g.size).filter fun s => keeps g (o.take k) (i.flip x) v s && keeps g [dim] (i.flip x) (v ^^^ 2 ^ dim) s
def Coll.takes (i : Coll) (g : Grp) (x : CDesc) (k v : Nat) : List Nat :=
  let dim := (i.order g x).getD k 0
  i.sends g x k (v ^^^ 2 ^ dim)

/-- Data of slices, in order. -/
def Coll.gather (i : Coll) (v : Nat) (ss : List Nat) : List Byte := ss.flatMap (i.get v)
/-- Bytes of slices. -/
def Coll.sizeOf (i : Coll) (g : Grp) (x : CDesc) (ss : List Nat) : Nat :=
  if i.phase = 0 then (i.allUnits x g.size).length
  else ss.foldl (fun n s => n + (i.units x g.size s).length * unitBytes x.afmt) 0

/-- Merge arriving slices into a slot's data: added on the way down, taken on the way up. -/
def Coll.merge (i : Coll) (g : Grp) (x : CDesc) (v : Nat) (has : Bool) : List Nat → List Byte → Coll
  | [], _ => i
  | s :: t, bs =>
    let n := i.sizeOf g x [s]
    let b := bs.take n
    let mine := i.get v s
    let out := if i.phase = 4 ∨ !has then b
      else if i.phase = 0 then (mine.zip b).map fun (p, q) => if p.toNat < q.toNat then q else p
      else x.addSlice (i.units x g.size s) mine b
    (i.put v s out).merge g x v has t (bs.drop n)

/-- One level of a phase: send once, then take what has all arrived. -/
def Coll.level (i : Coll) (f : Flight) (g : Grp) (x : CDesc) (k : Nat) (next : Coll → Coll) (d : Dev) : CStep :=
  let me := myNode d
  let o := i.order g x
  let dim := o.getD k 0
  let lv := dim + (if i.phase = 2 then 32 else 0)
  let op := phaseOp i.phase
  let chunk := if i.inRedo then x.chunks g.size else i.chunk
  let opfmt := x.op + 16 * x.afmt
  let before := o.take k
  let live (v : Nat) : Bool := i.phase == 4 || g.blockLive v before
  let d := if i.sent then d else
    (g.mine me).foldl (fun d v =>
      if live v then stageSend i (pkClass f.head) op chunk lv opfmt v (g.host (v ^^^ 2 ^ dim)) 65536 0 (i.gather v (i.sends g x k v)) d
      else d) d
  let ready := (g.mine me).all fun v =>
    let w := v ^^^ 2 ^ dim
    !live w || decide (i.sizeOf g x (i.takes g x k v) ≤ (staged d i op chunk lv w).length)
  if ready then
    let j := (g.mine me).foldl (fun (j : Coll) v =>
      let w := v ^^^ 2 ^ dim
      if live w then j.merge g x v (live v) (i.takes g x k v) (staged d i op chunk lv w) else j) i
    .go (next { j with sent := false }) (unstage i op chunk lv d)
  else if i.sent then .wait
  else .go { i with sent := true } d

/-- First line of the parts or of gplane that cannot be read for the current units (R356). -/
def Coll.badRead (d : Dev) (i : Coll) (x : CDesc) (us : List Nat) : Option (Nat × Nat) :=
  us.findSome? fun u => match x.ent u with
    | none => none
    | some e =>
      match (upto e.nparts).findSome? (fun p => match readErr d (e.parts + 8 * p) 8 with
          | some y => some y
          | none => readErr d (e.part d p + (e.unitSpan u).1) (e.unitSpan u).2) with
      | some y => some y
      | none => if e.afmt = 0xC ∧ e.gmode = 1 ∧ !i.inRedo then readErr d (e.gplane + (u - e.ustart)) 1 else none

/-- Ranges of the parts and of gplane read for units (R265, R340). -/
def Coll.reads (d : Dev) (i : Coll) (x : CDesc) (us : List Nat) : List (Nat × Nat) :=
  us.flatMap fun u => match x.ent u with
    | none => []
    | some e =>
      ((upto e.nparts).flatMap fun p => [(e.parts + 8 * p, 8), (e.part d p + (e.unitSpan u).1, (e.unitSpan u).2)]) ++
        (if e.afmt = 0xC ∧ e.gmode = 1 ∧ !i.inRedo then [(e.gplane + (u - e.ustart), 1)] else [])

/-- Predicted exponent of a unit; none where the block is reduced in agreed mode (R347, R348, R350). -/
def Coll.predicted (d : Dev) (i : Coll) (x : CDesc) (u : Nat) : Option Nat :=
  match x.ent u with
  | some e =>
    if e.gmode = 1 ∧ !i.inRedo then let g := ld d (e.gplane + (u - e.ustart)) 1; if g = 255 then none else some g else none
  | none => some 0

/-- Load this member's contribution for the current units. -/
def Coll.load (d : Dev) (i : Coll) (g : Grp) (x : CDesc) : Coll :=
  (upto g.size).foldl (fun (j : Coll) s =>
    j.put (myNode d) s ((i.units x g.size s).flatMap fun u => x.contrib d u (tabGet (fun _ => 0) i.gs u))) { i with held := [] }

/-- Begin a chunk, or the redo: contributions are read and checked; blocks without a prediction ask for an exponent. -/
def Coll.begin' (i : Coll) (f : Flight) (g : Grp) (x : CDesc) (d : Dev) : CStep :=
  let us := i.allUnits x g.size
  let opfmt := x.op + 16 * x.afmt
  match i.badRead d x us with
  | some e => .ended (failColl i f g opfmt 0x05 0xF (myNode d) (logErr e (collReq f.q (pkTag f.head) f.seq) d))
  | none =>
    let d := correctSpans (i.reads d x us) (collReq f.q (pkTag f.head) f.seq) d
    let i := { i with gs := us.foldl (fun t u => tabSet (fun _ => 0) t u ((i.predicted d x u).getD 0)) i.gs }
    let asks := x.afmt == 0xC && us.any fun u => (i.predicted d x u).isNone
    if asks then
      .go ({ i with phase := 0, lvl := 0, sent := false, held := [] }.put (myNode d) 0
        (us.map fun u => if (i.predicted d x u).isNone then
          (match x.ent u with | some e => BitVec.ofNat 8 (e.expOf d u) | none => 0#8) else 0#8)) d
    else .go { i.load d g x with phase := 1, lvl := 0, sent := false } d

/-- The exponents of the agreed blocks are known at every member. -/
def Coll.agreed (i : Coll) (g : Grp) (x : CDesc) (d : Dev) : Coll :=
  let us := i.allUnits x g.size
  let es := i.get (myNode d) 0
  let i := { i with gs := us.zipIdx.foldl (fun t (u, k) =>
    if (i.predicted d x u).isNone then tabSet (fun _ => 0) t u (es.getD k 0#8).toNat else t) i.gs }
  { i.load d g x with phase := 1, lvl := 0, sent := false }

/-- Slices this member stores for REDUCE_SCATTER: its own, then those of the slots it acts for (R340). -/
def ownSlices (g : Grp) (me : Nat) : List Nat :=
  g.rank me :: ((g.mine me).drop 1).map g.rank

/-- Store the units of slices, skipping blocks to be redone. -/
def Coll.storeSlices (i : Coll) (f : Flight) (g : Grp) (x : CDesc) (ss : List Nat) (d : Dev) : Coll × Dev :=
  let r := collReq f.q (pkTag f.head) f.seq
  let n := unitBytes x.afmt
  let me := myNode d
  let t := x.total / g.size
  ss.zipIdx.foldl (fun (acc : Coll × Dev) (s, k) =>
    let v := if x.op = 1 then slotOf g.base g.span s else me
    (i.units x g.size s).zipIdx.foldl (fun (acc : Coll × Dev) (u, j) =>
      let bs := ((i.get v s).drop (n * j)).take n
      let ovf := x.afmt == 0xC && bitAt (natOf ((bs.drop 1).take 1)) 3
      match (if ovf then none else x.ent u) with
      | none => acc
      | some e =>
        let pos := if x.op = 1 then k * t + (u - s * t) else u - e.ustart
        let y := e.store r u pos bs acc.2
        ({ acc.1 with count := acc.1.count + y.1, werr := acc.1.werr || y.2.1 }, y.2.2)) acc) (i, d)

/-- Blocks of a slot's own slice whose header has ovf (R349). -/
def Coll.ovfOf (i : Coll) (g : Grp) (x : CDesc) (v : Nat) : List Nat :=
  let s := g.rank v
  (i.units x g.size s).zipIdx.filterMap fun (u, j) =>
    if x.afmt == 0xC && bitAt (natOf (((i.get v s).drop (2112 * j + 1)).take 1)) 3 then some u else none

/-- A chunk is complete here: results are stored, and the next chunk, the closing exchange or the end follows. -/
def Coll.chunkDone (i : Coll) (f : Flight) (g : Grp) (x : CDesc) (d : Dev) : CStep :=
  let me := myNode d
  let y := i.storeSlices f g x (if x.op = 1 then ownSlices g me else upto g.size) d
  let j := { y.1 with held := [], lvl := 0, sent := false }
  if i.inRedo then .go { j with phase := 6 } y.2
  else if i.chunk + 1 < x.chunks g.size then .go { j with phase := 7, chunk := i.chunk + 1 } y.2
  else .go { j with phase := 5 } y.2

/-- The slices of this member are reduced: those with ovf are noted, and the assay, the results or the end of the chunk follow. -/
def Coll.reduced (i : Coll) (g : Grp) (x : CDesc) (d : Dev) : Coll :=
  let i := if i.inRedo then i else { i with redo := i.redo ++ (g.mine (myNode d)).flatMap (i.ovfOf g x) }
  let smp := !i.inRedo && decide (x.alog2 ≠ 0) &&
    !((({ i with phase := 2 } : Coll).allUnits x g.size).isEmpty)
  { i with phase := if smp then 8 else 4, lvl := 0, sent := false }

/-- Data of the path not at work is kept under keys shifted by 2^28. -/
def Coll.toAssay (i : Coll) : Coll :=
  let moved := i.held.map fun e => (if e.1 < 2 ^ 28 then (e.1 + 2 ^ 28, e.2) else (e.1 - 2 ^ 28, e.2))
  { i with held := moved.foldl (fun t e => tabSet (fun _ => []) t e.1 e.2) [] }

/-- The assay begins: this member's contributions to the sampled blocks (R355). -/
def Coll.assayStart (i : Coll) (g : Grp) (x : CDesc) (d : Dev) : Coll :=
  let i := { i.toAssay with phase := 2, lvl := 0, sent := false }
  (upto g.size).foldl (fun (j : Coll) s =>
    j.put (myNode d) s ((i.units x g.size s).flatMap fun u => x.contrib d u (tabGet (fun _ => 0) i.gs u))) i

/-- The slice slot `v` ends with on the assay path, and the slot that owns it. -/
def assaySlice (g : Grp) (flip : Bool) (v : Nat) : Nat := if flip then (g.size - 1) ^^^ g.rank v else g.rank v

/-- The assay's results go to the owners of their slices, which compare them with their own (R355). -/
def Coll.assayOut (i : Coll) (f : Flight) (g : Grp) (x : CDesc) (d : Dev) : CStep :=
  let me := myNode d
  let chunk := i.chunk
  let opfmt := x.op + 16 * x.afmt
  let lv := 0x2F
  let d := if i.sent then d else
    (g.mine me).foldl (fun d v =>
      let s := assaySlice g (i.flip x) v
      stageSend i (pkClass f.head) 0x13 chunk lv opfmt v (g.host (slotOf g.base g.span s)) 65536 0 (i.get v s) d) d
  let from' (v : Nat) : Nat := slotOf g.base g.span (assaySlice g (i.flip x) v)
  let need (v : Nat) : Nat := (i.units x g.size (g.rank v)).length * unitBytes x.afmt
  if (g.mine me).all fun v => decide (need v ≤ (staged d i 0x13 chunk lv (from' v)).length) then
    let p := i.toAssay
    let n := unitBytes x.afmt
    let same := (g.mine me).all fun v =>
      let s := g.rank v
      let all := ({ i with phase := 1 } : Coll).units x g.size s
      let mine := all.zipIdx.flatMap fun (u, j) =>
        if (i.units x g.size s).contains u then ((p.get v s).drop (n * j)).take n else []
      mine == staged d i 0x13 chunk lv (from' v)
    if same then
      .go { p with phase := 4, lvl := 0, sent := false, held := p.held.filter fun e => decide (e.1 < 2 ^ 28) } (unstage i 0x13 chunk lv d)
    else .ended (failColl i f g opfmt 0x09 0xF (myNode d) d)
  else if i.sent then .wait
  else .go { i with sent := true } d

/-- Data of a closing message: the blocks with ovf, and for REDUCE_SCATTER the exponents of the slice. -/
def Coll.closeData (i : Coll) (g : Grp) (x : CDesc) (v : Nat) : List Byte :=
  if !x.reduces ∨ x.afmt ≠ 0xC then []
  else
    let t := x.total / g.size
    let own := i.redo.filter fun u => x.sliceOf g.size u == g.rank v
    bytesOf 4 own.length ++ own.flatMap (bytesOf 4) ++
      (if x.op = 1 then (upto t).flatMap fun k => bytesOf 1 (tabGet (fun _ => 0) i.gs (g.rank v * t + k)) else [])

/-- The blocks a closing message names. -/
def closeBlocks (bs : List Byte) : List Nat := (upto (natOf (bs.take 4))).map fun k => natOf ((bs.drop (4 + 4 * k)).take 4)

/-- The closing exchange among the live slots (R349): afterwards the listed blocks are redone. -/
def Coll.close (i : Coll) (f : Flight) (g : Grp) (x : CDesc) (d : Dev) : CStep :=
  let me := myNode d
  let opfmt := x.op + 16 * x.afmt
  let d := if i.sent then d else
    g.lives.foldl (fun d n => (g.mine me).foldl (fun d v =>
      stageSend i (pkClass f.head) 0x16 0 0xF opfmt v n 65536 0 (i.closeData g x v) d) d) d
  let came (w : Nat) : Bool :=
    let bs := staged d i 0x16 0 0xF w
    let has := d.colls.rx.any fun e => i.owns e.2 && e.2.op == 0x16 && e.2.off >>> 32 == w
    has && (!x.reduces || decide (x.afmt ≠ 0xC) ||
      decide (4 + 4 * natOf (bs.take 4) + (if x.op = 1 then x.total / g.size else 0) ≤ bs.length))
  if g.slots.all came then
    let lists := g.slots.map fun w => (w, staged d i 0x16 0 0xF w)
    let all := if x.reduces ∧ x.afmt = 0xC then (lists.flatMap fun e => closeBlocks e.2).foldl (fun l u => insUp u l) [] else []
    let gs := if x.op = 1 ∧ x.afmt = 0xC then
        let t := x.total / g.size
        lists.foldl (fun gs e => (upto t).foldl (fun gs k =>
          tabSet (fun _ => 0) gs (g.rank e.1 * t + k) (e.2.getD (4 + 4 * natOf (e.2.take 4) + k) 0#8).toNat) gs) i.gs
      else i.gs
    let j := { i with redo := all, gs := gs, sent := false, closed := g.slots }
    .go { j with phase := if all.isEmpty then 6 else 7, inRedo := !all.isEmpty } (unstage i 0x16 0 0xF d)
  else if i.sent then .wait
  else .go { i with sent := true } d

/-- The instance is complete: the final exponents are written to gplane and the reply is decided (R340, R348). -/
def Coll.end' (i : Coll) (f : Flight) (x : CDesc) (d : Dev) : Dev :=
  let r := collReq f.q (pkTag f.head) f.seq
  let e := x.first
  let w : Bool × Dev :=
    if x.reduces ∧ x.afmt = 0xC ∧ !x.batch then
      (upto x.total).foldl (fun (acc : Bool × Dev) u =>
        match writeErr acc.2 (e.gplane + u) 1 with
        | some y => (true, logWriteErr y r acc.2)
        | none => (acc.1, memWriteN r (e.gplane + u) 1 (tabGet (fun _ => 0) i.gs u) acc.2)) (i.werr, d)
    else (i.werr, d)
  if w.1 then endColl i 0x05 0 (failCount i f) w.2
  else
    endColl i 0 (if x.reduces ∧ x.afmt = 0xC then satTo 0xFFFF i.redo.length else 0)
      (if x.batch then x.ents.length else i.count) w.2

/-- Movement of ALLGATHER and BROADCAST, chunk by chunk (R340): each source sends its data to every live member. -/
def Coll.move (i : Coll) (f : Flight) (g : Grp) (x : CDesc) (d : Dev) : CStep :=
  let me := myNode d
  let e := x.first
  let r := collReq f.q (pkTag f.head) f.seq
  let bytes := rowBytes e.sfmt e.n
  let size := x.ck * g.size * 64
  let at' := i.chunk * size
  let n := Nat.min size (bytes - at')
  let opfmt := x.op + 16 * x.afmt
  let srcs := if x.op = 2 then g.lives else [slotOf g.base g.span e.root]
  let mine := srcs.contains me
  match (if mine && !i.sent then
      (match readErr d e.parts 8 with | some y => some y | none => readErr d (e.part d 0 + at') n) else none) with
  | some y => .ended (failColl i f g opfmt 0x05 0xF (myNode d) (logErr y r d))
  | none =>
    let d := if i.sent ∨ !mine then d else
      let d := correctSpans [(e.parts, 8), (e.part d 0 + at', n)] r d
      g.lives.foldl (fun d w => stageSend i (pkClass f.head) 0x11 i.chunk 0xF opfmt me w 65536 0 (ldBytes d (e.part d 0 + at') n) d) d
    if srcs.all fun s => decide (n ≤ (staged d i 0x11 i.chunk 0xF s).length) then
      let y := srcs.foldl (fun (acc : Coll × Dev) s =>
        let a := e.dst + (if x.op = 2 then g.rank s * bytes else 0) + at'
        match writeErr acc.2 a n with
        | some w => ({ acc.1 with werr := true }, logWriteErr w r acc.2)
        | none => ({ acc.1 with count := acc.1.count + n * e.n / Nat.max 1 bytes }, memWrite r a (staged d i 0x11 i.chunk 0xF s) acc.2)) (i, d)
      let d := unstage i 0x11 i.chunk 0xF y.2
      if at' + n < bytes then .go { y.1 with chunk := i.chunk + 1, sent := false } d
      else .go { y.1 with phase := 5, sent := false } d
    else if i.sent then .wait
    else .go { i with sent := true } d

/-- One move of an instance. -/
def Coll.step (i : Coll) (f : Flight) (g : Grp) (d : Dev) : CStep :=
  let x := descOf d f g.size
  let opfmt := x.op + 16 * x.afmt
  let s := popCount 14 g.span
  match d.colls.rx.find? (fun e => i.owns e.2 && e.2.op == 0x14) with
  | some e => .ended (endColl i (natOf (e.2.data.take 1)) (natOf ((e.2.data.drop 2).take 2)) (failCount i f) d)
  | none =>
  match d.colls.rx.find? (fun e => i.owns e.2 && mOpfmt e.2 != opfmt) with
  | some e => .ended (failColl i f g opfmt 0x0B (mLevel e.2 % 16) 0x0002 d)
  | none =>
  match d.colls.rx.find? (fun e => i.owns e.2 && mRes e.2 != residue (zgOp e.2.op x.afmt) (e.2.off % 2 ^ 32) e.2.data) with
  | some e => .ended (failColl i f g opfmt 0x0A (mLevel e.2 % 16) (myNode d) d)
  | none =>
    if i.phase = 5 then i.close f g x d
    else if i.phase = 6 then .ended (i.end' f x d)
    else if !x.reduces then i.move f g x d
    else if i.phase = 7 then i.begin' f g x d
    else if i.phase = 0 then
      if i.lvl < s then i.level f g x i.lvl (fun j => { j with lvl := j.lvl + 1 }) d else .go (i.agreed g x d) d
    else if i.phase = 1 then
      if i.lvl < s then i.level f g x i.lvl (fun j => { j with lvl := j.lvl + 1 }) d else .go (i.reduced g x d) d
    else if i.phase = 8 then .go (i.assayStart g x d) d
    else if i.phase = 2 then
      if i.lvl < s then i.level f g x i.lvl (fun j => { j with lvl := j.lvl + 1 }) d else .go { i with phase := 3, sent := false } d
    else if i.phase = 3 then i.assayOut f g x d
    else if x.op = 1 ∨ s ≤ i.lvl then i.chunkDone f g x d
    else i.level f g x (s - 1 - i.lvl) (fun j => { j with lvl := j.lvl + 1 }) d

/-- An instance moves as far as it can. -/
def collRun (q seq : Nat) : Nat → Dev → Dev
  | 0, d => d
  | n + 1, d =>
    match findColl d q seq, findFlight d q seq with
    | some i, some f =>
      match findGrp d i.grp with
      | some g => match i.step f g d with
        | .wait => d
        | .go j d => collRun q seq n (setColl j d)
        | .ended d => d
      | none => d
    | _, _ => d

/-- Moves an instance can make at most. -/
def collFuel (d : Dev) (f : Flight) (g : Grp) : Nat := ((descOf d f g.size).chunks g.size + 2) * 200 + 100

/-! Accepting a collective (R337, R339, R343, R351, R369). -/

/-- Whether `[a, a+n)` is in the stacks or tile stores by its address, 64-byte aligned (R339). -/
def collPlace (a n : Nat) : Bool :=
  a % 64 == 0 && (decide (a + n ≤ 8 * stackSpan) || (decide (tileBase ≤ a) && decide (a + n ≤ fBuf)))

/-- Bytes of an entry's result. -/
def CEnt.dstBytes (e : CEnt) (g : Grp) (me : Nat) : Nat :=
  let all := rowBytes e.dfmt e.n
  if e.op = 1 then all / g.size * (ownSlices g me).length
  else if e.op = 2 then all * g.size else all

/-- Whether an entry's formats and operation go together (R339). -/
def CEnt.fmtOk (e : CEnt) : Bool :=
  if e.op ≤ 1 then
    [1, 2, 0xC].contains e.sfmt && [1, 2, 0xC].contains e.afmt &&
      (e.sfmt == e.afmt || (e.sfmt == 2 && e.afmt == 1) || (e.afmt == 0xC && e.sfmt != 0xC)) &&
      (e.dfmt == e.afmt || (e.dfmt == 0 && e.afmt == 1) || (e.dfmt == 1 && e.afmt == 2) ||
        (e.afmt == 0xC && decide (e.dfmt ≤ 2))) &&
      (e.rop == 0 || e.afmt != 0xC) && decide (e.rnd ≤ 4) && decide (1 ≤ e.nparts ∧ e.nparts ≤ 8) &&
      !(e.rotate && e.rop == 0 && e.afmt != 0xC) && decide (1 ≤ e.n)
  else if e.op = 4 then e.nparts == 0 && e.n == 0
  else e.sfmt == e.dfmt && e.sfmt != 5 && decide (e.sfmt ≤ 0xC) && e.nparts == 1 && decide (1 ≤ e.n)

/-- Whether an entry fits its group and its operands lie where they must. -/
def CEnt.placeOk (d : Dev) (e : CEnt) (g : Grp) (batch : Bool) : Bool :=
  let me := myNode d
  if e.op = 4 then true
  else
    let src := rowBytes e.sfmt e.n
    let dn := e.dstBytes g me
    let spans := (upto e.nparts).map fun p => e.part d p
    let same := fun p => decide (p = 0) && spans.getD 0 0 == e.dst && e.sfmt == e.dfmt && (e.afmt != 0xC || e.gmode == 0)
    let unit := if e.op ≤ 1 then unitElems e.afmt * (if batch then 1 else g.size)
      else if e.op = 2 then g.size else 1
    (e.op != 3 || g.live (slotOf g.base g.span e.root)) &&
      (batch || (if e.op ≤ 1 then e.n % unit == 0 else rowBytes e.sfmt e.n % (64 * unit) == 0)) &&
      (e.sfmt != 0xC || e.n % 256 == 0) && (e.dfmt != 0xC || e.n % 256 == 0) &&
      spans.all (fun a => collPlace a src) && collPlace e.dst dn &&
      (spans.zipIdx.all fun (a, p) => !overlap a src e.dst dn || same p) &&
      (batch || e.op != 0 && e.op != 1 || e.afmt != 0xC ||
        (collPlace e.gplane (e.n / 256) && !overlap e.gplane (e.n / 256) e.dst dn))

/-- Operand ranges of an entry outside its parts table, with whether they are written. -/
def CEnt.ranges (d : Dev) (e : CEnt) (g : Grp) (batch : Bool) : List (Nat × Nat × Bool) :=
  if e.op = 4 then []
  else ((upto e.nparts).map fun p => (e.part d p, rowBytes e.sfmt e.n, false)) ++ [(e.dst, e.dstBytes g (myNode d), true)] ++
    (if e.op ≤ 1 ∧ e.afmt = 0xC ∧ !batch then [(e.gplane, e.n / 256, true)] else [])

/-- Groups active at this package (R351). -/
def activeGroups (d : Dev) : List Nat :=
  let a := d.colls.insts.foldl (fun l i => insUp i.grp l) []
  d.flights.foldl (fun l f => if f.op == 0x61 && f.waitingNow && f.prog == 1 then insUp (pbytes f.head 12 2 % 4096) l else l) a

/-- Whether a REFORM of a group is in flight here. -/
def reforming (d : Dev) (grp : Nat) : Bool :=
  d.flights.any fun f => f.op == 0x61 && f.waitingNow && f.prog == 1 && pbytes f.head 10 1 == 1 && pbytes f.head 12 2 % 4096 == grp

/-- The absolute deadline frame of a collective, where it has one (R357). -/
def collDl (d : Dev) (f : Flight) : Option Nat :=
  if pbits f.head 20 0 1 = 1 then some ((frameNum d : Int) + frameDist d (pbytes f.head 18 2)).toNat else none

/-- The fabric unit accepts an instance: it takes the group's next number (R351, R369). -/
def collTake (f : Flight) (g : Grp) (d : Dev) : Dev :=
  let x := descOf d f g.size
  let i : Coll := ⟨f.q, f.seq, g.id, g.epoch, g.cseq, if x.op = 4 then 5 else 7, 0, 0, false, [], [], [], false, 0, false, [], collDl d f⟩
  let d := setF d (fGroupTab g.idx 4) 0 32 (g.cseq + 1)
  let d := { d with colls := { d.colls with insts := d.colls.insts ++ [i] } }
  let d := { d with collUse := collHeld d }
  if !g.mixed ∧ (rg d mTouchmark).toNat ≠ g.tm then failColl i f g (x.op + 16 * x.afmt) 0x0F 0xF (myNode d) d
  else collRun f.q f.seq (collFuel d f g) d

/-- COLL and COLL_BATCH (R337 to R361): accepted once, then moved on as messages arrive. -/
def coll (f : Flight) (d : Dev) : Dev :=
  let id := pbytes f.head 14 2 % 4096
  let ep := pbytes f.head 16 2
  let bad := finish f.q f.seq 0x0D 0x0006 0 d
  match findColl d f.q f.seq, findGrp d id with
  | some _, some g => collRun f.q f.seq (collFuel d f g) d
  | some _, none => d
  | none, none => finish f.q f.seq 0x0B 0x0003 0 d
  | none, some g =>
    if ep ≠ g.epoch then
      if ep = g.epoch + 1 ∧ reforming d id then modFlight f.q f.seq (fun x => { x with prog := 7 }) d
      else finish f.q f.seq 0x0B (if f.prog = 7 then 0x0002 else 0x0001) 0 d
    else if d.colls.ended.contains (id, ep) then finish f.q f.seq 0x0B 0x0001 0 d
    else
      let tab := pbytes f.head 28 6
      let len := if f.op = 0x62 then 64 * pbytes f.head 10 2 else 8 * pbytes f.head 21 1
      match badRange d false tab len with
      | some (st, det) => finish f.q f.seq st det 0 d
      | none => match readErr d tab len with
        | some e => finish f.q f.seq (errStatus e.2) 0 0 (logErr e (collReq f.q (pkTag f.head) f.seq) d)
        | none =>
          let d := correctReads tab len (collReq f.q (pkTag f.head) f.seq) d
          let x := descOf d f g.size
          let chunk := x.ck * g.size * (if x.reduces then unitBytes x.afmt else 64)
          let batchOk := !x.batch || x.ents.all fun e => e.op == 0 && e.afmt == x.afmt && e.gmode == 0 &&
            (match badRange d false e.parts (8 * e.nparts) with | some _ => false | none => true)
          if !x.ents.all CEnt.fmtOk || !batchOk || decide (8 * mib < chunk) || !x.ents.all (fun e => e.placeOk d g x.batch) then bad
          else match (x.ents.flatMap fun e => e.ranges d g x.batch).findSome?
              (fun (a, n, w) => badRange { d with collUse := 0 } w a n) with
            | some (st, det) => finish f.q f.seq st det 0 d
            | none =>
              let room := collHeld d + chunk * (if x.alog2 = 0 then 2 else 4) ≤ poolBytes d ∨ d.colls.insts.isEmpty
              let act := activeGroups d
              if room ∧ (act.contains id ∨ act.length < 16) then collTake f g d else d

/-- COLL (R340). -/
def execColl (q seq : Nat) (s : State) : Out := onDev s (withFlight 0x60 q seq coll)
/-- COLL_BATCH (R361). -/
def execCollBatch (q seq : Nat) (s : State) : Out := onDev s (withFlight 0x62 q seq coll)

/-! Messages (R353, R356, R357). -/

/-- Bytes staged for instances not yet issued. -/
def stagedBytes (d : Dev) : Nat := d.colls.rx.foldl (fun n e => n + e.2.data.length) 0

/-- Put a message into the pool and move its instance. -/
def stageIn (src : Nat) (m : Msg) (d : Dev) : Dev :=
  match findGrp d (mGrp m) with
  | none => d
  | some g =>
    let inst := d.colls.insts.find? fun i => i.owns m
    -- messages of instances that have ended are dropped
    if inst.isNone ∧ (mEpoch m < g.epoch ∨ (mEpoch m = g.epoch ∧ mCseq m < g.cseq)) then d
    else
      let d := { d with colls := { d.colls with rx := d.colls.rx ++ [(src, m)] } }
      match inst with
      | some i => match findFlight d i.q i.seq with
        | some f => collRun i.q i.seq (collFuel d f g) d
        | none => d
      | none => d

/-- COLL_STAGE_MESSAGE (R353): taken from its arrival buffer into the pool, where the pool has room. -/
def collStageMessage (src : Nat) (d : Dev) : Dev :=
  match takeMsg (fun x => x.1 == src && (x.2.op == 0x10 || x.2.op == 0x11 || x.2.op == 0x12 || x.2.op == 0x13 || x.2.op == 0x16)) d with
  | none => d
  | some ((_, m), d') => if poolBytes d < stagedBytes d + m.data.length then d else stageIn src m d'

/-- COLL_STAGE_MESSAGE (R353). -/
def execCollStageMessage (src : Nat) (s : State) : Out := onDev s (collStageMessage src)

/-- COLL_NOTICE (R356). -/
def collNotice (src : Nat) (d : Dev) : Dev :=
  match takeMsg (fun x => x.1 == src && x.2.op == 0x14) d with
  | none => d
  | some ((_, m), d) => stageIn src m d

/-- COLL_NOTICE (R356). -/
def execCollNotice (src : Nat) (s : State) : Out := onDev s (collNotice src)

/-- COLL_DEADLINE (R357): past its deadline tick, a member that still waits for a reduce-phase message is late. -/
def collDeadline (grp cseq : Nat) (d : Dev) : Dev :=
  match d.colls.insts.find? (fun i => i.grp == grp && i.cseq == cseq) with
  | none => d
  | some i => match i.dl, findFlight d i.q i.seq, findGrp d grp with
    | some dl, some f, some g =>
      let x := descOf d f g.size
      let past := decide (dl ≤ frameNum d) && d.clk.mode != .waiting
      let final := i.phase == 5 || i.phase == 6 || (i.phase == 4 && (i.inRedo || decide (x.chunks g.size ≤ i.chunk + 1)))
      if past && !final then failColl i f g (x.op + 16 * x.afmt) 0x0C ((i.order g x).getD i.lvl 0xF) (myNode d) d else d
    | _, _, _ => d

/-- COLL_DEADLINE (R357). -/
def execCollDeadline (grp cseq : Nat) (s : State) : Out := onDev s (collDeadline grp cseq)

/-! COLL_REFORM (R335 to R337). -/

/-- Parameters of a FORM or REFORM as members compare them. -/
def formBytes (p : Packet) (tm : Nat) : List Byte :=
  bytesOf 1 (pbytes p 10 1) ++ bytesOf 1 (pbytes p 11 1) ++ bytesOf 2 (pbytes p 12 2) ++ bytesOf 2 (pbytes p 14 2) ++
    bytesOf 2 (pbytes p 16 2) ++ bytesOf 2 (pbytes p 18 2) ++ bytesOf 1 (pbytes p 20 1) ++ bytesOf 1 0 ++ bytesOf 16 (pbytes p 22 16) ++
    bytesOf 4 tm

/-- The group a FORM or REFORM would make. -/
def formGrp (d : Dev) (p : Packet) (idx epoch cseq : Nat) : Grp :=
  ⟨idx, pbytes p 12 2 % 4096, true, epoch, pbytes p 16 2 % 2 ^ 14, pbytes p 18 2 % 2 ^ 14,
    (upto (pbytes p 20 1)).map (fun i => pbytes p (22 + 2 * i) 2), pbits p 11 0 1 == 1, (rg d mTouchmark).toNat, cseq⟩

/-- Write a table entry (R334). -/
def putGrp (g : Grp) (d : Dev) : Dev :=
  let ab := (upto 8).foldl (fun n i => n + (g.absent.getD i 0xFFFF) <<< (16 * i)) 0
  let w (k v : Nat) (d : Dev) : Dev := setRegN d (fGroupTab g.idx k) v
  w 4 g.cseq (w 3 (ab >>> 64) (w 2 (ab % 2 ^ 64)
    (w 1 (g.absent.length + b2n g.mixed <<< 8 + g.rank (myNode d) <<< 16 + g.tm <<< 32)
      (w 0 (g.id + 2 ^ 15 + g.epoch <<< 16 + g.base <<< 32 + g.span <<< 48) d))))

/-- Every collective of a group in flight here ends with GROUP_CHANGED detail 1 (R337). -/
def endGroup (grp : Nat) (d : Dev) : Dev :=
  d.colls.insts.foldl (fun d i => if i.grp == grp then
      match findFlight d i.q i.seq with
      | some f => endColl i 0x0B 0x0001 (failCount i f) d
      | none => dropColl i d
    else d) d

/-- The first REFORM exchange of a group at its epoch ends what is in flight (R337). -/
def reformSeen (grp ep : Nat) (d : Dev) : Dev :=
  if d.colls.ended.contains (grp, ep) then d
  else endGroup grp { d with colls := { d.colls with ended := d.colls.ended ++ [(grp, ep)] } }

/-- The message of a live slot for this FORM or REFORM, if it has come. -/
def formFrom (d : Dev) (p : Packet) (n : Nat) : Option (List Byte) :=
  (d.colls.forms.find? fun e => e.1 == n && natOf (e.2.take 1) == pbytes p 10 1 && natOf ((e.2.drop 2).take 2) == pbytes p 12 2).map (·.2)

/-- FORM and REFORM end here: every live slot has been heard (R336). -/
def formSettle (f : Flight) (d : Dev) : Dev :=
  let p := f.head
  let id := pbytes p 12 2 % 4096
  let old := findGrp d id
  let idx := match old with
    | some g => g.idx
    | none => (findUp (fun e => !(grpAt d e).valid) 64 0).getD 0
  let g := formGrp d p idx (match old with | some g => g.epoch + 1 | none => 1) (match old with | some g => g.cseq | none => 0)
  let me := myNode d
  let own := formBytes p g.tm
  let heard := g.lives.map fun n => (n, if n = me then some own else formFrom d p n)
  if heard.all fun e => e.2.isSome then
    let msgs := heard.map fun e => (e.1, e.2.getD [])
    let d := { d with colls := { d.colls with forms := d.colls.forms.filter fun e =>
      !(natOf (e.2.take 1) == pbytes p 10 1 && natOf ((e.2.drop 2).take 2) == pbytes p 12 2) } }
    let tmOf (b : List Byte) : Nat := natOf (b.drop 28)
    if msgs.any fun e => e.2.take 28 != own.take 28 then finish f.q f.seq 0x0B 0x0002 0 d
    else
      let ref := match g.lives.foldl (fun (b : Option Nat) n => match b with | some m => some (Nat.min m n) | none => some n) none with
        | some n => (msgs.find? fun e => e.1 == n).map fun e => tmOf e.2
        | none => none
      let diff := (msgs.filter fun e => some (tmOf e.2) != ref).foldl (fun b e => Nat.min b e.1) 0xFFFF
      if !g.mixed ∧ diff ≠ 0xFFFF then finish f.q f.seq 0x0F diff 0 d
      else
        let d := { d with colls := { d.colls with ended := d.colls.ended.filter fun e => e.1 != id } }
        finish f.q f.seq 0 0 g.lives.length (putGrp g d)
  else d

/-- COLL_REFORM (R335 to R337). -/
def collReform (f : Flight) (d : Dev) : Dev :=
  let p := f.head
  let mode := pbytes p 10 1
  let id := pbytes p 12 2 % 4096
  let me := myNode d
  if f.prog = 1 then formSettle f d
  else if mode = 2 then
    match findGrp d id with
    | none => finish f.q f.seq 0x0B 0x0003 0 d
    | some g => finish f.q f.seq 0 0 0 ((upto 5).foldl (fun d k => setRegN d (fGroupTab g.idx k) 0) (endGroup id d))
  else
    let old := findGrp d id
    let refusal := match old with
      | some g => if mode = 0 then some 0x0003 else if g.epoch ≠ pbytes p 14 2 then some 0x0001 else none
      | none => if mode = 1 then some 0x0003
        else if (findUp (fun e => !(grpAt d e).valid) 64 0).isNone then some 0x0004 else none
    match refusal with
    | some det => finish f.q f.seq 0x0B det 0 d
    | none =>
      let act := activeGroups d
      if !act.contains id ∧ 16 ≤ act.length then d
      else
        let g := formGrp d p 0 0 0
        let d := if mode = 1 then reformSeen id (pbytes p 14 2) d else d
        let d := g.lives.foldl (fun d n => if n = me then d
          else (sendMsg n (pkClass p) 0x20000 0x15 0 0 (id + pbytes p 14 2 <<< 16) (formBytes p (rg d mTouchmark).toNat) d).2) d
        let set (x : Flight) : Flight := { x with prog := 1, aux := mono d }
        formSettle (set f) (modFlight f.q f.seq set d)

/-- COLL_REFORM (R336). -/
def execCollReform (q seq : Nat) (s : State) : Out := onDev s (withFlight 0x61 q seq collReform)

/-- FORM_MESSAGE (R336, R337): a member's parameters arrive. -/
def formMessage (src : Nat) (d : Dev) : Dev :=
  match takeMsg (fun x => x.1 == src && x.2.op == 0x15) d with
  | none => d
  | some ((_, m), d) =>
    let b := m.data
    let id := natOf ((b.drop 2).take 2) % 4096
    let ep := natOf ((b.drop 4).take 2)
    let d := match (if natOf (b.take 1) = 1 then findGrp d id else none) with
      | some g => if g.epoch = ep then reformSeen id ep d else d
      | none => d
    { d with colls := { d.colls with forms := d.colls.forms.filter (fun e =>
        !(e.1 == src && e.2.take 1 == b.take 1 && (e.2.drop 2).take 2 == (b.drop 2).take 2)) ++ [(src, b)] } }

/-- FORM_MESSAGE (R337). -/
def execFormMessage (src : Nat) (s : State) : Out := onDev s (formMessage src)

/-- REFORM_TIMEOUT (R336): the lowest live slot not heard from is named. -/
def reformTimeout (f : Flight) (d : Dev) : Dev :=
  if f.prog ≠ 1 then d
  else
    let p := f.head
    let d := passMono (f.aux + 24000 * pbytes p 40 4) d
    let d := formSettle f d
    match findFlight d f.q f.seq with
    | some h =>
      if !h.waitingNow then d
      else
        let g := formGrp d p 0 0 0
        let missing := (g.lives.filter fun n => n != myNode d && (formFrom d p n).isNone).foldl Nat.min 0xFFFF
        finish f.q f.seq 0x06 missing 0 d
    | none => d

/-- REFORM_TIMEOUT (R336). -/
def execReformTimeout (q seq : Nat) (s : State) : Out := onDev s (withFlight 0x61 q seq reformTimeout)

/-! Packet checks (R335, R338, R361). -/

/-- Parameter bits the collective commands use. -/
def collUsed (p : Packet) : List (Nat × Nat) :=
  let op := pkOpcode p
  let common := [(112, 12), fieldAt 16 2, fieldAt 18 2, (160, 1), (104, 5)]
  if op = 0x60 then
    let o := pbytes p 10 1
    let zg := pbits p 23 0 4 == 0xC
    common ++ [fieldAt 10 1, fieldAt 21 1, fieldAt 22 1] ++
      (if o = 4 then [] else [fieldAt 11 1, fieldAt 24 4, (224, 48), (272, 48)]) ++
      (if o ≤ 1 then [(96, 2), (99, 1), (100, 3), (184, 4)] else []) ++
      (if o ≤ 1 ∧ zg then [(98, 1), (320, 48)] else []) ++ (if o = 3 then [fieldAt 46 2] else [])
  else if op = 0x61 then
    let m := pbytes p 10 1
    [fieldAt 10 1, (96, 12)] ++ (if m = 2 then [] else
      [(88, 1), (128, 14), (144, 14), fieldAt 20 1, fieldAt 22 16, fieldAt 40 4] ++ (if m = 1 then [fieldAt 14 2] else []))
  else if op = 0x62 then common ++ [fieldAt 10 2, (224, 48)]
  else []

/-- Whether a collective command's parameters are in range, as far as the packet alone says (R335, R338, R339, R361). -/
def collInRange (d : Dev) (p : Packet) : Bool :=
  let op := pkOpcode p
  let al := pbits p 13 0 5
  let alOk := al == 0 || (decide (6 ≤ al) && decide (al ≤ 16))
  if op = 0x60 then
    let e := entOf (pbytes p) 0
    decide (e.op ≤ 4) && e.rop != 3 && decide (1 ≤ pbytes p 22 1 ∧ pbytes p 22 1 ≤ 64) && alOk && e.fmtOk
  else if op = 0x61 then
    let m := pbytes p 10 1
    if m = 2 then true
    else
      let base := pbytes p 16 2
      let span := pbytes p 18 2
      let k := pbytes p 20 1
      let ab := (upto 8).map fun i => pbytes p (22 + 2 * i) 2
      decide (m ≤ 1) && decide (span < 2 ^ rf d fNodeCfg 14 4) && decide (k ≤ 8) && mcMember base span (myNode d) &&
        !(ab.take k).contains (myNode d) && (ab.take k).all (mcMember base span) && (ab.drop k).all (· == 0xFFFF) &&
        ((ab.take k).zip ((ab.take k).drop 1)).all (fun (a, b) => decide (a < b)) &&
        decide (1 ≤ pbytes p 40 4 ∧ pbytes p 40 4 ≤ 10000000)
  else if op = 0x62 then
    decide (1 ≤ pbytes p 10 2 ∧ pbytes p 10 2 ≤ 64) && alOk && pbytes p 28 6 % 64 == 0
  else true

end Sys2Proof.Machine
end

