-- ==== Sys2Proof/Machine/Shard.lean ====
section
/-!
DEFINITION. Machine/Shard.lean: extents, ingots, SHARD_SAVE, SHARD_VERIFY, SHARD_LOAD, replicas and their sessions
(R410 to R430), and the draining of staged granules (R280).
-/
namespace Sys2Proof.Machine

/-! Extents (R410, R411). -/

/-- The fields of an extent descriptor. -/
structure Ext where
  tensor : Nat
  fmt : Nat
  ndim : Nat
  gshape : List Nat
  origin : List Nat
  size : List Nat
  ioff : Nat
  ilen : Nat
  digest : List Byte
  laddr : Nat
  lstride : List Nat
  deriving DecidableEq, Repr

/-- Field of a byte string. -/
def bfield (bs : List Byte) (at' n : Nat) : Nat := natOf ((bs.drop at').take n)

/-- Read a descriptor. -/
def extOf (bs : List Byte) : Ext :=
  let nd := Nat.min 4 (bfield bs 5 1)
  let four (a : Nat) : List Nat := (upto nd).map fun i => bfield bs (a + 4 * i) 4
  ⟨bfield bs 0 4, bfield bs 4 1, bfield bs 5 1, four 8, four 24, four 40, bfield bs 56 8, bfield bs 64 8, (bs.drop 72).take 32,
    bits (bfield bs 104 6) 0 48, (upto (nd - 1)).map fun i => bfield bs (112 + 4 * i) 4⟩

/-- Bytes of `n` elements of a row. -/
def Ext.rowLen (e : Ext) (n : Nat) : Nat := rowBytes e.fmt n
def Ext.last (e : Ext) : Nat := e.size.getLastD 0
/-- Stored bytes of the box (R412). -/
def Ext.bytes (e : Ext) : Nat := (e.size.dropLast.foldl (· * ·) 1) * e.rowLen e.last

/-- Coordinates of the rows of a box of `sizes`, in row-major order. -/
def boxRows : List Nat → List (List Nat)
  | [] => [[]]
  | n :: t => (upto n).flatMap fun i => (boxRows t).map (i :: ·)
/-- Rows of an extent's box. -/
def Ext.rows (e : Ext) : List (List Nat) := boxRows e.size.dropLast
/-- Local address of a row. -/
def Ext.rowAddr (e : Ext) (ix : List Nat) : Nat := (ix.zip e.lstride).foldl (fun a p => a + p.1 * p.2) e.laddr

/-- Whether a descriptor is valid (R411); `tiles`: tile store may hold it. -/
def Ext.ok (d : Dev) (e : Ext) (tiles : Bool) : Bool :=
  decide (1 ≤ e.ndim ∧ e.ndim ≤ 4) && e.fmt != 5 && decide (e.fmt ≤ 0xC) && e.size.all (fun n => decide (1 ≤ n)) &&
    ((e.origin.zip e.size).zip e.gshape).all (fun (p, g) => decide (p.1 + p.2 ≤ g)) &&
    e.lstride.all (fun s => s % (if e.fmt = 0xC then 8 else esz e.fmt) == 0) &&
    (e.fmt != 0xC || (e.origin.getLastD 0 % 256 == 0 && e.last % 256 == 0)) &&
    e.rows.all fun ix =>
      let a := e.rowAddr ix
      let n := e.rowLen e.last
      inStacks d a n || (tiles && (upto 64).any fun t => inTileStore d t a n)

/-- Split a byte string into descriptors. -/
def descriptors : Nat → List Byte → List (List Byte)
  | 0, _ => []
  | n + 1, bs => bs.take 128 :: descriptors n (bs.drop 128)

/-- Read a table of descriptors: refused, unreadable, or its descriptors. -/
def readTable (d : Dev) (a n : Nat) : Trouble ⊕ List (List Byte) :=
  match badRange d false a (128 * n) with
  | some (st, det) => .inl (st, det, none)
  | none => match readErr d a (128 * n) with
    | some e => .inl (errStatus e.2, 0, some (e, false))
    | none => .inr (descriptors n (ldBytes d a (128 * n)))

/-! The image of an ingot (R412, R413). -/

def Ingot.ext (g : Ingot) : List Ext := g.exts.map extOf
/-- Offset of the first extent's data. -/
def Ingot.dataAt (g : Ingot) : Nat := 4096 + roundUp (128 * g.exts.length) 4096
/-- Offsets of the extents' data. -/
def extOffsets : Nat → List Ext → List Nat
  | _, [] => []
  | o, e :: t => o :: extOffsets (o + roundUp e.bytes 4096) t
def Ingot.offsets (g : Ingot) : List Nat := extOffsets g.dataAt g.ext
def Ingot.length (g : Ingot) : Nat := g.ext.foldl (fun n e => n + roundUp e.bytes 4096) g.dataAt

/-- Owner number of the package's replica session. -/
def replicaOwner : Nat := 2 ^ 32

/-- Sessions an ingot holds, with their A-die and index. -/
def ingotSessions (d : Dev) (owner : Nat) : List (Nat × Nat × Session) :=
  (upto 8).flatMap fun a => (upto 2).filterMap fun k =>
    match sessionOf d a k with
    | some s => if s.owner = owner then some (a, k, s) else none
    | none => none

/-- A byte of stacked memory as an ingot's sessions hold it (R278): as taken, or as it still stands. -/
def snapByte (d : Dev) (ss : List (Nat × Nat × Session)) (a : Nat) : Byte :=
  match ss.find? fun s => s.1 == a / stackSpan with
  | some (_, _, s) =>
    let g := a % stackSpan >>> 18
    if s.taken.contains g || s.badG.contains g then tabGet memRest s.snapBytes a else byteAt d a
  | none => byteAt d a

/-- Stored bytes of an extent at the snapshot. -/
def extData (d : Dev) (owner : Nat) (e : Ext) : List Byte :=
  let ss := ingotSessions d owner
  e.rows.flatMap fun ix => (upto (e.rowLen e.last)).map fun i => snapByte d ss (e.rowAddr ix + i)

/-- The descriptor as the ingot stores it (R410). -/
def storedExt (bs : List Byte) (ioff ilen : Nat) (digest : List Byte) : List Byte :=
  bs.take 56 ++ bytesOf 8 ioff ++ bytesOf 8 ilen ++ digest ++ bytesOf 24 0

/-- The extent table of an ingot, padded. -/
def Ingot.table (d : Dev) (g : Ingot) : List Byte :=
  let t := (g.exts.zip g.offsets).flatMap fun (bs, o) =>
    let data := extData d g.owner (extOf bs)
    storedExt bs o data.length (shake256 32 data)
  t ++ bytesOf (g.dataAt - 4096 - t.length) 0

/-- Header bytes 0 to 79 (R413). -/
def Ingot.header (d : Dev) (g : Ingot) : List Byte :=
  let h := bytesOf 4 0x47495A48 ++ bytesOf 2 1 ++ bytesOf 2 g.exts.length ++ bytesOf 8 g.job ++ bytesOf 8 g.step ++ bytesOf 4 g.tm ++
    bytesOf 1 g.kind ++ bytesOf 1 g.gen ++ bytesOf 2 (myNode d) ++ bytesOf 4 g.shard ++ bytesOf 4 g.nshards ++ bytesOf 8 g.length
  h ++ shake256 32 (h ++ (g.table d).take (128 * g.exts.length))

/-! Writing an ingot (R414 to R418, R427). -/

def findIngot (d : Dev) (owner : Nat) : Option Ingot := d.ingots.find? fun g => g.owner == owner
def modIngot (owner : Nat) (f : Ingot → Ingot) (d : Dev) : Dev := { d with ingots := updFirst (fun g => g.owner == owner) f d.ingots }

/-- Requester of an ingot's reads and writes. -/
def ingotReq (g : Ingot) : Req :=
  if g.owner < 2 ^ 32 then ⟨g.owner / 65536, 0, 2, qTile (g.owner / 65536), g.owner % 65536⟩ else reqOf 2 0xFF

/-- Remote writes of an ingot in messages of at most 4,096 bytes, each of which may be refused. -/
def ingotSend (g : Ingot) : Nat → Nat → List Byte → Dev → Dev
  | 0, _, _, d => d
  | k + 1, a, bs, d =>
    if bs.isEmpty then d
    else
      let n := Nat.min bs.length (toPage a)
      let q := if g.owner < 2 ^ 32 then g.owner / 65536 else 0x20000
      let m := sendAsk g.node g.cls q opWrite 0 a 0 (bs.take n) (fun v => ⟨g.node, v, ingotQ, g.owner, v, n, a, false⟩) d
      ingotSend g k (a + n) (bs.drop n) (modIngot g.owner (fun x => { x with last := m.1 + 1 }) m.2)

/-- Write bytes at an offset of an ingot with a global destination. -/
def ingotPut (owner o : Nat) (bs : List Byte) (d : Dev) : Dev :=
  match findIngot d owner with
  | none => d
  | some g =>
    if g.fail.isSome ∨ bs.isEmpty ∨ g.dkind ≠ 0 then d
    else
      let a := g.dst + o
      if g.node = myNode d then
        match writeErr d a bs.length with
        | some e => modIngot owner (fun x => { x with fail := some (errStatus e.2, 0) }) (logWriteErr e (ingotReq g) d)
        | none => memWrite (ingotReq g) a bs d
      else if d.fab.lost.contains g.node then modIngot owner (fun x => { x with fail := some (0x06, g.node) }) d
      else ingotSend g 8192 a bs d

/-- Whether the destination has acknowledged all that was written. -/
def ingotAcked (d : Dev) (g : Ingot) : Bool := g.node == myNode d || ackedTo d g.node g.last

/-- Zero bytes between the stored data of the extents (R412). -/
def ingotPads (g : Ingot) : List (Nat × Nat) :=
  (g.ext.zip g.offsets).map fun (e, o) => (o + e.bytes, roundUp e.bytes 4096 - e.bytes)

/-- Blocks of a stage that go to a T port, as (offset, bytes) (R416). -/
def stageBlocks (d : Dev) (g : Ingot) : List (Nat × List Byte) :=
  let cut (o : Nat) (bs : List Byte) : List (Nat × List Byte) :=
    (upto (bs.length / 4096)).map fun i => (o + 4096 * i, (bs.drop (4096 * i)).take 4096)
  if g.stage = 1 then [(0, bytesOf 4096 0)]
  else if g.stage = 2 then
    (g.ext.zip g.offsets).flatMap fun (e, o) =>
      cut o (extData d g.owner e ++ bytesOf (roundUp e.bytes 4096 - e.bytes) 0)
  else if g.stage = 3 then cut 4096 (g.table d)
  else
    let h := g.header d
    let mark8 := if g.stage = 4 then bytesOf 8 0 else (h.drop 48).take 8
    [(0, h ++ mark8 ++ bytesOf 4008 0)]

/-- The ingot's granules are all taken and drained, and none is bad. -/
def ingotDrained (d : Dev) (owner : Nat) : Bool := (ingotSessions d owner).all fun s => leftOf (some s.2.2) == 0 && s.2.2.slots.isEmpty

/-- What a stage writes when it begins, for a global destination: stage 2 is written by the draining of granules. -/
def stageWrite (owner : Nat) (d : Dev) : Dev :=
  match findIngot d owner with
  | none => d
  | some g =>
    if g.dkind ≠ 0 then d
    else if g.stage = 1 then ingotPut owner 80 (bytesOf 8 0) d
    else if g.stage = 3 then
      ingotPut owner 4096 (g.table d) ((ingotPads g).foldl (fun d p => ingotPut owner p.1 (bytesOf p.2 0) d) d)
    else if g.stage = 4 then ingotPut owner 0 (g.header d) d
    else if g.stage = 5 then ingotPut owner 80 (((g.header d).drop 48).take 8) d
    else d

/-- Move an ingot from stage to stage (R414): a stage begins once every write of the one before is acknowledged. -/
def ingotRun (owner : Nat) : Nat → Dev → Dev
  | 0, d => d
  | n + 1, d =>
    match findIngot d owner with
    | none => d
    | some g =>
      if g.fail.isSome then d
      else if (ingotSessions d owner).any fun s => !s.2.2.badG.isEmpty then modIngot owner (fun x => { x with fail := some (0x05, 0) }) d
      else
        let next (d : Dev) : Dev :=
          let d := dropAsks (fun a => a.q == ingotQ && a.seq == owner) d
          ingotRun owner n (stageWrite owner (modIngot owner (fun x => { x with stage := x.stage + 1, block := 0, sent := false }) d))
        if 6 ≤ g.stage then d
        else if g.dkind = 0 then
          if ingotAcked d g ∧ (g.stage ≠ 2 ∨ ingotDrained d owner) then next d else d
        else if g.stage = 2 ∧ !ingotDrained d owner then d
        else
          let bl := stageBlocks d g
          if bl.length ≤ g.block then next d
          else if g.sent then d
          else
            -- each block is offered to the enclosure as a SEND of 4,104 bytes
            let m := sendMsg g.node g.cls 0x20000 opSendAnn g.dkind 0 ((owner % 2 ^ 32) <<< 16 + g.dst <<< 48 + 4104 <<< 80) [] d
            modIngot owner (fun x => { x with sent := true }) m.2

/-- Moves an ingot can make at once. -/
def ingotFuel : Nat := 16

/-- The enclosure takes the next block of an ingot (R416). -/
def ingotGo (owner buf cap rid : Nat) (d : Dev) : Dev :=
  match findIngot d owner with
  | none => d
  | some g =>
    match (stageBlocks d g)[g.block]? with
    | none => d
    | some (o, bs) =>
      if !g.sent then d
      else if cap < 4104 then modIngot owner (fun x => { x with fail := some (0x01, 0) }) d
      else
        let data := bytesOf 8 o ++ bs
        let a := toPage buf
        let put (a : Nat) (l : List Byte) (d : Dev) : Dev :=
          if l.isEmpty then d else (sendMsg g.node g.cls 0x20000 opWrite 0 a (8 + rid <<< 16) l d).2
        let d := put (buf + Nat.min a 4096) (data.drop (Nat.min a 4096)) (put buf (data.take (Nat.min a 4096)) d)
        let isData := g.stage == 2
        ingotRun owner ingotFuel (modIngot owner (fun x =>
          { x with block := x.block + 1, sent := false, bytes := x.bytes + (if isData then 4096 else 0) }) d)

/-- SEND_GO (R328): the match of a SEND, or of a block of an ingot, has arrived, and its data begins to flow. -/
def sendGo (q seq : Nat) (d : Dev) : Dev :=
  match takeGo q seq d with
  | none => d
  | some ((src, m), d) =>
    let cap := bits m.args 48 32
    let rid := bits m.args 80 32
    match findFlight d q seq with
    | some f => if f.op = 0x70 then ingotGo (cmdId q seq) m.off cap rid d else sendStart q seq src m.off cap rid d
    | none => d

/-- SEND_GO (R328). -/
def execSendGo (q seq : Nat) (s : State) : Out := onDev s (sendGo q seq)

/-- Granules of A-die `a` that extents touch: the lowest, and the one after the highest. -/
def granuleRange (es : List Ext) (a : Nat) : Option (Nat × Nat) :=
  es.foldl (fun (r : Option (Nat × Nat)) e =>
    e.rows.foldl (fun r ix =>
      let lo := Nat.max (e.rowAddr ix) (a * stackSpan)
      let hi := Nat.min (e.rowAddr ix + e.rowLen e.last) ((a + 1) * stackSpan)
      if lo < hi then
        let g0 := lo % stackSpan >>> 18
        let g1 := (hi - 1) % stackSpan >>> 18 + 1
        match r with
        | some (x, y) => some (Nat.min x g0, Nat.max y g1)
        | none => some (g0, g1)
      else r) r) none

/-- A-dies extents touch. -/
def extDies (es : List Ext) : List Nat := (upto 8).filter fun a => (granuleRange es a).isSome
/-- Whether each of the dies has a free session. -/
def sessionsFree (d : Dev) (es : List Ext) : Bool :=
  (extDies es).all fun a => (trackerAt d a).s0.isNone || (trackerAt d a).s1.isNone

/-- Open the sessions of an ingot at one snapshot cycle (R417). -/
def openSessions (owner : Nat) (es : List Ext) (d : Dev) : Dev :=
  (extDies es).foldl (fun d a =>
    match granuleRange es a with
    | some (lo, hi) =>
      let s : Session := ⟨owner, lo, hi, d.clk.cyc, [], [], [], [], []⟩
      setSession a (if (trackerAt d a).s0.isNone then 0 else 1) (some s) d
    | none => d) d

/-- Close the sessions of an ingot: untaken granules are released at once (R281). -/
def closeSessions (owner : Nat) (d : Dev) : Dev :=
  (ingotSessions d owner).foldl (fun d s => releaseHeld s.1 (setSession s.1 s.2.1 none d)) d

/-- An ingot is given up or done: its sessions close. -/
def dropIngot (owner : Nat) (d : Dev) : Dev :=
  let d := closeSessions owner d
  { (dropAsks (fun a => a.q == ingotQ && a.seq == owner) d) with ingots := d.ingots.filter fun g => g.owner != owner }

/-- Bytes a staged granule brings to the ingot, as (offset, address, length), row by row. -/
def granulePieces (g : Ingot) (lo hi : Nat) : List (Nat × Nat × Nat) :=
  (g.ext.zip g.offsets).flatMap fun (e, o) =>
    e.rows.zipIdx.filterMap fun (ix, i) =>
      let a := e.rowAddr ix
      let n := e.rowLen e.last
      let s := Nat.max a lo
      let t := Nat.min (a + n) hi
      if s < t then some (o + i * n + (s - a), s, t - s) else none

/-- Bytes of a piece without the lines that could not be read (R281), as runs. -/
def goodRuns (bad : List Nat) (o a : Nat) : Nat → List (Nat × Nat × Nat)
  | 0 => []
  | n + 1 =>
    (upto (lineSpan a (n + 1))).filterMap fun i =>
      let l := lineOf a + 64 * i
      let s := Nat.max a l
      let t := Nat.min (a + n + 1) (l + 64)
      if bad.contains l then none else some (o + (s - a), s, t - s)

/-- A staged granule has drained to its destination, and its slot comes free (R280). -/
def slotDrain (a slot : Nat) (d : Dev) : Dev :=
  let pick := (upto 2).findSome? fun k => match sessionOf d a k with
    | some s => (s.slots.find? fun e => e.1 == slot).map fun e => (k, s, e.2)
    | none => none
  match pick with
  | none => d
  | some (k, s, gr) =>
    match findIngot d s.owner with
    | none => setSession a k (some { s with slots := s.slots.filter fun e => e.1 != slot }) d
    | some g =>
      if g.dkind = 0 ∧ g.stage < 2 then d
      else
        let lo := a * stackSpan + gr * 0x40000
        let ps := granulePieces g lo (lo + 0x40000)
        let runs := ps.flatMap fun (o, x, n) => if s.badLines.isEmpty then [(o, x, n)] else goodRuns s.badLines o x n
        let d := runs.foldl (fun d (o, x, n) => ingotPut s.owner o ((upto n).map fun i => tabGet memRest s.snapBytes (x + i)) d) d
        let n := if g.dkind = 0 then ps.foldl (fun n p => n + p.2.2) 0 else 0
        let d := modIngot s.owner (fun x => { x with bytes := x.bytes + n }) d
        ingotRun s.owner ingotFuel (setSession a k (some { s with slots := s.slots.filter fun e => e.1 != slot }) d)

/-- STAGING_SLOT_FREE (R280). -/
def execStagingSlotFree (a slot : Nat) (s : State) : Out :=
  onDev s fun d => if a < 8 ∧ slot < 64 then slotDrain a slot d else d

/-- An osem is signalled in the snapshot cycle of a command of queue `q` (R417). -/
def osemAdd (q : Nat) (r : Req) (sem : Nat) (d : Dev) : Dev := (busUpdate q r sem (fun w => atomOp 0 w 1 0) d).2

/-- Whether a range at another node could be reached under R315, as far as its address says. -/
def remotePlace (a n : Nat) : Bool :=
  decide (a + n ≤ 8 * stackSpan) || (decide (tileBase ≤ a) && decide (a + n ≤ fBuf + 48 * mib)) ||
    (decide (farBase ≤ a) && decide (a + n ≤ farBase + 2 ^ 42)) ||
    (decide (ctrlBase + pRegionOff ≤ a) && decide (a + n ≤ ctrlBase + pRegionOff + 60 * mib))

/-- SHARD_SAVE begins (R415 to R417). -/
def saveStart (f : Flight) (d : Dev) : Dev :=
  let p := f.head
  let n := pbytes p 12 2
  let dkind := pbytes p 10 1
  let r := f.req 2 (qTile f.q)
  match readTable d (bits (pbytes p 32 6) 0 48) n with
  | .inl e => finish f.q f.seq e.1 e.2.1 0 (logTrouble e r d)
  | .inr exts =>
    let d := correctReads (bits (pbytes p 32 6) 0 48) (128 * n) r d
    let fin (st det : Nat) : Dev := finish f.q f.seq st det 0 d
    let es := exts.map extOf
    if !es.all (fun e => e.ok d false) then fin 0x0D 0x0006
    else
      let dst := pbytes p 40 8
      let node := if dkind = 0 then gNode dst else encl (15 + dkind)
      let g : Ingot := ⟨cmdId f.q f.seq, pkClass p, dkind, node, if dkind = 0 then gOff dst else dst % 2 ^ 32, 0, pbits p 11 0 1,
        pbytes p 16 8, pbytes p 24 8, pbytes p 48 4, pbytes p 52 4, (rg d mTouchmark).toNat, exts, 1, 0, 0, 0, false, none⟩
      let place := if dkind ≠ 0 then none
        else if !inRack d node then some (0x0E, 0x0002)
        else if node = myNode d then badRange d true g.dst g.length
        else if !remotePlace g.dst g.length then some (0x0E, 0x0002)
        else if d.fab.lost.contains node then some (0x06, node) else none
      let sem := bits (pbytes p 56 6) 0 48
      let osig := pbits p 11 1 1 == 1
      match (match place with | some e => some e | none => if osig then busRange d true sem 8 8 else none) with
      | some (st, det) => fin st det
      | none => match (if osig then writeErr d sem 8 else none) with
        | some e => finish f.q f.seq (errStatus e.2) 0 0 (logWriteErr e r d)
        | none =>
          if !sessionsFree d es then d
          else
            let d := openSessions g.owner es (if osig then osemAdd f.q r sem d else d)
            let d := modFlight f.q f.seq (fun x => { x with prog := 1 }) { d with ingots := d.ingots ++ [g] }
            ingotRun g.owner ingotFuel (stageWrite g.owner d)

/-- SHARD_SAVE (R417, R418). -/
def shardSave (f : Flight) (d : Dev) : Dev :=
  if f.prog = 0 then saveStart f d
  else
    let owner := cmdId f.q f.seq
    let d := ingotRun owner ingotFuel d
    match findIngot d owner with
    | none => d
    | some g =>
      let ending (st det : Nat) : Dev := finish f.q f.seq st det (satTo 0xFFFFFFFF g.bytes) (dropIngot owner d)
      match g.fail with
      | some (st, det) => ending st det
      | none =>
        if g.stage = 6 then ending 0 0
        else if f.stop ≠ 0 then let o := stopped f g.bytes; ending o.1 o.2.1
        else d

/-- SHARD_SAVE (R417). -/
def execShardSave (q seq : Nat) (s : State) : Out := onDev s (withFlight 0x70 q seq shardSave)

/-! Reading an ingot (R419 to R422). -/

/-- Field of the ingot as read so far. -/
def Flight.inN (f : Flight) (o n : Nat) : Nat := natOf ((upto n).map fun i => tabGet memRest f.buf (o + i))
def Flight.inBytes (f : Flight) (o n : Nat) : List Byte := (upto n).map fun i => tabGet memRest f.buf (o + i)
/-- 4 KiB blocks of a range of the ingot. -/
def blocksOf (o n : Nat) : List Nat := if n = 0 then [] else (upto ((o + n - 1) / 4096 - o / 4096 + 1)).map (o / 4096 + ·)

/-- Bring blocks of the ingot in: at once from this package, or asked for while room lasts. Answers whether all are here, and the
error that stops the command. -/
def bring (f : Flight) (src node : Nat) : List Nat → Dev → Bool × Option Trouble × Dev
  | [], d => (true, none, d)
  | b :: t, d =>
    match findFlight d f.q f.seq with
    | none => (false, none, d)
    | some h =>
      if h.mark.contains b then bring f src node t d
      else if node = myNode d then
        let a := src + 4096 * b
        match badRange d false a 4096 with
        | some (st, det) => (false, some (st, det, none), d)
        | none => match readErr d a 4096 with
          | some e => (false, some (errStatus e.2, 0, some (e, false)), d)
          | none => bring f src node t (blockArrive f b (ldBytes d a 4096) (correctReads a 4096 (f.req 2 (qTile f.q)) d))
      else if d.fab.lost.contains node then (false, some (0x06, node, none), d)
      else
        let asked := d.fab.asks.any fun a => a.q == f.q && a.seq == f.seq && a.idx == b
        let d := if asked || !roomFor d f.q 4096 then d else askRead f node b (src + 4096 * b) 4096 false d
        let r := bring f src node t d
        (false, r.2.1, r.2.2)

/-- The header checks of R420 on a read header and table, in their order: the failed detail. -/
def headerCheck (f : Flight) (job step : Nat) (xdig : Option (List Byte)) : Option Nat :=
  let sealed := f.inBytes 80 8 == f.inBytes 48 8 && f.inN 48 8 != 0
  let n := f.inN 6 2
  if !sealed then some 1
  else if f.inN 0 4 ≠ 0x47495A48 ∨ f.inN 4 2 ≠ 1 ∨ f.inN 8 8 ≠ job ∨ f.inN 16 8 ≠ step then some 2
  else if (match xdig with | some x => x != f.inBytes 48 32 | none => false) then some 5
  else if shake256 32 (f.inBytes 0 48 ++ f.inBytes 4096 (128 * n)) ≠ f.inBytes 48 32 then some 3
  else none

/-- Extents of the ingot as read. -/
def Flight.inExts (f : Flight) : List Ext := (upto (f.inN 6 2)).map fun i => extOf (f.inBytes (4096 + 128 * i) 128)

/-- Whether an extent's data has the digest its table names. -/
def extChecks (f : Flight) (e : Ext) : Bool := shake256 32 (f.inBytes e.ioff e.ilen) == e.digest

/-- The expected digest a command names: none, refused, unreadable, or its bytes. -/
def expected (d : Dev) (a : Nat) : (Option Trouble) × Option (List Byte) :=
  if a = 0 then (none, none)
  else match badRange d false a 32 with
    | some (st, det) => (some (st, det, none), none)
    | none => match readErr d a 32 with
      | some e => (some (errStatus e.2, 0, some (e, false)), none)
      | none => (none, some (ldBytes d a 32))

/-- A reader of an ingot waits, stops at a trouble, or goes on with the header and table checked. -/
def readHead (f : Flight) (src node job step xdig : Nat) (d : Dev) (go : Flight → Dev → Dev) : Dev :=
  let r := f.req 2 (qTile f.q)
  let stop (e : Trouble) (d : Dev) : Dev := finish f.q f.seq e.1 e.2.1 f.aux (logTrouble e r (dropOwn f d))
  let b := bring f src node [0] d
  match b.2.1 with
  | some e => stop e b.2.2
  | none =>
    match findFlight b.2.2 f.q f.seq with
    | none => b.2.2
    | some h =>
      if !b.1 ∨ !h.waitingNow then b.2.2
      else
        let x := expected b.2.2 xdig
        match x.1 with
        | some e => stop e b.2.2
        | none =>
          let d := if xdig = 0 then b.2.2 else correctReads xdig 32 r b.2.2
          let n := h.inN 6 2
          -- a header that fails its own checks is not followed to a table
          let early := match headerCheck h job step x.2 with | some 3 => none | y => y
          match early with
          | some det => finish f.q f.seq 0x09 det 0 d
          | none =>
            let c := bring f src node (blocksOf 4096 (128 * n)) d
            match c.2.1 with
            | some e => stop e c.2.2
            | none => match findFlight c.2.2 f.q f.seq with
              | none => c.2.2
              | some h =>
                if !c.1 ∨ !h.waitingNow then c.2.2
                else match headerCheck h job step x.2 with
                  | some det => finish f.q f.seq 0x09 det 0 c.2.2
                  | none => go h c.2.2

/-- The extents are checked one after another (R420): `prog` counts them. -/
def verifyExts (f : Flight) (src node : Nat) : List Ext → Dev → Dev
  | [], d => finish f.q f.seq 0 0 (satTo 0xFFFFFFFF ((findFlight d f.q f.seq).map (fun h => h.inN 40 8) |>.getD 0)) d
  | e :: t, d =>
    let b := bring f src node (blocksOf e.ioff e.ilen) d
    match b.2.1 with
    | some x => finish f.q f.seq x.1 x.2.1 (satTo 0xFFFFFFFF e.ioff) (logTrouble x (f.req 2 (qTile f.q)) (dropOwn f b.2.2))
    | none => match findFlight b.2.2 f.q f.seq with
      | none => b.2.2
      | some h =>
        if !b.1 ∨ !h.waitingNow then modFlight f.q f.seq (fun x => { x with aux := e.ioff }) b.2.2
        else if extChecks h e then verifyExts f src node t (modFlight f.q f.seq (fun x => { x with aux := e.ioff + e.ilen }) b.2.2)
        else finish f.q f.seq 0x09 0x0004 (satTo 0xFFFFFFFF e.ioff) b.2.2

/-- SHARD_VERIFY (R420). -/
def shardVerify (f : Flight) (d : Dev) : Dev :=
  let p := f.head
  let g := pbytes p 16 8
  if f.stop ≠ 0 then let o := stopped f f.aux; finish f.q f.seq o.1 o.2.1 o.2.2 (dropOwn f d)
  else readHead f (gOff g) (gNode g) (pbytes p 24 8) (pbytes p 32 8) (bits (pbytes p 40 6) 0 48) d
    fun h d => verifyExts h (gOff g) (gNode g) h.inExts d

/-- SHARD_VERIFY (R420). -/
def execShardVerify (q seq : Nat) (s : State) : Out := onDev s (withFlight 0x72 q seq shardVerify)

/-- The intersection of an extent with a selection: origin and size in every dimension. -/
def meet (e s : Ext) : Option (List Nat × List Nat) :=
  if e.tensor = s.tensor ∧ e.ndim = s.ndim then
    let lo := (e.origin.zip s.origin).map fun (a, b) => Nat.max a b
    let hi := ((e.origin.zip e.size).zip (s.origin.zip s.size)).map fun (a, b) => Nat.min (a.1 + a.2) (b.1 + b.2)
    if (lo.zip hi).all fun (a, b) => decide (a < b) then some (lo, (lo.zip hi).map fun (a, b) => b - a) else none
  else none

/-- Row-major index of a row inside a box. -/
def rowIndex : List Nat → List Nat → Nat
  | i :: t, _ :: ns => i * (ns.foldl (· * ·) 1) + rowIndex t ns
  | _, _ => 0

/-- Rows of an intersection as (offset in the ingot, local address, bytes). -/
def meetRows (e s : Ext) (lo size : List Nat) : List (Nat × Nat × Nat) :=
  let l0 := lo.getLastD 0
  let n := e.rowLen (size.getLastD 0)
  (boxRows size.dropLast).map fun ix =>
    let at' := ((lo.dropLast).zip ix).map fun (a, b) => a + b
    let ei := (at'.zip e.origin).map fun (a, b) => a - b
    let si := (at'.zip s.origin).map fun (a, b) => a - b
    (e.ioff + rowIndex ei e.size.dropLast * e.rowLen e.last + e.rowLen (l0 - e.origin.getLastD 0),
      s.rowAddr si + e.rowLen (l0 - s.origin.getLastD 0), n)

/-- Write rows; bytes written and the failing write. -/
def putRows (f : Flight) (r : Req) : List (Nat × Nat × Nat) → Nat → Dev → Nat × Option (Nat × Nat) × Dev
  | [], n, d => (n, none, d)
  | (o, a, k) :: t, n, d =>
    match writeErr d a k with
    | some e => (n, some e, d)
    | none => putRows f r t (n + k) (memWrite r a (f.inBytes o k) d)

/-- Extents in table order are loaded (R422): `prog` counts those done. -/
def loadExts (f : Flight) (src node : Nat) (sels : List Ext) : Nat → List Ext → Dev → Dev
  | _, [], d => finish f.q f.seq 0 0 (satTo 0xFFFFFFFF ((findFlight d f.q f.seq).map (·.aux) |>.getD 0)) d
  | i, e :: t, d =>
    let r := f.req 2 (qTile f.q)
    let hits := sels.filterMap fun s => (meet e s).map fun m => (s, m)
    let done := decide (i < f.prog)
    if done || hits.isEmpty then loadExts f src node sels (i + 1) t d
    else
      let b := bring f src node (blocksOf e.ioff e.ilen) d
      match b.2.1 with
      | some x => finish f.q f.seq x.1 x.2.1 (satTo 0xFFFFFFFF f.aux) (logTrouble x r (dropOwn f b.2.2))
      | none => match findFlight b.2.2 f.q f.seq with
        | none => b.2.2
        | some h =>
          if !b.1 ∨ !h.waitingNow then b.2.2
          else
            let w := putRows h r (hits.flatMap fun (s, lo, size) => meetRows e s lo size) h.aux b.2.2
            match w.2.1 with
            | some x => finish f.q f.seq (errStatus x.2) 0 (satTo 0xFFFFFFFF w.1) (logWriteErr x r w.2.2)
            | none =>
              if extChecks h e then
                let set (x : Flight) : Flight := { x with prog := i + 1, aux := w.1 }
                loadExts (set f) src node sels (i + 1) t (modFlight f.q f.seq set w.2.2)
              else finish f.q f.seq 0x09 0x0004 (satTo 0xFFFFFFFF w.1) w.2.2

/-- SHARD_LOAD (R421, R422). -/
def shardLoad (f : Flight) (d : Dev) : Dev :=
  let p := f.head
  let g := pbytes p 16 8
  let r := f.req 2 (qTile f.q)
  if f.stop ≠ 0 then let o := stopped f f.aux; finish f.q f.seq o.1 o.2.1 o.2.2 (dropOwn f d)
  else match readTable d (bits (pbytes p 40 6) 0 48) (pbytes p 12 2) with
  | .inl e => finish f.q f.seq e.1 e.2.1 f.aux (logTrouble e r d)
  | .inr bs =>
    let d := correctReads (bits (pbytes p 40 6) 0 48) (128 * pbytes p 12 2) r d
    let sels := bs.map extOf
    if !sels.all (fun e => e.ok d true) then finish f.q f.seq 0x0D 0x0006 f.aux d
    else readHead f (gOff g) (gNode g) (pbytes p 24 8) (pbytes p 32 8) (bits (pbytes p 46 6) 0 48) d fun h d =>
      let es := h.inExts
      if pbits p 11 0 1 = 0 ∧ h.inN 24 4 ≠ (rg d mTouchmark).toNat then finish f.q f.seq 0x0F 0 0 d
      else if sels.any fun s => es.any fun e => e.tensor == s.tensor && (e.fmt != s.fmt || e.ndim != s.ndim || e.gshape != s.gshape) then
        finish f.q f.seq 0x09 0x0006 0 d
      else loadExts h (gOff g) (gNode g) sels 0 es d

/-- SHARD_LOAD (R422). -/
def execShardLoad (q seq : Nat) (s : State) : Out := onDev s (withFlight 0x71 q seq shardLoad)

/-! Replicas (R426 to R430). -/

/-- This package's twin (R391). -/
def twinNode (d : Dev) : Nat := myNode d ^^^ 1
/-- M_TWINSTAT.state (R392). -/
def twinState (d : Dev) : Nat := rf d mTwinStat 0 3

/-- M_REPLSTAT shows the sessions (R429). -/
def showRepl (d : Dev) : Dev := setB (setB d mReplStat 0 d.twin.arm.isSome) mReplStat 1 (findIngot d replicaOwner).isSome

/-- The replica session ends (R429): its status is shown, its interrupt raised, and the OPEN that waits for it answered. -/
def replicaEnd (status detail : Nat) (d : Dev) : Dev :=
  match findIngot d replicaOwner with
  | none => d
  | some g =>
    let d := raise (rf d mReplStat 26 10) (setF (dropIngot replicaOwner d) mReplStat 2 8 status)
    let d := match d.twin.opener with
      | some id => finish (id / 65536) (id % 65536) status detail (satTo 0xFFFFFFFF g.bytes) d
      | none => d
    showRepl { d with twin := { d.twin with opener := none } }

/-- The replica session goes on; it ends where it has failed, or its twin is lost or mismatched (R430). -/
def replicaRun (d : Dev) : Dev :=
  match findIngot d replicaOwner with
  | none => d
  | some _ =>
    let d := ingotRun replicaOwner ingotFuel d
    match findIngot d replicaOwner with
    | none => d
    | some g => match g.fail with
      | some (st, det) => replicaEnd st det d
      | none =>
        if twinState d = 4 ∨ twinState d = 5 ∨ d.fab.lost.contains (twinNode d) then replicaEnd 0x06 (twinNode d) d
        else if g.stage = 6 then
          -- the twin has acknowledged the seal
          replicaEnd 0 0 (setRegN { d with twin := { d.twin with gen := some g.gen } } mTwinMine g.step)
        else d

/-- Why a replica session is refused (R427). -/
def replicaRefusal (d : Dev) (g : Ingot) : Option (Nat × Nat) :=
  if twinState d ≠ 2 then some (0x06, twinNode d)
  else if !d.twin.accepts ∨ d.twin.rsize * gib < g.length then some (0x0E, 0x000A)
  else none

/-- The ingot of a replica session of step `step`. -/
def replicaIngot (d : Dev) (cls step job : Nat) (exts : List (List Byte)) : Ingot :=
  let gen := match d.twin.gen with | some k => 1 - k | none => 0
  ⟨replicaOwner, cls, 0, twinNode d, replicaBase d gen, 1, gen, step, job, 0, 1, (rg d mTouchmark).toNat, exts, 1, 0, 0, 0, false, none⟩

/-- Open a replica session. -/
def replicaOpen (g : Ingot) (d : Dev) : Dev :=
  let d := openSessions replicaOwner g.ext { d with ingots := d.ingots ++ [g] }
  showRepl (ingotRun replicaOwner ingotFuel (stageWrite replicaOwner d))

/-- REPLICA_CTL (R426 to R428). -/
def replicaCtl (f : Flight) (d : Dev) : Dev :=
  let p := f.head
  let op := pbytes p 10 1
  let r := f.req 2 (qTile f.q)
  let me := cmdId f.q f.seq
  if f.prog = 1 then (if op = 0 then replicaRun d else d)
  else if op = 2 then finish f.q f.seq 0 0 0 (showRepl { d with twin := { d.twin with arm := none } })
  else if op = 3 then finish f.q f.seq 0 0 0 (replicaEnd 0x02 0x0001 d)
  else match readTable d (bits (pbytes p 32 6) 0 48) (pbytes p 12 2) with
  | .inl e => finish f.q f.seq e.1 e.2.1 0 (logTrouble e r d)
  | .inr exts =>
    let d := correctReads (bits (pbytes p 32 6) 0 48) (128 * pbytes p 12 2) r d
    if !(exts.map extOf).all (fun e => e.ok d false) then finish f.q f.seq 0x0D 0x0006 0 d
    else if op = 1 then
      let a : Arm := ⟨pbytes p 40 8, pbytes p 48 4, pbytes p 16 8, pbytes p 24 8, pkClass p, exts⟩
      finish f.q f.seq 0 0 0 (showRepl { d with twin := { d.twin with arm := some a, lastFrame := none } })
    else
      let g := replicaIngot d (pkClass p) (pbytes p 16 8) (pbytes p 24 8) exts
      let sem := bits (pbytes p 52 6) 0 48
      let osig := pbits p 11 0 1 == 1
      match (match replicaRefusal d g with | some e => some e | none => if osig then busRange d true sem 8 8 else none) with
      | some (st, det) => finish f.q f.seq st det 0 d
      | none => match (if osig then writeErr d sem 8 else none) with
        | some e => finish f.q f.seq (errStatus e.2) 0 0 (logWriteErr e r d)
        | none =>
          if (findIngot d replicaOwner).isSome ∨ !sessionsFree d g.ext then d
          else
            let d := modFlight f.q f.seq (fun x => { x with prog := 1 }) { d with twin := { d.twin with opener := some me } }
            replicaRun (replicaOpen g (if osig then osemAdd f.q r sem d else d))

/-- REPLICA_CTL (R428). -/
def execReplicaCtl (q seq : Nat) (s : State) : Out := onDev s (withFlight 0x73 q seq replicaCtl)

/-- REPLICA_SESSION_OPEN (R428): at an armed tick a session opens, or is skipped. A tether entry opens none (R406). -/
def replicaSessionOpen (d : Dev) : Dev :=
  match d.twin.arm with
  | none => d
  | some a =>
    let n := frameNum d
    if running d && d.clk.mode != .waiting && decide (a.first ≤ n) && (n - a.first) % Nat.max 1 a.every == 0 &&
        d.twin.lastFrame != some n && !inTether d then
      let d := { d with twin := { d.twin with lastFrame := some n } }
      let g := replicaIngot d a.cls (a.step + (n - a.first) / Nat.max 1 a.every) a.job a.exts
      if (findIngot d replicaOwner).isSome || !sessionsFree d g.ext then addSat d mReplStat 10 16 1
      else match replicaRefusal d g with
        | some (st, _) => raise (rf d mReplStat 26 10) (setF d mReplStat 2 8 st)
        | none => replicaRun (replicaOpen g d)
    else d

/-- REPLICA_SESSION_OPEN (R428). -/
def execReplicaSessionOpen (s : State) : Out := onDev s replicaSessionOpen

/-- Generation of the partner's region that holds a new complete replica. -/
def heldGen (d : Dev) : Nat := if (rg d mTwinHeld).toNat = 2 ^ 64 - 1 then 0 else 1 - rf d mTwinStat 50 1

/-- REPLICA_COMPLETE (R395): at the holder, the sealed generation of the partner becomes the newest; at the source, the session
ends once its seal is acknowledged. -/
def replicaComplete (src : Nat) (d : Dev) : Dev :=
  if src = myNode d then replicaRun d
  else if src ≠ twinNode d then d
  else
    let g := heldGen d
    let a := replicaBase d g
    let sealed := ld d (a + 80) 8 == ld d (a + 48) 8 && ld d (a + 48) 8 != 0 && ld d a 4 == 0x47495A48 && ld d (a + 28) 1 == 1
    if rb d mTwinStat 51 && sealed then
      let d := setReg d mTwinPrev (rg d mTwinHeld)
      setB (setF (setRegN d mTwinHeld (ld d (a + 16) 8)) mTwinStat 50 1 g) mTwinStat 51 false
    else d

/-- REPLICA_COMPLETE (R395). -/
def execReplicaComplete (src : Nat) (s : State) : Out := onDev s (replicaComplete src)

/-! Packet checks (R415, R420, R421, R426). -/

/-- Parameter bits the ingot commands use. -/
def shardUsed (p : Packet) : List (Nat × Nat) :=
  let op := pkOpcode p
  if op = 0x70 then
    [fieldAt 10 1, (88, 2), fieldAt 12 2, fieldAt 16 8, fieldAt 24 8, (256, 48), fieldAt 48 4, fieldAt 52 4] ++
      (if pbytes p 10 1 = 0 then [(320, 62)] else [(320, 32)]) ++ (if pbits p 11 1 1 = 1 then [(448, 48)] else [])
  else if op = 0x71 then [(88, 1), fieldAt 12 2, (128, 62), fieldAt 24 8, fieldAt 32 8, (320, 48), (368, 48)]
  else if op = 0x72 then [(128, 62), fieldAt 24 8, fieldAt 32 8, (320, 48)]
  else if op = 0x73 then
    let o := pbytes p 10 1
    [fieldAt 10 1] ++ (if o = 0 then [(88, 1), fieldAt 12 2, fieldAt 16 8, fieldAt 24 8, (256, 48)] ++
        (if pbits p 11 0 1 = 1 then [(416, 48)] else [])
      else if o = 1 then [fieldAt 12 2, fieldAt 16 8, fieldAt 24 8, (256, 48), fieldAt 40 8, fieldAt 48 4] else [fieldAt 24 8])
  else []

/-- Whether an ingot command's parameters are in range. -/
def shardInRange (p : Packet) : Bool :=
  let op := pkOpcode p
  let n := pbytes p 12 2
  let nOk := decide (1 ≤ n ∧ n ≤ 4096)
  if op = 0x70 then
    decide (pbytes p 10 1 ≤ 2) && nOk && pbytes p 32 6 % 64 == 0 && (pbytes p 10 1 != 0 || gOff (pbytes p 40 8) % 4096 == 0) &&
      (pbits p 11 1 1 == 0 || pbytes p 56 6 % 8 == 0)
  else if op = 0x71 then nOk
  else if op = 0x73 then
    let o := pbytes p 10 1
    decide (o ≤ 3) && (decide (2 ≤ o) || nOk) && (o != 1 || decide (1 ≤ pbytes p 48 4 ∧ pbytes p 48 4 ≤ 65535)) &&
      (o != 0 || pbits p 11 0 1 == 0 || pbytes p 52 6 % 8 == 0)
  else true

end Sys2Proof.Machine
end

