-- ==== Sys2Proof/Machine/Spans.lean ====
section
/-!
DEFINITION. Machine/Spans.lean: the local memory a command reads and writes, which decides whether it may be issued again on
the spare of a failed tile (R389) and what a tether entry at once leaves undefined (R406).
-/
namespace Sys2Proof.Machine

/-- Operand streams of a chain as (address, length, written). A STATS stream whose init is 0 is read as well (R164). -/
def streamParts (sts : List StageW) (ss : List Stream) (rows cols k : Nat) : List (Nat × Nat × Bool) :=
  ss.zipIdx.flatMap fun (s, i) =>
    if s.kind = 0 then []
    else
      let n := streamLen sts i s rows cols k
      if s.kind = 7 then [(s.addr, n, true)]
      else if s.kind = 9 then [(s.addr, n, true), (s.addr, n, false)]
      else [(s.addr, n, false)]

/-- A range where the node is this package's. -/
def ifMine (d : Dev) (node a n : Nat) (w : Bool) : List (Nat × Nat × Bool) := if node = myNode d then [(a, n, w)] else []

/-- A 64-bit global address field of a packet, as a local range where it is this package's. -/
def globalPart (d : Dev) (p : Packet) (byte n : Nat) (w : Bool) : List (Nat × Nat × Bool) :=
  ifMine d (gNode (pbytes p byte 8)) (gOff (pbytes p byte 8)) n w

/-- Selections of a SHARD_LOAD as written ranges. -/
def selectionParts (d : Dev) (p : Packet) : List (Nat × Nat × Bool) :=
  (descriptors (pbytes p 12 2) (ldBytes d (bits (pbytes p 40 6) 0 48) (128 * pbytes p 12 2))).flatMap fun bs =>
    let e := extOf bs
    e.rows.map fun ix => (e.rowAddr ix, e.rowLen e.last, true)

/-- Local ranges a command touches, as (address, length, written). -/
def cmdParts (d : Dev) (f : Flight) : List (Nat × Nat × Bool) :=
  let p := f.head
  let op := f.op
  let len := bits (pbytes p 32 6) 0 40
  if op = 0x10 then
    let x := copyOf f.q p
    ifMine d x.snode x.src x.len false ++ ifMine d x.dnode x.dst x.len true
  else if op = 0x11 ∨ op = 0x12 then
    let x := gathOf f.q p
    [(x.index, x.iw * x.n, false), (x.dest, x.es * x.n, op == 0x11)] ++
      (upto x.n).flatMap fun j => ifMine d x.node (x.elem d j) x.es (op == 0x12)
  else if op = 0x20 then
    let x := mmaOf f.q p f.cont
    [(x.a, x.aLen, false), (x.b, x.bLen, false), (x.c, x.M * x.ldc, true)] ++
      streamParts (x.pro ++ x.epi) x.streams x.M x.N x.K
  else if op = 0x21 then
    let x := mmaOf f.q p []
    [(x.b, x.bLen, false)]
  else if op = 0x30 then
    let x := vchainOf f.q p f.cont
    [(x.src, matLen x.ifmt x.rows x.lds, false), (x.dst, matLen x.ofmt x.rows x.ldd, true)] ++
      streamParts x.sts x.streams x.rows x.L 0
  else if op = 0x31 ∨ op = 0x32 then
    ((packOf f.q p).regions (op == 0x31)).zipIdx.map fun (r, i) => (r.1, r.2, decide (2 ≤ i))
  else if op = 0x33 then [(pbytes p 16 8, 320, true)]
  else if op = 0x40 then
    ((slvOf f.q p f.cont).regions 0x40).zipIdx.map fun (r, i) => (r.1, r.2, i == 2 || i == 3)
  else if op = 0x42 then
    -- ITERATE starts from what x holds (R217)
    let x := slvOf f.q p f.cont
    (x.regions 0x42).flatMap fun r =>
      if r.1 = x.mat ∨ r.1 = x.rhs then [(r.1, r.2, false)] else [(r.1, r.2, true), (r.1, r.2, r.1 != x.x)]
  else if op = 0x41 then
    ((facOf f.q p f.cont).regions).zipIdx.map fun (r, i) => (r.1, r.2, i == 1 || i == 2 || i == 4)
  else if op = 0x50 then
    [(bits (pbytes p 16 8) 0 48, len, false)] ++ globalPart d p 24 len true ++
      (if pbits p 10 0 1 = 1 then globalPart d p 40 8 true ++ globalPart d p 40 8 false else [])
  else if op = 0x51 then globalPart d p 16 len false ++ [(bits (pbytes p 24 8) 0 48, len, true)]
  else if op = 0x53 then
    let n := bits (pbytes p 36 6) 0 40
    [(bits (pbytes p 16 8) 0 48, n, false)] ++
      (if mcMember (pbytes p 32 2 % 2 ^ 14) (pbytes p 34 2 % 2 ^ 14) (myNode d) then [(bits (pbytes p 24 6) 0 48, n, true)] else [])
  else if op = 0x60 ∨ op = 0x62 then
    match findGrp d (pbytes p 14 2 % 4096) with
    | some g => (descOf d f g.size).ents.flatMap fun e => e.ranges d g (op == 0x62)
    | none => []
  else if op = 0x71 then selectionParts d p
  else if op = 0x80 ∨ op = 0x81 then [(pbytes p 24 6, pbytes p 32 4, op == 0x80)]
  else if op = 0x04 then [(bits (pbytes p 16 8) 0 48, 8, false)]
  else []

/-- Ranges a command reads. -/
def cmdReads (d : Dev) (f : Flight) : List (Nat × Nat) := (cmdParts d f).filterMap fun e => if e.2.2 then none else some (e.1, e.2.1)
/-- Ranges a command writes. -/
def cmdWrites (d : Dev) (f : Flight) : List (Nat × Nat) := (cmdParts d f).filterMap fun e => if e.2.2 then some (e.1, e.2.1) else none

/-- Whether a command has a STATS stage whose init is 0 (R389). -/
def keepsStats (f : Flight) : Bool :=
  let bad (l : List StageW) : Bool := l.any fun s => s.op == 0x15 && s.arg % 2 == 0
  if f.op = 0x20 then let x := mmaOf f.q f.head f.cont; bad (x.pro ++ x.epi)
  else if f.op = 0x30 then bad (vchainOf f.q f.head f.cont).sts
  else false

/-- Whether a command of a failed tile `t` may be issued again (R389). -/
def reissuable (d : Dev) (t : Nat) (f : Flight) : Bool :=
  let store (r : Nat × Nat) : Bool := r.2 != 0 && overlap r.1 r.2 (tileBase + tileSpan * t) tileSpan
  !((cmdReads d f ++ cmdWrites d f).any store) &&
  !((cmdWrites d f).any fun w => (cmdReads d f).any fun r => w.2 != 0 && r.2 != 0 && overlap w.1 w.2 r.1 r.2) &&
  !([0x52, 0x54, 0x03, 0x60, 0x62, 0x61, 0x55, 0x56, 0x70, 0x73].contains f.op) &&
  !(f.op == 0x04 && pbytes f.head 10 1 == 2) && !keepsStats f

/-- `n` bytes from `a` take values nothing constrains (R406, log entry 3). -/
def scramble (a n : Nat) (d : Dev) : Dev :=
  let k := d.draws
  poke a ((upto n).map fun i => BitVec.ofNat 8 (Config.freeValue (k + i))) { d with draws := k + n }

end Sys2Proof.Machine
end

