-- ==== Sys2Proof/Machine/Trouble.lean ====
section
/-!
DEFINITION. Machine/Trouble.lean: faults and their containment (R382 to R390), twins (R391 to R394), lost nodes (R396 to R398),
job launch (R403, R404), tether mode (R405 to R409), references, and the memory system's own events (R270 to R273, R284 to
R287, R482).
-/
namespace Sys2Proof.Machine

/-! Tether mode (R405 to R409). -/

/-- Collectives in flight answer ABORTED detail 1 at once (R406). -/
def abortColls (d : Dev) : Dev :=
  d.colls.insts.foldl (fun d i =>
    match findFlight d i.q i.seq with
    | some f => endColl i 0x02 0x0001 (failCount i f) d
    | none => dropColl i d) d

/-- Units a command stopped at once has written: the prefix its row has recorded. -/
def unitsWritten (d : Dev) (f : Flight) : Nat :=
  if f.op = 0x71 ∨ f.op = 0x72 then f.aux
  else if f.op = 0x10 ∨ f.op = 0x11 ∨ f.op = 0x12 ∨ f.op = 0x50 ∨ f.op = 0x51 ∨ f.op = 0x52 ∨ f.op = 0x53 then f.prog
  else match findColl d f.q f.seq with | some i => i.count | none => 0

/-- Every command in flight answers ABORTED detail 4 and leaves its destination undefined (R406). -/
def stopAtOnce (d : Dev) : Dev :=
  d.flights.foldl (fun d f =>
    if f.waitingNow then
      let n := unitsWritten d f
      let d := (cmdWrites d f).foldl (fun d w => if (badRange d true w.1 w.2).isNone then scramble w.1 w.2 d else d) d
      let d := match findColl d f.q f.seq with | some i => dropColl i d | none => d
      finish f.q f.seq 0x02 0x0004 n (dropOwn f d)
    else d) d

/-- Queues of the package that are not DISABLED. -/
def allLiveQueues (d : Dev) : List Nat := (upto 64).flatMap (liveQueues d)

/-- Entry into tether mode (R406), at a tick or at once; every queue goes to DISABLED as under ABORT. -/
def enterTether (cause : Nat) (atOnce : Bool) (d : Dev) : Dev :=
  if inTether d then d
  else
    let d := setF (setB d mTether 0 true) mTether 2 4 cause
    let d := if atOnce then stopAtOnce d else abortColls d
    let d := (allLiveQueues d).foldl (fun d q => disableQueue q true d) d
    { d with tetherReq := none, twin := { d.twin with arm := none } }

/-- DRAIN_DONE (R407, R408): no replica session of this package is open any more; the stacks power down. -/
def drainDone (d : Dev) : Dev :=
  if inTether d && (findIngot d replicaOwner).isNone then
    forUp (fun st d => modStack st (fun x => { x with parked := true, retrained := false, owed := 0, waitUntil := none }) d) 16 0
      (setB d mTether 6 true)
  else d

/-! References and the P-die (R25, R29 to R31). -/

/-- CLK100_LOST (R25): the PLLs hold over, and tether mode follows at the next tick. -/
def clk100Lost (d : Dev) : Dev :=
  if d.phase == .off then d
  else
    let was := bits d.bridle.refsLost 0 1 == 1
    let d := { (setB d mStatus 0 true) with bridle := { d.bridle with refsLost := putBits d.bridle.refsLost 0 1 1 } }
    if was then d else uncontained 0xA 0 d

/-- CLK100_LOST (R25). -/
def execClk100Lost (s : State) : Out := onDev s clk100Lost

/-- CLK156_LOST (R26): the SerDes PLLs hold over; links stay up and tiles keep running. -/
def clk156Lost (d : Dev) : Dev :=
  if d.phase == .off then d
  else
    let was := bits d.bridle.refsLost 1 1 == 1
    let d := { (setB d mStatus 1 true) with bridle := { d.bridle with refsLost := putBits d.bridle.refsLost 1 1 1 } }
    if was then d else faultRec 0xA 1 0xFF true d

/-- CLK156_LOST (R26). -/
def execClk156Lost (s : State) : Out := onDev s clk156Lost

/-- Whether a Myeles hart still runs (R231). -/
def myelesAlive (d : Dev) : Bool := !rb d pCoreStat 62 || !rb d pCoreStat 63

/-- PDIE_HEARTBEAT (R29, R30, R463): the watch begins anew. -/
def execPdieHeartbeat (s : State) : Out :=
  onDev s fun d => if (running d || d.phase == .wiping) && myelesAlive d then { d with pdieBeat := d.clk.cyc + 1 } else d

/-- PDIE_HEARTBEAT_LOST (R29, R405): 1 ms without a heartbeat since the last; the F-die takes the flash. -/
def pdieLost (d : Dev) : Dev :=
  if d.pdieBeat = 0 ∨ rf d mFlashOwn 0 2 = 1 ∨ d.phase = .off then d
  else
    let d := pass (d.pdieBeat - 1 + 600000 - d.clk.cyc) d
    uncontained 0x9 0xFF (setB (setB (setF d mFlashOwn 0 2 1) mFlashOwn 2 true) mTether 7 true)

/-- PDIE_HEARTBEAT_LOST (R29). -/
def execPdieHeartbeatLost (s : State) : Out := onDev s pdieLost

/-- CORE_FAULT (R231): the core stops and is taken offline; it is not replaced. -/
def coreFault (core : Nat) (d : Dev) : Dev :=
  if 32 ≤ core ∨ !rb d pCoreStat core ∨ rb d pCoreStat (32 + core) then d
  else
    let d := dropAsks (fun a => a.q == hartQ core) (setB d pCoreStat (32 + core) true)
    faultRec 0x6 core 0xFF true (modHart core (fun t => { t with pend := none, resv := none }) d)

/-- CORE_FAULT (R231). -/
def execCoreFault (core : Nat) (s : State) : Out := onDev s (coreFault core)

/-- A_DIE_UNCONTAINED_FAULT (R405). -/
def execADieUncontainedFault (a : Nat) (s : State) : Out :=
  onDev s fun d => if a < 8 ∧ running d then uncontained 0xC a d else d

/-! Tiles and pseudo-channels (R386 to R390). -/

/-- A command of a fenced tile that still completes: it runs on the Anvil engine, or its outcome is decided (R387). -/
def survivesFence (f : Flight) : Bool := (decide (256 ≤ f.eng) && decide (f.eng < 264)) || !f.waitingNow

/-- Collectives of a fenced tile are abandoned: NOTICE with UNREACHABLE to the members, and the same answer here (R390). -/
def abandonColls (t : Nat) (d : Dev) : Dev :=
  d.colls.insts.foldl (fun d i =>
    if qTile i.q = t then
      match findFlight d i.q i.seq, findGrp d i.grp with
      | some f, some g => failColl i f g 0 0x06 0xF (myNode d) d
      | _, _ => dropColl i d
    else d) d

/-- TILE_FAULT (R387): logical tile `tile` of A-die `a` is fenced. -/
def tileFault (a tile : Nat) (d : Dev) : Dev :=
  let t := 8 * a + tile
  if 8 ≤ a ∨ 8 ≤ tile ∨ tileGone d t ∨ !running d then d
  else
    let ph := physTile d t
    let d := faultRec 0x5 t ph true (setB d (aTileStat a) (9 + ph) true)
    let d := abandonColls t d
    let gone := d.flights.filter fun f => qTile f.q == t && !survivesFence f
    let d := gone.foldl (fun d f => dropOwn f d) d
    { d with flights := d.flights.filter (fun f => !(qTile f.q == t && !survivesFence f)), fenced := insUp t d.fenced }

/-- TILE_FAULT (R387). -/
def execTileFault (a tile : Nat) (s : State) : Out := onDev s (tileFault a tile)

/-- State of a pseudo-channel: 0 good, 1 retraining, 2 failed (R386). -/
def pcState (d : Dev) (st pc : Nat) : Nat := tabGet (fun _ => 0) (stackAt d st).pcs pc
def setPc (st pc v : Nat) (d : Dev) : Dev := modStack st (fun x => { x with pcs := tabSet (fun _ => 0) x.pcs pc v }) d

/-- PSEUDO_CHANNEL_FAULT (R386). -/
def pcFault (st pc : Nat) (d : Dev) : Dev :=
  if 16 ≤ st ∨ 32 ≤ pc ∨ retired d st ∨ (stackAt d st).parked ∨ pcState d st pc ≠ 0 ∨ !running d then d
  else faultRec 0x4 st pc true (setPc st pc 1 d)

/-- PSEUDO_CHANNEL_FAULT (R386). -/
def execPseudoChannelFault (st pc : Nat) (s : State) : Out := onDev s (pcFault st pc)

/-- PSEUDO_CHANNEL_RETRAIN_DONE (R386): it counts as one forced refresh of its stack, or the channel is marked failed. -/
def pcRetrainDone (st pc : Nat) (ok : Bool) (d : Dev) : Dev :=
  if 16 ≤ st ∨ pcState d st pc ≠ 1 then d
  else if ok then note 28 0xFFFF 1 (setPc st pc 0 d) else setPc st pc 2 d

/-- PSEUDO_CHANNEL_RETRAIN_DONE (R386). -/
def execPseudoChannelRetrainDone (st pc : Nat) (ok : Bool) (s : State) : Out := onDev s (pcRetrainDone st pc ok)

/-! Twins (R391 to R394). -/

/-- Set M_TWINSTAT.state; a change is written to the lifetime ledger (R392, R484). -/
def setTwin (v : Nat) (d : Dev) : Dev :=
  if twinState d = v then d else ledger 0x0C (twinNode d) (bytesOf 1 v ++ bytesOf 2 (twinNode d)) (setF d mTwinStat 0 3 v)

/-- PAIRING_RECORD (R393): the partner's record decides PAIRED or MISMATCH. The package has sent its own when D0 came up. -/
def pairingRecord (src : Nat) (r : PairRec) (d : Dev) : Dev :=
  if src ≠ twinNode d ∨ r.node ≠ src ∨ d.fab.lost.contains src ∨ !rb d mTwinStat 3 ∨ rf d mLifecycle 0 3 = 3 then d
  else
    let d := setF (setF d mTwinStat 4 14 src) mTwinStat 18 32 r.tm
    let none' := r.held = 2 ^ 64 - 1
    let d := { d with twin := { d.twin with rsize := r.rsize, accepts := r.replicaEn, boots := r.boots,
                                            gen := if none' then none else some (r.genNew % 2) } }
    let d := setRegN d mTwinMine r.held
    if r.tm = (rg d mTouchmark).toNat ∨ (r.mixed ∧ rb d mTwinCfg 0) then setTwin 2 d
    else replicaRun (setTwin 4 d)

/-- PAIRING_RECORD (R393). -/
def execPairingRecord (src : Nat) (rec' : PairRec) (s : State) : Out := onDev s (pairingRecord src rec')

/-- UNPAIRED_TIMEOUT (R394): 10 s after the wipe no partner was found. -/
def unpairedTimeout (d : Dev) : Dev :=
  if !running d ∨ 1 < twinState d then d
  else
    let d := pass (d.wipedAt + 6000000000 - d.clk.cyc) d
    raise (rf d mFaultStat 42 10) (setB (setTwin 3 d) mFaultStat 25 true)

/-- UNPAIRED_TIMEOUT (R394). -/
def execUnpairedTimeout (s : State) : Out := onDev s unpairedTimeout

/-! Losing a package (R56, R396 to R398). -/

/-- Add a suspicion of this frame. -/
def suspect (n by' : Nat) (d : Dev) : Dev :=
  if d.loss.suspects.contains (n, by') then d else { d with loss := { d.loss with suspects := d.loss.suspects ++ [(n, by')] } }

/-- Node at the far end of a port (R294). -/
def portPeer (d : Dev) (p : Nat) : Nat := rf d (fPortStat p) 20 14

/-- Boot count recorded when a node was declared lost (R398). -/
def lostEntry (d : Dev) (n : Nat) : Option Nat :=
  findUp (fun e => rb d (fLostTab e 0) 15 && rf d (fLostTab e 0) 0 14 == n) 64 0

/-- HEARTBEAT (R56, R396, R398): heard on a port in this frame; one that reports tether mode is a suspicion, and one of a listed
node with another boot count speaks for its return. -/
def heartbeat (p : Nat) (hb : Heartbeat) (d : Dev) : Dev :=
  if 16 ≤ p ∨ portState d p ≠ 2 ∨ !brEnable d then d
  else
    let br := d.bridle
    let d := { d with bridle := { br with heard := tabSet (fun _ => 0) br.heard p (frameNum d),
                                          peerMode := tabSet (fun _ => 0) br.peerMode hb.node hb.mode,
                                          peerBoots := tabSet (fun _ => 0) br.peerBoots hb.node hb.boots } }
    let d := if hb.mode ≠ 0 then suspect hb.node (myNode d) d else d
    let d := hb.suspects.foldl (fun d e => suspect e.1 e.2 d) d
    let mine := if (lostEntry d hb.node).isSome then [(hb.node, myNode d, hb.boots)] else []
    { d with loss := { d.loss with back := (mine ++ hb.back).foldl (fun l e => if l.contains e then l else l ++ [e]) d.loss.back } }

/-- HEARTBEAT (R56). -/
def execHeartbeat (p : Nat) (hb : Heartbeat) (s : State) : Out := onDev s (heartbeat p hb)

/-- HEARTBEAT_LOST (R56, R396): the port's bit of F_HBLOST, and the suspicion it sends. -/
def execHeartbeatLost (p : Nat) (s : State) : Out :=
  onDev s fun d =>
    let was := rb d fHbLost p
    let d := heartbeatLost p d
    if !was && p < 16 && rb d fHbLost p then suspect (portPeer d p) (myNode d) d else d

/-- Whether the evidence of this frame declares a node lost: two neighbours, or every neighbour where fewer than two links to it
were up, or its own report of tether mode (R396). -/
def evidence (d : Dev) (n links : Nat) : Bool :=
  tabGet (fun _ => 0) d.bridle.peerMode n != 0 ||
    decide (Nat.max 1 (Nat.min 2 links) ≤ (d.loss.suspects.filter fun e => e.1 == n).length)

/-- NODE_LOST_DECLARE (R396): the declaration is made in Bridle; `links` of the node's links were up at the previous tick. -/
def nodeLostDeclare (n links : Nat) (d : Dev) : Dev :=
  if brEnable d && d.clk.mode == .pod && evidence d n links && !d.fab.lost.contains n then
    { d with loss := { d.loss with declared := insUp n d.loss.declared } }
  else d

/-- NODE_LOST_DECLARE (R396). -/
def execNodeLostDeclare (node links : Nat) (s : State) : Out := onDev s (nodeLostDeclare node links)

/-- List a node in F_LOSTTAB: a free entry, or the oldest (R398). -/
def listLost (n : Nat) (d : Dev) : Dev :=
  let free := findUp (fun e => !rb d (fLostTab e 0) 15) 64 0
  let old := (upto 64).foldl (fun b e => if (rg d (fLostTab e 1)).toNat < (rg d (fLostTab b 1)).toNat then e else b) 0
  let e := free.getD old
  let mode := tabGet (fun _ => 0) d.bridle.peerMode n
  setRegN (setRegN d (fLostTab e 0) (n + 2 ^ 15 + (mode % 4) <<< 16 + (tabGet (fun _ => 0) d.bridle.peerBoots n % 2 ^ 32) <<< 32))
    (fLostTab e 1) (frameNum d)

/-- What a declaration of node `n` does at this package (R397). -/
def nodeLost (n : Nat) (d : Dev) : Dev :=
  let d := listLost n (faultRec 0x8 (n % 256) (n / 256 % 64) true d)
  let d := { d with fab := { d.fab with lost := insUp n d.fab.lost, store := d.fab.store.filter (fun s => s.dst != n),
                                        peers := tabSet peer0 d.fab.peers n (peer0 n), mcin := tabSet (fun _ => []) d.fab.mcin n [],
                                        inq := d.fab.inq.filter (fun x => !(x.src == n && x.dest == myNode d)),
                                        inbox := d.fab.inbox.filter (fun x => x.1 != n) },
                    loss := { d.loss with declared := d.loss.declared.filter (· != n) } }
  -- commands and harts that wait for an answer of the node are refused
  let d := (d.fab.asks.filter fun a => a.dst == n).foldl (fun d a => if d.fab.asks.contains a then refuseAsk a 0x06 n d else d) d
  let mc := d.fab.mcout.filter fun m => m.missing.contains n
  let d := mc.foldl (fun d m => noteRefusal m.q 0x06 n d) d
  let mc := (d.fab.mcout.map fun m => { m with missing := m.missing.filter (· != n) }).filter fun m => !m.missing.isEmpty
  let d := { d with fab := { d.fab with mcout := mc } }
  -- every FENCE that waits on the node answers
  let d := d.flights.foldl (fun d f => if f.op = 0x01 ∧ f.waitingNow then fence f d else d) d
  if n = twinNode d then replicaRun (setTwin 5 d) else d

/-- NODE_LOST_ACTION (R396, R397): a declaration reaches this package; one of its own number leads to tether mode. -/
def nodeLostAction (n : Nat) (d : Dev) : Dev :=
  if !running d ∨ 2 ^ 14 ≤ n then d
  else if n = myNode d then (if inTether d then d else uncontained 0xD 0xFF d)
  else if d.fab.lost.contains n then d
  else nodeLost n d

/-- NODE_LOST_ACTION (R397). -/
def execNodeLostAction (node : Nat) (s : State) : Out := onDev s (nodeLostAction node)

/-- At a tick, entries whose node two neighbours have heard with another boot count are removed (R398); the suspicions of the
frame are done with. -/
def lossTick (d : Dev) : Dev :=
  let back (e : Nat) : Bool :=
    let n := rf d (fLostTab e 0) 0 14
    rb d (fLostTab e 0) 15 &&
      decide (2 ≤ (d.loss.back.foldl (fun l x => if x.1 = n ∧ x.2.2 ≠ rf d (fLostTab e 0) 32 32 then insUp x.2.1 l else l) []).length)
  let es := (upto 64).filter back
  let ns := es.map fun e => rf d (fLostTab e 0) 0 14
  let d := es.foldl (fun d e => setRegN (setRegN d (fLostTab e 0) 0) (fLostTab e 1) 0) d
  { d with fab := { d.fab with lost := d.fab.lost.filter (fun n => !ns.contains n) },
           loss := { d.loss with suspects := [], back := d.loss.back.filter (fun x => !ns.contains x.1) } }

/-! Job launch (R403, R404). -/

/-- Nodes a package sends a launch record to from place `at'` of the tree holding span `left`, as (receiver, place, span): those
of R325, a lost or left-out node's place taken by its proxy (R333, R404). -/
def launchKids (d : Dev) (g : Grp) : Nat → Nat → Nat → List (Nat × Nat × Nat)
  | 0, _, _ => []
  | f + 1, at', left =>
    (((upto 14).reverse.filter (bitAt left)).map fun k =>
      let c := at' ^^^ 2 ^ k
      let r := g.host c
      if r = myNode d then launchKids d g f c (left % 2 ^ k) else [(r, c, left % 2 ^ k)]).flatten

/-- The subcube of a launch with its lost and left-out nodes as absent slots. -/
def launchGrp (d : Dev) (r : LaunchRec) : Grp :=
  ⟨0, 0, true, 0, r.base, r.span, (d.fab.lost ++ r.out).filter (fun n => mcMember r.base r.span n), false, 0, 0⟩

/-- The acknowledgement of a record. -/
def launchAck (r : LaunchRec) : LaunchRec := { r with ack := true, rest := [] }

/-- A package that waits for no child acknowledges to its parents; the root's launch is then complete. -/
def launchSettle (root : Bool) (d : Dev) : Dev :=
  match d.launch.last with
  | some r =>
    if d.launch.waiting.isEmpty then
      { d with launch := { d.launch with parents := [], complete := d.launch.complete || root,
                                         sent := d.launch.sent ++ d.launch.parents.map fun p => (p, launchAck r) } }
    else d
  | none => d

/-- Store a record and send it on down the tree. -/
def launchRelay (src : Nat) (r : LaunchRec) (d : Dev) : Dev :=
  let root := src = myNode d
  let kids := launchKids d (launchGrp d r) 32 r.place r.left
  let d := { d with launch :=
    { last := some r, waiting := kids.map (·.1), parents := if root then [] else [src], complete := false,
      sent := kids.map fun k => (k.1, { r with place := k.2.1, left := k.2.2 }) } }
  launchSettle root d

/-- LAUNCH_RECORD (R403): a record from the parent (or from this root's own Myeles), or the acknowledgement of a child. -/
def launchRecord (src : Nat) (r : LaunchRec) (d : Dev) : Dev :=
  if !running d ∨ d.fab.lost.contains src then d
  else
    let known := match d.launch.last with | some x => x.epoch | none => 0
    if r.ack then
      if r.epoch = known then
        let d := { d with launch := { d.launch with waiting := d.launch.waiting.filter (· != src) } }
        launchSettle (match d.launch.last with | some x => x.place == myNode d && x.left == x.span && d.launch.parents.isEmpty | none => false) d
      else d
    else if known < r.epoch then launchRelay src r d
    else if src = myNode d then d
    else
      -- any other record is dropped and acknowledged again
      launchSettle false { d with launch := { d.launch with parents := insUp src d.launch.parents } }

/-- LAUNCH_RECORD (R403). -/
def execLaunchRecord (src : Nat) (rec' : LaunchRec) (s : State) : Out := onDev s (launchRecord src rec')

/-- LAUNCH_REBROADCAST (R404): at the deadline frame's tick the root, lacking a subtree's acknowledgement, sends the record again
over a tree without the lost and the silent nodes, due three frames later. -/
def launchRebroadcast (silent : List Nat) (d : Dev) : Dev :=
  match d.launch.last with
  | some r =>
    if d.launch.complete ∨ d.launch.waiting.isEmpty ∨ r.place ≠ myNode d ∨ r.left ≠ r.span ∨ frameNum d < r.deadline then d
    else launchRelay (myNode d) { r with out := silent, deadline := frameNum d + 3 } d
  | none => d

/-- LAUNCH_REBROADCAST (R404). -/
def execLaunchRebroadcast (silent : List Nat) (s : State) : Out := onDev s (launchRebroadcast silent)

/-! The far tier (R284, R285). -/

/-- FAR_TIER_PORT_FAIL (R285): a port that goes down is marked failed. -/
def farFail (i : Nat) (d : Dev) : Dev :=
  if 4 ≤ i ∨ !rb d mFarStat i then d
  else faultRec 0x7 i 0xFF true { (setB (setB d mFarStat i false) mFarStat (4 + i) true) with farLost := insUp i d.farLost }

/-- FAR_TIER_PORT_FAIL (R285). -/
def execFarTierPortFail (i : Nat) (s : State) : Out := onDev s (farFail i)

/-- FAR_TIER_PORT_UP (R284): link and device are ready, with the device's capacity in GiB. -/
def farUp (i cap : Nat) (d : Dev) : Dev :=
  if 4 ≤ i ∨ d.phase = .off then d
  else { (setF (setB d mFarStat i true) mFarStat (8 + 12 * i) 12 cap) with farLost := d.farLost.filter (· != i) }

/-- FAR_TIER_PORT_UP (R284). -/
def execFarTierPortUp (i cap : Nat) (s : State) : Out := onDev s (farUp i cap)

/-! Margining (R286). -/

/-- Cells of an eye map a run writes, as byte offsets (R286): mode 0 row v = 16, mode 1 column t = 32, mode 2 all. -/
def eyeCells (mode : Nat) : List Nat :=
  if mode = 0 then (upto 64).map fun t => 2 * (64 * 16 + t)
  else if mode = 1 then (upto 32).map fun v => 2 * (64 * v + 32)
  else (upto 2048).map fun k => 2 * k

/-- MARGIN_DONE (R286): the eye maps are written with the error counts measured, which nothing here determines. -/
def marginDone (a : Nat) (d : Dev) : Dev :=
  let o := aMargCtl a
  if 8 ≤ a ∨ !rb d o 15 then d
  else
    let lane := rf d o 6 7
    let dest := rf d o 17 42 * 64
    let lanes := if lane = 127 then upto 64 else [lane]
    let cells := lanes.flatMap fun l => (eyeCells (rf d o 13 2)).map fun c => dest + 4096 * l + c
    setB (cells.foldl (fun d c => if (badRange d true c 2).isSome ∨ (writeErr d c 2).isSome then d else scramble c 2 d) d) o 15 false

/-- MARGIN_DONE (R286). -/
def execMarginDone (a : Nat) (s : State) : Out := onDev s (marginDone a)

/-! Stacks coming and going (R262, R273, R287, R482). -/

/-- The lines of one stack read as zero, with valid check symbols. -/
def wipeStack (st : Nat) (d : Dev) : Dev :=
  let on (a : Nat) : Bool := match stackOf d a with | some (s, _) => decide (a < 8 * stackSpan) && s == st | none => false
  { d with mem := d.mem.filter (fun e => !on e.1), bad := d.bad.filter (fun l => !on l), weak := d.weak.filter (fun l => !on l) }

/-- The trace region is lost where a stack that holds part of it is parked or retired: enable clears, err sets (R494). -/
def loseTrace (die : Nat) (d : Dev) : Dev :=
  let t := traceRange d
  if rb d mTrcCfg 40 && decide (t.1 < (die + 1) * stackSpan ∧ die * stackSpan < t.2) then
    setB (setB d mTrcCfg 40 false) mTrcCfg 41 true
  else d

/-- STACK_RETRAIN_DONE (R273, R482): a parked stack below 90 degrees, or a retired one, is ready to return. -/
def stackRetrainDone (st : Nat) (d : Dev) : Dev :=
  if 16 ≤ st ∨ !((stackAt d st).parked && decide (rf d (aStackTherm st) 0 8 < 90) && !inTether d || retired d st) then d
  else modStack st (fun x => { x with retrained := true, pcs := [] }) d

/-- STACK_RETRAIN_DONE (R273). -/
def execStackRetrainDone (st : Nat) (s : State) : Out := onDev s (stackRetrainDone st)

/-- A parked stack whose re-training has completed returns at the tick: stage 0, no refresh owed, wiped (R273). -/
def unparkTick (d : Dev) : Dev :=
  forUp (fun st d =>
    let x := stackAt d st
    if x.parked && x.retrained && !inTether d then
      let d := setF (wipeStack st d) (aStackTherm st) 8 2 0
      modStack st (fun _ => { stack0 st with owedAt := d.clk.podT }) d
    else d) 16 0 d

/-- MEMCFG_APPLY (R262, R482): at a tick with no copy session open on the A-die, the written A_MEMCFG comes into force and the
window is wiped; a stack returned was retrained first. -/
def memcfgApply (a : Nat) (d : Dev) : Dev :=
  let o := aMemCfg a
  let t := trackerAt d a
  let was (j : Nat) : Bool := ef d o j 1 == 1
  let back (j : Nat) : Bool := was j && !rb d o j
  if 8 ≤ a ∨ !running d ∨ t.s0.isSome ∨ t.s1.isSome ∨ rf d o 0 2 = ef d o 0 2 ∨
      ((upto 2).any fun j => back j && !(stackAt d (2 * a + j)).retrained) then d
  else
    let d := wipe (a * stackSpan) stackSpan (loseTrace a d)
    (upto 2).foldl (fun d j =>
      let st := 2 * a + j
      if back j then
        ledger 0x07 st (bytesOf 1 st ++ bytesOf 1 1) (modStack st (fun _ => { stack0 st with owedAt := d.clk.podT }) d)
      else if rb d o j && !was j then
        ledger 0x07 st (bytesOf 1 st ++ bytesOf 1 0) (modStack st (fun _ => stack0 st) d)
      else d) (latch d o)

/-- MEMCFG_APPLY (R482). -/
def execMemcfgApply (a : Nat) (s : State) : Out := onDev s (memcfgApply a)

/-- BACKGROUND_WIPE_DONE (R287): what was being wiped has read as zero since the wipe began. -/
def execBackgroundWipeDone (what : Wipe) (s : State) : Out :=
  onDev s fun d => match what with
    | .far => setB d mFarStat 56 false
    | .window _ | .stack _ => d

end Sys2Proof.Machine
end

