-- ==== Sys2Proof/Machine/Power.lean ====
section
/-!
DEFINITION. Machine/Power.lean: sensors (R452 to R456), stack and die thermal stages (R270 to R274, R450), adaptive voltage, the
power cap, the fast guard and overrides (R438 to R451).
-/
namespace Sys2Proof.Machine

/-! Sensors. -/

/-- Mean of the samples of the last `w` ns. -/
def meanW (now w : Nat) (l : List (Nat × Nat)) : Nat :=
  let r := l.filter fun e => decide (now < e.1 + w)
  if r.isEmpty then 0 else r.foldl (fun n e => n + e.2) 0 / r.length

/-! Overrides (R447 to R449). -/

/-- Whether an override is in force. -/
def overrideNow (d : Dev) : Bool :=
  d.pwr.guard || (!d.pwr.idle.isEmpty && !d.pwr.plan) || (upto 10).any fun k => rb d (mRailStat k) 43 || rb d (mRailStat k) 44

/-- A report in M_OVRSTAT and M_OVRFRAME (R448); `active`: the override is in force. -/
def report (cause die stall nframes first : Nat) (active : Bool) (d : Dev) : Dev :=
  let d := setF (setF (setB d mOvrStat 0 (active || rb d mOvrStat 0)) mOvrStat 1 3 cause) mOvrStat 5 4 die
  let d := setF (setF (setB d mOvrStat 4 true) mOvrStat 9 16 (satTo 0xFFFF stall)) mOvrStat 25 16 (satTo 0xFFFF nframes)
  let d := if active then noteFlag 2 d else d
  raise (rf d mPwrPol 12 10) (setRegN d mOvrFrame first)

/-! Core rails (R433, R438 to R440). -/

def vnow (d : Dev) (k : Nat) : Nat := rf d (mRailStat k) 0 10
def vmin (d : Dev) (k : Nat) : Nat := rf d (mRailStat k) 10 10
def vfloor (d : Dev) (k : Nat) : Nat := ef d (mRailPol k) 0 10
def vceil (d : Dev) (k : Nat) : Nat := ef d (mRailPol k) 10 10

/-- Show whether a rail is outside its software bounds. -/
def showRail (k : Nat) (d : Dev) : Dev :=
  setB (setB d (mRailStat k) 43 (decide (vnow d k < vfloor d k))) (mRailStat k) 44 (decide (vceil d k < vnow d k))

/-- Issue on a die's engines is held for `ns` from now. -/
def holdIssue (k ns : Nat) (d : Dev) : Dev :=
  modPwr (fun p => { p with hold := tabMod (fun _ => 0) p.hold k (fun c => Nat.max c (d.clk.cyc + cdiv (ns * 3) 5)) }) d

/-- The monitors give a new estimate, which is not determined (log entry 3); a rail below it is raised at once (R438). -/
def measureRail (k : Nat) (d : Dev) : Dev :=
  let v := drawBelow 301 d
  let d := setF v.2 (mRailStat k) 10 10 (650 + v.1)
  if vnow d k < vmin d k then
    let ns := 1000 * cdiv (vmin d k - vnow d k) 10
    let d := showRail k (holdIssue k ns (setF d (mRailStat k) 0 10 (vmin d k)))
    if rb d (mRailStat k) 44 then report 2 k ns 0 (frameNum d) true d else d
  else d

/-- Target of the loop without a power cap (R438). -/
def railBase (d : Dev) (k : Nat) : Nat := Nat.min (Nat.max (vfloor d k) (vmin d k)) (vceil d k)
/-- Target in force: A-dies are lowered under R443, never below vmin_est. -/
def railTarget (d : Dev) (k : Nat) : Nat :=
  if k < 8 then Nat.max (vmin d k) (railBase d k - tabGet (fun _ => 0) d.pwr.cut k) else Nat.max (vmin d k) (railBase d k)

/-- At most one step of at most 10 mV toward the target, in slack. -/
def stepRail (k : Nat) (d : Dev) : Dev :=
  let v := vnow d k
  let t := railTarget d k
  showRail k (setF d (mRailStat k) 0 10 (if t < v then v - Nat.min 10 (v - t) else v + Nat.min 10 (t - v)))

/-- Move every A-die's target by 10 mV: down to `low` at least, or up to the base (R443). -/
def cutRails (low : Nat → Nat) (d : Dev) : Dev :=
  (upto 8).foldl (fun d k =>
    let t := Nat.max (low k) (railTarget d k - 10)
    modPwr (fun p => { p with cut := tabSet (fun _ => 0) p.cut k (railBase d k - Nat.min (railBase d k) t) }) d) d

/-- The power cap at the start of slack (R443). -/
def capLoop (d : Dev) : Dev :=
  let cap := ef d mPwrPol 0 12
  let avg := if d.pwr.num = 0 then 0 else d.pwr.sum / d.pwr.num
  let d := if decide (20 * rf d mPwrStat 13 12 ≤ 19 * cap) then modPwr (fun p => { p with idleFrom := none }) d else d
  if cap < avg then
    let floor' (k : Nat) : Nat := Nat.max (vfloor d k) (vmin d k)
    if (upto 8).any fun k => decide (floor' k < vnow d k) && decide (vfloor d k < vnow d k) then
      if (upto 8).any fun k => decide (floor' k < railTarget d k) then cutRails floor' d else d
    else if (upto 8).any fun k => decide (vmin d k < railTarget d k) then
      report 1 0xF 0 0 (frameNum d) true (cutRails (vmin d) d)
    else if d.pwr.idleFrom.isSome then d
    else report 3 0xF 0 0xFFFF (frameNum d + 2) false (modPwr (fun p => { p with idleFrom := some (frameNum d + 2) }) d)
  else if 20 * avg < 19 * cap then
    modPwr (fun p => { p with cut := (upto 8).foldl (fun t k => tabMod (fun _ => 0) t k (· - 10)) p.cut }) d
  else d

/-- The voltage and power loops in the slack of a frame (R438, R443). -/
def railSlack (d : Dev) : Dev :=
  let d := (upto 10).foldl (fun d k => measureRail k d) d
  let d := capLoop d
  (upto 10).foldl (fun d k => stepRail k d) d

/-- FAST_GUARD (R444): 20 samples in a row above 2,300 W, or 5 ms above pcap. -/
def fastGuard (d : Dev) : Dev :=
  let long := match d.pwr.overSince with | some t => decide (t + 5000000 ≤ mono d / 24) | none => false
  if !running d ∨ d.pwr.guard ∨ !(decide (20 ≤ d.pwr.overRun) || long) then d
  else
    let d := modPwr (fun p => { p with guard := true }) (setB d mPwrStat 35 true)
    report 5 0xF ((rg d fFrameStart).toNat + periodNs d - podNs d) 1 (frameNum d) true d

/-- FAST_GUARD (R444). -/
def execFastGuard (s : State) : Out := onDev s fastGuard

/-! Stack temperatures (R270 to R274). -/

/-- Every untaken granule of the sessions on a parked stack becomes bad and holds no more writes (R281). -/
def spoilSessions (a : Nat) (d : Dev) : Dev :=
  let spoil (x : Session) : Session :=
    { x with badG := (upto (x.hi - x.lo)).foldl (fun l i => if x.taken.contains (x.lo + i) then l else insUp (x.lo + i) l) x.badG }
  let t := trackerAt d a
  releaseHeld a (setSession a 1 (t.s1.map spoil) (setSession a 0 (t.s0.map spoil) d))

/-- A stack is parked: powered down, its contents lost (R273). -/
def park (st : Nat) (d : Dev) : Dev :=
  spoilSessions (st / 2) (loseTrace (st / 2) <| modStack st (fun x => { x with parked := true, retrained := false, owed := 0, carried := 0, waitUntil := none }) d)

/-- A stage comes into force on a stack. -/
def setStage (st s : Nat) (d : Dev) : Dev :=
  let d := setF d (aStackTherm st) 8 2 s
  let d := if s = 2 then noteBits 32 (2 ^ st) d else d
  if s = 3 ∧ !(stackAt d st).parked then park st d else d

/-- A stack temperature reading, in whole degrees (R271, R274). -/
def stackTemp (st temp : Nat) (d : Dev) : Dev :=
  if retired d st then setF d (aStackTherm st) 0 8 temp
  else
    let f := frameNum d + 1
    let x := stackAt d st
    let stands (s : Nat) : Bool := tabGet (fun _ => 0) x.noticeSince s != 0
    let raise' (s : Nat) : Bool := decide (72 + 10 * s ≤ temp) && !stands s
    let new := (upto 3).any fun i => raise' (i + 1)
    let notice := (upto 3).foldl (fun t i => let s := i + 1
      if raise' s then tabSet (fun _ => 0) t s f else if temp < 70 + 10 * s then tabSet (fun _ => 0) t s 0 else t) x.noticeSince
    let cool := (upto 2).foldl (fun t i => let s := i + 1
      if temp < 70 + 10 * s then (if tabGet (fun _ => 0) t s = 0 then tabSet (fun _ => 0) t s f else t) else tabSet (fun _ => 0) t s 0) x.coolSince
    let d := modStack st (fun x => { x with noticeSince := notice, coolSince := cool }) d
    let top := (upto 3).foldl (fun m i => if tabGet (fun _ => 0) notice (i + 1) ≠ 0 then i + 1 else m) 0
    let o := aStackTherm st
    let d := setF (setF d o 0 8 (satTo 255 temp)) o 10 2 top
    let d := if new then raise (rf d mMemIrq 10 10) (setB d o 12 true) else d
    let em := (upto 3).foldl (fun m i => if 78 + 10 * (i + 1) ≤ temp then i + 1 else m) 0
    if rf d o 8 2 < em ∧ !x.parked then raise (rf d mMemIrq 10 10) (note 34 0xFF 1 (setStage st em (setB d o 13 true))) else d

/-- Stages of the stacks at the tick that starts the current frame (R271, R272). -/
def stackTick (d : Dev) : Dev :=
  forUp (fun st d =>
    let x := stackAt d st
    let o := aStackTherm st
    if x.parked ∨ retired d st then d
    else
      let n := frameNum d
      let up := (upto 3).foldl (fun m i => let v := tabGet (fun _ => 0) x.noticeSince (i + 1)
        if v ≠ 0 ∧ v + 1 ≤ n ∧ 75 + 10 * (i + 1) ≤ rf d o 0 8 then i + 1 else m) 0
      let s := rf d o 8 2
      let cool := tabGet (fun _ => 0) x.coolSince s
      if s < up then setStage st up d
      else if (s = 1 ∨ s = 2) ∧ cool ≠ 0 ∧ cool + 1 ≤ n then setStage st (s - 1) d
      else if s = 2 then noteBits 32 (2 ^ st) d
      else d) 16 0 d

/-! Die temperatures (R450) and readings (R452 to R454). -/

/-- Junction sensors of a die, as (first index, count). -/
def dieSens (k : Nat) : Nat × Nat := if k < 8 then (24 * k, 24) else if k = 8 then (192, 32) else (224, 32)

/-- A thermal cycle counts when the highest junction rises above 70 degrees after having been below 40 (R484). -/
def thermalCycle (k temp : Nat) (d : Dev) : Dev :=
  if temp < 40 then { d with led := { d.led with cold := insUp k d.led.cold } }
  else if 70 < temp ∧ d.led.cold.contains k then
    ledger 0x03 k (bytesOf 1 k) { d with led := { d.led with cold := d.led.cold.filter (· != k), cycles := d.led.cycles + 1 } }
  else d

/-- Stage 1 comes into force on a die. -/
def dieStage (k : Nat) (up : Bool) (d : Dev) : Dev :=
  modPwr (fun p => { p with entered := tabSet (fun _ => 0) p.entered k (if up then frameNum d + 1 else 0) }) (setB d (mRailStat k) 40 up)

/-- The highest junction of a die has been read (R405, R450). -/
def dieTemp (k : Nat) (d : Dev) : Dev :=
  let s := dieSens k
  let temp := (upto s.2).foldl (fun m j => Nat.max m (degrees (sensAt d (s.1 + j)).value)) 0
  let o := mRailStat k
  let d := thermalCycle k temp (setF d o 32 8 (satTo 255 temp))
  let d := { d with led := { d.led with peakJ := Nat.max d.led.peakJ temp } }
  let f := frameNum d + 1
  let stands := tabGet (fun _ => 0) d.pwr.noticed k != 0
  let set (a b : Nat) : Dev → Dev :=
    modPwr fun p => { p with noticed := tabSet (fun _ => 0) p.noticed k a, cooled := tabSet (fun _ => 0) p.cooled k b }
  let d := if 92 ≤ temp then
      let d := set (if stands then tabGet (fun _ => 0) d.pwr.noticed k else f) 0 (setB d o 41 true)
      if stands then d else report 4 k 0 0xFFFF (frameNum d + 2) false d
    else if temp < 90 then
      set 0 (if tabGet (fun _ => 0) d.pwr.cooled k = 0 then f else tabGet (fun _ => 0) d.pwr.cooled k) (setB d o 41 false)
    else set (tabGet (fun _ => 0) d.pwr.noticed k) 0 d
  let d := if 98 ≤ temp ∧ !rb d o 40 then dieStage k true (setB d o 42 true) else d
  if 100 ≤ temp ∧ !inTether d then enterTether 0xB true (faultRec 0xB k 0xFF false d) else d

/-- Die stages at the tick (R450). -/
def dieTick (d : Dev) : Dev :=
  (upto 10).foldl (fun d k =>
    let o := mRailStat k
    let v := tabGet (fun _ => 0) d.pwr.noticed k
    let c := tabGet (fun _ => 0) d.pwr.cooled k
    if !rb d o 40 ∧ v ≠ 0 ∧ v + 1 ≤ frameNum d ∧ 95 ≤ rf d o 32 8 then dieStage k true d
    else if rb d o 40 ∧ c ≠ 0 ∧ c + 1 ≤ frameNum d then dieStage k false d
    else d) d

/-- Setpoint of rail `r` of die `k` (R433). -/
def setpoint (d : Dev) (k r : Nat) : Nat := if r = 0 then vnow d k else if r = 1 then 800 else 750

/-- A rail voltage reading: out of regulation for 100 µs leads to tether mode at once (R405). -/
def railVolt (i v : Nat) (d : Dev) : Dev :=
  let k := (i - 272) / 3
  let r := (i - 272) % 3
  let d := if r = 0 then measureRail k d else d
  if Config.inRegulation (setpoint d k r) v then modPwr (fun p => { p with outSince := tabSet (fun _ => 0) p.outSince i 0 }) d
  else
    let t := tabGet (fun _ => 0) d.pwr.outSince i
    if t = 0 then modPwr (fun p => { p with outSince := tabSet (fun _ => 0) p.outSince i (mono d / 24 + 1) }) d
    else if t - 1 + 100000 ≤ mono d / 24 ∧ !inTether d then enterTether 0xB true (faultRec 0xB k 0xFF false d)
    else d

/-- A rail current reading: the die's power over the last 1 ms, in W (R440). -/
def railCurr (i : Nat) (d : Dev) : Dev :=
  let k := (i - 302) / 3
  let w := (upto 3).foldl (fun n r => n + (sensAt d (272 + 3 * k + r)).value * (sensAt d (302 + 3 * k + r)).value) 0 / 1000000
  let now := mono d / 24
  let l := ((now, w) :: tabGet (fun _ => []) d.pwr.dieW k).filter fun e => decide (now < e.1 + 1000000)
  setF (modPwr (fun p => { p with dieW := tabSet (fun _ => []) p.dieW k l }) d) (mRailStat k) 20 12 (satTo 4095 (meanW now 1000000 l))

/-- An input reading: input power, its averages, and how long it has been too high (R437, R441, R444). -/
def inputPower (d : Dev) : Dev :=
  let now := mono d / 24
  let w := (sensAt d 436).value * (sensAt d 437).value / 1000000
  let l := ((now, w) :: d.pwr.samples).filter fun e => decide (now < e.1 + 100000000)
  let cap := ef d mPwrPol 0 12
  let d := modPwr (fun p =>
    { p with samples := l, sum := p.sum + w, num := p.num + 1, overRun := if 2300 < w then p.overRun + 1 else 0,
             overSince := if cap < w then some (p.overSince.getD now) else none }) d
  let d := setF (setF d mPwrStat 1 12 (satTo 4095 (meanW now 1000000 l))) mPwrStat 13 12 (satTo 4095 (meanW now 100000000 l))
  { d with led := { d.led with energy := d.led.energy + w } }

/-- SENSOR_SAMPLE (R452 to R454): the sensor's next sample, at its interval after the last. -/
def sensorSample (i v : Nat) (d : Dev) : Dev :=
  let iv := sensEvery i
  if iv = 0 ∨ d.phase = .off then d
  else
    let last := (sensAt d i).time
    let d := if last = 0 then d else passTo (24 * (Nat.min last (podNs d) + 1000 * iv)) d
    let d := modPwr (fun p => { p with sens := tabSet sens0 p.sens i ⟨podNs d, v % 2 ^ 32, !locked d⟩ }) d
    if i < 256 then dieTemp (if i < 192 then i / 24 else if i < 224 then 8 else 9) d
    else if i < 272 then
      let t := degrees v
      stackTemp (i - 256) t { d with led := { d.led with peakS := Nat.max d.led.peakS t } }
    else if i < 302 then railVolt i (v % 2 ^ 32) d
    else if i < 332 then railCurr i d
    else if i = 436 then setF d mPwrStat 25 10 (satTo 1023 (v % 2 ^ 32 / 100))
    else if i = 437 then inputPower d
    else if 444 ≤ i then
      { d with led := { d.led with margin := tabMod (fun _ => 0) d.led.margin (i - 444) fun m =>
          let t := v % 65536 + 1; if m = 0 then t else Nat.min m t } }
    else d

/-- SENSOR_SAMPLE (R452). -/
def execSensorSample (i : Nat) (value : Word) (s : State) : Out := onDev s (sensorSample i value.toNat)

/-- One reading goes to the sensor ring, or is counted lost (R455). -/
def putReading (i : Nat) (d : Dev) : Dev :=
  let k := rf d mSensRing 48 5
  if ringFull d mSensPtr 28 k then addSat d mSensPtr 56 8 1
  else
    let a := rf d mSensRing 6 42 * 64 + 16 * (rf d mSensPtr 0 28 % 2 ^ k)
    setF (ringWrite a (sensBytes d i) d) mSensPtr 0 28 (rf d mSensPtr 0 28 + 1)

/-- SENSOR_RECORD (R455): every selected group whose recording interval has passed records one reading per sensor; time moves on
to the first that is due. -/
def sensorRecord (d : Dev) : Dev :=
  if !running d ∨ !rb d mSensRate 26 then d
  else
    let sel := (sensGroups.zipIdx.filter fun e => rb d mSensRate (16 + e.2)).map fun e =>
      (e.2, e.1, tabGet (fun _ => 0) d.pwr.recAt e.2 + 1000 * Nat.max (rf d mSensRate 0 16) e.1.2.2)
    match sel with
    | [] => d
    | x :: t =>
      let first := t.foldl (fun m e => Nat.min m e.2.2) x.2.2
      let d := passTo (24 * first) d
      let due := sel.filter fun e => decide (e.2.2 ≤ podNs d)
      due.foldl (fun d e =>
        let d := modPwr (fun p => { p with recAt := tabSet (fun _ => 0) p.recAt e.1 (podNs d) }) d
        forUp putReading e.2.1.2.1 e.2.1.1 d) d

/-- SENSOR_RECORD (R455). -/
def execSensorRecord (s : State) : Out := onDev s sensorRecord

/-! Idle frames (R445, R446, R449). -/

/-- Whether the idle plan in force idles frame `n`. -/
def planIdles (d : Dev) (n : Nat) : Bool := ef d mIdlePlan 16 1 == 1 && bitAt (ef d mIdlePlan 0 16) (n % 16)

/-- At a tick: idle plans of three frames ago come into force; the A-dies hardware idles in this frame; overrides end (R445 to
R450). -/
def idleTick (d : Dev) : Dev :=
  let n := frameNum d
  let due := d.pwr.planQ.filter fun e => decide (e.1 ≤ n)
  let d := due.foldl (fun d e => { d with eff := tabSet regReset d.eff mIdlePlan (BitVec.ofNat 64 e.2) }) d
  let hot (k : Nat) : Bool :=
    let e := tabGet (fun _ => 0) d.pwr.entered k
    e != 0 && (n + 1 - e) % 2 == 0
  let forPower := match d.pwr.idleFrom with | some f => decide (f ≤ n) && (n - f) % 2 == 0 | none => false
  let idle := (upto 8).filter fun k => forPower || hot k || hot 8
  let d := modPwr (fun p => { p with planQ := p.planQ.filter (fun e => !decide (e.1 ≤ n)), guard := false, plan := planIdles d n,
                                     idle := idle, sum := 0, num := 0 }) d
  let d := (upto 10).foldl (fun d k => showRail k d) d
  let d := setB d mOvrStat 0 (overrideNow d)
  if overrideNow d then noteFlag 2 d else d

/-- Whether engines of A-die `a` may not issue now: an idled frame, the fast guard, or a voltage step (R438, R444, R445). -/
def issueHeld (d : Dev) (a : Nat) : Bool :=
  d.pwr.guard || d.pwr.plan || d.pwr.idle.contains a || decide (d.clk.cyc < tabGet (fun _ => 0) d.pwr.hold a)

end Sys2Proof.Machine
end

