-- ==== Sys2Proof/Machine/Boot.lean ====
section
/-!
DEFINITION. Machine/Boot.lean: power-up, power-down and reset (R434 to R436, R510 to R516), the boot chain (R457 to R467), the
configuration image (R474, R475), signed requests (R468 to R473), live switches (R478 to R480), boundary scan (R521) and the
ledger's periodic records (R484).
-/
namespace Sys2Proof.Machine

/-- PACKAGE_RESET (R511): PKG_RST_N low for `pulse` ns; between 1 and 10 µs it may or may not reset. -/
def execPackageReset (pulse : Nat) (pins : Pins) (s : State) : Out :=
  onDev s fun d =>
    if d.phase = .off ∨ pulse < 1000 then d
    else
      let p := if pulse < 10000 then drawBelow 2 d else (1, d)
      if p.1 = 0 then p.2 else packageReset (modFirm (fun f => { f with pins := pins }) p.2)

/-- POWER_ON (R434): the input reaches 38 V; the rails come up and the boot ROM may run. -/
def execPowerOn (pins : Pins) (s : State) : Out :=
  onDev s fun d =>
    if d.phase = .off then
      setB (resetTo (if pins.testHold then .testHold else .rom) (modFirm (fun f => { f with pins := pins }) d)) mPwrStat 0 true
    else d

/-- TEST_HOLD_RELEASE (R513). -/
def execTestHoldRelease (s : State) : Out := onDev s fun d => if d.phase = .testHold then { d with phase := .rom } else d

/-- POWER_FAIL (R435). -/
def execPowerFail (s : State) : Out := onDev s fun d => if d.phase = .off then d else powerOff false d

/-- DRAIN_DONE (R408, R436, R470). -/
def execDrainDone (s : State) : Out := onDev s fun d => afterDrain (drainDone d)

/-! Configuration (R16, R17, R439, R442, R474, R475). -/

/-- Registers a configuration image may set, in table order (R474). -/
def cfgRegs : List Nat :=
  [fNodeCfg, fChord] ++ (upto 18).map fPortCtl ++ [fBridleCfg, fCollPool] ++ (upto 8).map aTileMap ++ (upto 8).map aMemCfg ++
    [pLlcCfg, mFarCfg, mNumCfg, mTwinCfg] ++ (upto 10).map mRailPol ++ [mPwrPol]

/-- Myeles sets a register from the configuration image, in force at once since no frame has begun. -/
def cfgSet (o : Nat) (v : Word) (d : Dev) : Dev :=
  if (List.map aTileMap (upto 8)).contains o ∧ !tilemapOk v then setB d (o + 8) 18 true
  else match checkedWrite o v d with
  | some d' => d'
  | none =>
    if o = fBridleCfg then bridleWrite v d
    else if o = mNumCfg then setReg d o (wordWrite ((regFields o).getD []) true false .all (rg d o) v).1
    else latch (setReg d o (wordWrite ((regFields o).getD []) true false .all (rg d o) v).1) o

def cfgN (d : Dev) (i a n : Nat) : Nat := natOf (flashBytes d (cfgBase i + a) n)
/-- Hallmark of a copy over its header, with the hallmark as zero, and its entries. -/
def cfgHallmark (d : Dev) (i : Nat) : List Byte :=
  shake256 8 (flashBytes d (cfgBase i) 24 ++ bytesOf 8 0 ++ flashBytes d (cfgBase i + 32) (32 + 16 * cfgN d i 16 4))
/-- Whether a configuration copy is valid (R474). -/
def cfgValid (d : Dev) (i : Nat) : Bool :=
  cfgN d i 0 4 == 0x46435A48 && cfgN d i 4 2 == 1 && decide (cfgN d i 16 4 ≤ 65532) &&
    flashBytes d (cfgBase i + 24) 8 == cfgHallmark d i &&
    (upto (cfgN d i 16 4)).all fun k =>
      let o := cfgN d i (64 + 16 * k) 6
      cfgRegs.contains o && (!(List.map fPortCtl (upto 18)).contains o || bits (cfgN d i (72 + 16 * k) 8) 22 3 == 0)

/-- Tiles an A-die cannot use are replaced by the spare, or by 0xF (R474, R475); `bad` says which. -/
def patchMap (d : Dev) (a : Nat) (bad : Nat → Bool) : Dev :=
  let es := mapEntries (rg d (aTileMap a))
  let usable (p : Nat) : Bool := rb d (aTileStat a) p && !d.firm.deadTiles.contains (a, p)
  let r := es.foldl (fun (acc : List Nat × List Nat) p =>
    if p = 0xF ∨ !bad p then (acc.1 ++ [p], acc.2)
    else match (upto 9).find? (fun q => usable q && !es.contains q && !acc.2.contains q) with
      | some q => (acc.1 ++ [q], acc.2 ++ [q])
      | none => (acc.1 ++ [0xF], acc.2)) ([], [])
  latch (setRegN d (aTileMap a) (r.1.zipIdx.foldl (fun n e => n + e.1 <<< (4 * e.2)) 0)) (aTileMap a)

/-- Myeles applies the configuration image, or factory defaults, and the ledger's health records (R474, R475). -/
def applyConfig (d : Dev) : Dev :=
  let v0 := cfgValid d 0
  let v1 := cfgValid d 1
  let d := if !v0 && !v1 then
      (upto 8).foldl (fun d a => patchMap d a fun p => !rb d (aTileStat a) p) (setB d mStatus 2 true)
    else
      let i := if v0 && (!v1 || decide (cfgN d 1 8 8 ≤ cfgN d 0 8 8)) then 0 else 1
      (upto (cfgN d i 16 4)).foldl (fun d k => cfgSet (cfgN d i (64 + 16 * k) 6) (BitVec.ofNat 64 (cfgN d i (72 + 16 * k) 8)) d)
        (setF d mStatus 3 1 i)
  let d := (upto 8).foldl (fun d a => patchMap d a fun p => d.firm.deadTiles.contains (a, p)) d
  d.firm.deadStacks.foldl (fun d st => latch (setB d (aMemCfg (st / 2)) (st % 2) true) (aMemCfg (st / 2))) d

/-! The boot chain (R458, R462 to R464). -/

/-- Fuses and the boot record are shown in registers (R230, R473, R531). -/
def showFuses (d : Dev) : Dev :=
  let d := setRegN (setRegN d mSerial Config.serial) mBootCnt (d.firm.boots % 2 ^ 32)
  let d := setRegN d mLifecycle (lifeState d + 8 * b2n (okhBlown d) + 16 * b2n (revoked d) + 32 * (d.firm.grant.getD 0 % 64))
  let d := (upto 8).foldl (fun d a => setF d (aTileStat a) 0 9 (Config.goodTiles a)) d
  let d := setB (setB (setF d pCoreStat 0 32 Config.goodCores) (pPcieStat 0) 0 d.firm.pins.root0) (pPcieStat 1) 0 d.firm.pins.root1
  modFirm (fun f => { f with grant := none }) d

/-- The ROM runs the image of slot `s` (R463): Myeles starts and applies the configuration. -/
def runImage (s : Nat) (trial fallback : Bool) (d : Dev) : Dev :=
  let g := slotGet d s
  let d := setRegN d mFwStat (s + 8 * b2n trial + 16 * b2n fallback + imgField g 7 1 <<< 8 + imgField g 8 1 <<< 24)
  let d := showFw d
  let d := setRegN d mTouchmark (Config.romTabRev % 65536 + imgField g 8 1 <<< 16 + stepCode d <<< 28)
  let d := forUp (fun t d => setF d (aChTab t) 0 16 Config.romTabRev) 64 0 d
  let d := applyConfig d
  let d := modFirm (fun f => { f with bootAt := d.clk.cyc }) { d with phase := .wiping }
  ledger 0x01 s (bytesOf 1 s ++ bytesOf 1 (imgField g 7 1) ++ bytesOf 1 (imgField g 8 1) ++ bytesOf 4 (rg d mTouchmark).toNat ++
    bytesOf 1 (if rb d mStatus 2 then 0xFF else rf d mStatus 3 1)) (setB d mFarStat 56 true)

/-- BOOT (R458, R462 to R464). -/
def boot (d : Dev) : Dev :=
  if d.phase ≠ .rom then d
  else
    let first := d.firm.trial.getD d.firm.preferred % 2
    let trial := d.firm.trial.isSome
    let d := showFuses (modFirm (fun f => { f with boots := f.boots + 1, trial := none }) d)
    if slotOk d first then runImage first trial false d
    else if slotOk d (1 - first) then runImage (1 - first) false true d
    else setF (setB { d with phase := .recovery } mStatus 4 true) (pPcieStat 0) 0 1 0

/-- BOOT (R462). -/
def execBoot (s : State) : Out := onDev s boot

/-- BOOT_WATCHDOG (R463): no first heartbeat within 10 s of Myeles's start. -/
def execBootWatchdog (s : State) : Out :=
  onDev s fun d =>
    if (d.phase = .wiping ∨ running d) ∧ d.pdieBeat = 0 then packageReset (pass (d.firm.bootAt + 6000000000 - d.clk.cyc) d) else d

/-- STACK_WIPE_DONE (R61, R287): local frames may begin and doorbells are accepted. -/
def execStackWipeDone (s : State) : Out :=
  onDev s fun d => if d.phase = .wiping then { d with phase := .running, wipedAt := d.clk.cyc, clk := { d.clk with podT := 0 } } else d

/-- RECOVERY_GO (R464, R518): the image in the window is checked, written to slot A, made preferred, and the package resets. -/
def recoveryGo (d : Dev) : Dev :=
  if d.phase ≠ .recovery ∨ rf d pRecovery 28 2 = 1 then d
  else
    let len := rf d pRecovery 0 28
    let get (a n : Nat) : List Byte := (upto n).map fun i => if a + i < slotSize then tabGet memRest d.firm.window (a + i) else 0
    if imageOk d get ∧ imgField get 12 4 ≤ len then
      let d := modFirm (fun f => { f with preferred := 0, slotBusy := none })
        (flashPut (slotBase 0) (get 0 (Nat.min len slotSize)) (setF d pRecovery 28 2 3))
      packageReset d
    else setF d pRecovery 28 2 2

/-- RECOVERY_GO (R518). -/
def execRecoveryGo (s : State) : Out := onDev s recoveryGo

/-- FDIE_CONTROLLER_RESTART (R479): refused while the F-die owns the flash; in a live switch the tiles come next. -/
def execFdieControllerRestart (s : State) : Out :=
  onDev s fun d =>
    if !running d ∨ rf d mFlashOwn 0 2 = 1 then d
    else modFirm (fun f => { f with live := if f.live = some 0 then some 1 else f.live }) d

/-- At the start of slack one tile takes the new microcode, unless a bound command of it runs; with the last tile the new slot
becomes running and preferred (R478, R480). `live` = 1 + the next logical tile. -/
def liveSlack (d : Dev) : Dev :=
  match d.firm.live with
  | some (k + 1) =>
    if inTether d then d
    else
      let t := (findUp (fun t => !tileGone d t) (64 - k) k).getD 64
      let d := if t < 64 then
          if d.flights.any fun f => f.bound && qTile f.q == t && f.waitingNow then modFirm (fun f => { f with live := some (t + 1) }) d
          else modFirm (fun f => { f with live := some (t + 2) })
            (modPwr (fun p => { p with hold := tabSet (fun _ => 0) p.hold (16 + t) (d.clk.cyc + 1200) }) d)
        else d
      match d.firm.live with
      | some n =>
        if (findUp (fun t => !tileGone d t) (65 - n) (n - 1)).isSome then d
        else
          let s := otherSlot d
          let g := slotGet d s
          let d := modFirm (fun f => { f with live := none, preferred := s }) d
          let d := setB (setF d mFwStat 0 1 s) mFwStat 5 false
          fwRecord 5 (showFw (setF (setF d mFwStat 8 8 (imgField g 7 1)) mFwStat 24 8 (imgField g 8 1)))
      | none => d
  | _ => d

/-- SLOT_WRITE (R467): Myeles writes `len` bytes from `addr` at offset `off` of the slot that is not running; with the last piece
the slot can pass R462 again. -/
def slotWrite (addr len off : Nat) (last : Bool) (d : Dev) : Dev :=
  if !running d ∨ rf d mFlashOwn 0 2 = 1 ∨ rb d mFwStat 5 ∨ slotSize < off + len ∨ (badRange d false addr len).isSome then d
  else match readErr d addr len with
  | some e => myelesLog e d
  | none =>
    let d := myelesRead addr len d
    let s := otherSlot d
    let d := modFirm (fun f => { f with slotBusy := some s, trial := if f.trial = some s then none else f.trial }) d
    let d := flashPut (slotBase s + off) (ldBytes d addr len) d
    showFw (if last then modFirm (fun f => { f with slotBusy := none }) d else d)

/-- SLOT_WRITE (R467). -/
def execSlotWrite (addr len off : Nat) (last : Bool) (s : State) : Out := onDev s (slotWrite addr len off last)

/-! PCIe links and boundary scan (R515, R516, R521). -/

/-- PCIE_PERST (R515): on an endpoint only the port's link and configuration space are reset. -/
def execPciePerst (p : Nat) (s : State) : Out :=
  onDev s fun d => if p < 2 ∧ d.phase ≠ .off ∧ !rb d (pPcieStat p) 0 then setF d (pPcieStat p) 1 10 0 else d

/-- PCIE_LINK_UP (R516). -/
def execPcieLinkUp (p width rate : Nat) (sris : Bool) (s : State) : Out :=
  onDev s fun d =>
    if p < 2 ∧ d.phase ≠ .off ∧ d.phase ≠ .testHold then
      setB (setF (setF (setB d (pPcieStat p) 1 true) (pPcieStat p) 2 5 width) (pPcieStat p) 7 3 rate) (pPcieStat p) 10 sris
    else d

/-- PCIE_LINK_DOWN (R516). -/
def execPcieLinkDown (p : Nat) (s : State) : Out :=
  onDev s fun d => if p < 2 then setF (setB d (pPcieStat p) 1 false) (pPcieStat p) 2 9 0 else d

/-- The TAP's data register after IDCODE, beside its instruction register. -/
def tapDr : Nat := 0x10FFFE8

/-- TAP_INSTRUCTION (R472, R521). The instruction register holds what acts: a code that acts as BYPASS is held as BYPASS. -/
def execTapInstruction (ir : BitVec 8) (s : State) : Out :=
  let d := s.dev
  let c := ir.toNat
  if d.phase = .off then onDev s fun d => d
  else if 0x80 ≤ c ∧ c ≤ 0xFE ∧ rb d mLifecycle 8 then .refused .privateTap
  else onDev s fun d =>
    if c = 0x01 then setRegN (setRegN d tapIr 1) tapDr (0x016405AB + stepCode d <<< 28)
    else if c = 0x02 ∨ (c = 0x00 ∧ d.phase = .testHold) then setRegN d tapIr c
    else setRegN d tapIr 0xFF

/-! Periodic ledger records (R484). -/

/-- LEDGER_SUMMARY (R484): the hour's summary with the lifetime totals. -/
def execLedgerSummary (s : State) : Out :=
  onDev s fun d =>
    if !(running d || d.phase == .wiping) then d
    else
      let l := d.led
      let d := ledger 0x02 0 (bytesOf 8 (l.secs + d.clk.cyc / 600000000) ++ bytesOf 8 (l.energy / 3600000000) ++ bytesOf 4 l.cycles ++
        bytesOf 4 d.firm.boots ++ bytesOf 2 l.peakJ ++ bytesOf 2 l.peakS) d
      { d with led := { d.led with peakJ := 0, peakS := 0 } }

/-- First fabric lane of an external port (R505). -/
def firstLane (p : Nat) : Nat := sumUp portLanes p 0

/-- DAILY_LEDGER_RECORD (R484): stack errors of every stack and lane margins of every port. -/
def execDailyLedgerRecord (s : State) : Out :=
  onDev s fun d =>
    if !(running d || d.phase == .wiping) then d
    else
      let d := forUp (fun st d =>
        let mask := (upto 32).foldl (fun n pc => if pcState d st pc = 2 then n + 2 ^ pc else n) 0
        ledger 0x04 st (bytesOf 8 (tabGet (fun _ => 0) d.led.ce st) ++ bytesOf 8 (tabGet (fun _ => 0) d.led.ue st) ++ bytesOf 4 mask) d) 16 0 d
      let d := forUp (fun p d =>
        ledger 0x05 p ((upto (portLanes p)).map fun i =>
          BitVec.ofNat 8 (satTo 255 (tabGet (fun _ => 0) d.led.margin (firstLane p + i) - 1))) d) 18 0 d
      { d with led := { d.led with ce := [], ue := [], margin := [] } }

end Sys2Proof.Machine
end

