-- ==== Sys2Proof/Machine/Issue.lean ====
section
/-!
DEFINITION. Machine/Issue.lean: the checks a sequencer makes before it issues a command (R63, R77 to R80), the choice of the next
command (R87 to R89), and the end of a command (R45, R81 to R84, R380).
-/
namespace Sys2Proof.Machine

/-! Packet checks (R76 to R80). -/

/-- Parameter bits an opcode uses, as (bit, width); the rest are reserved. -/
def usedBits (p : Packet) : List (Nat × Nat) :=
  let op := pkOpcode p
  if op ≤ 0x06 then seqUsed op
  else if op ≤ 0x13 then moverUsed op
  else if op ≤ 0x21 then planishUsed op
  else if op ≤ 0x33 then chaserUsed op
  else if op ≤ 0x42 then anvilUsed op
  else if op ≤ 0x56 then remoteUsed p
  else if op ≤ 0x62 then collUsed p
  else if op ≤ 0x73 then shardUsed p
  else if op = 0x80 ∨ op = 0x81 then [(128, 48), (192, 48), fieldAt 32 4]
  else if op = 0x82 then [fieldAt 10 1]
  else [fieldAt 10 2, fieldAt 16 16]

/-- Whether every reserved field of a head packet is zero: flag 7, the frame selector of an unbound command, unused parameter bits
(R76, R78). -/
def headClean (p : Packet) : Bool :=
  let used := (usedBits p).foldl (fun m e => m ||| ((2 ^ e.2 - 1) <<< e.1)) 0
  pbits p 1 7 1 == 0 && (pkBind p != 0 || pkFrame p == 0) && ((p.toNat >>> 80) ||| (used >>> 80)) == used >>> 80

/-- Reserved fields that depend on other fields, and those of continuation packets. -/
def bodyClean (q : Nat) (p : Packet) (cont : List Packet) : Bool :=
  let op := pkOpcode p
  if op = 0x13 then invalClean p
  else if op = 0x20 then mmaClean (mmaOf q p cont) p
  else if op = 0x30 then vchainClean (vchainOf q p cont)
  else if op = 0x31 ∨ op = 0x32 then packClean p
  else if op = 0x40 ∨ op = 0x42 then slvClean (slvOf q p cont) op p
  else if op = 0x41 then facClean (facOf q p cont)
  else true

/-- Whether the buffer of an MREAD or MWRITE lies where R530 allows it: stacked memory, or a tile-store window. -/
def mrwPlace (d : Dev) (a n : Nat) : Bool :=
  inStacks d a n ||
    (decide (tileBase ≤ a ∧ a < fBuf) && decide ((a - tileBase) % tileSpan + n ≤ tilePop))

/-- Whether the parameters of an MREAD or MWRITE are in range (R530). For a management request a buffer at 0 is the datagram's data
area: as many bytes as it carries, or 4,096 for data to come back (R520). -/
def mrwInRange (d : Dev) (q : Nat) (p : Packet) : Bool :=
  let a := pbytes p 16 6
  let n := pbytes p 32 4
  let area := match mgmtJob d q (pkSeq p) with
    | some j => if pbytes p 24 6 = 0 then some (if pkOpcode p = 0x80 then 4096 else j.area.length) else none
    | none => none
  decide (ctrlBase ≤ a ∧ a < ctrlEnd) && a % 8 == 0 && pbytes p 24 6 % 8 == 0 && n % 8 == 0 && decide (8 ≤ n ∧ n ≤ 65536) &&
    (match area with | some k => decide (n ≤ k) | none => mrwPlace d (pbytes p 24 6) n)

/-- Opcodes that take continuation packets (R77). -/
def takesMore (op : Nat) : Bool := [0x20, 0x30, 0x40, 0x41, 0x42].contains op

/-- Whether an opcode's parameters and number of packets are in range (detail 6 otherwise). -/
def bodyInRange (d : Dev) (q : Nat) (p : Packet) (cont : List Packet) : Bool :=
  let op := pkOpcode p
  let npkt := 1 + cont.length
  (takesMore op || npkt == 1) &&
  (if op ≤ 0x06 then seqInRange d p
   else if op = 0x10 then copyInRange q p
   else if op ≤ 0x12 then gathInRange p
   else if op = 0x13 then invalInRange p
   else if op = 0x20 then mmaInRange d (mmaOf q p cont) npkt && (pkMore p || npkt == 1)
   else if op = 0x21 then wloadInRange d (mmaOf q p [])
   else if op = 0x30 then vchainInRange d (vchainOf q p cont) npkt
   else if op ≤ 0x32 then packInRange d q p
   else if op = 0x33 then histoInRange p
   else if op = 0x40 ∨ op = 0x42 then slvInRange d (slvOf q p cont) op npkt
   else if op = 0x41 then facInRange d (facOf q p cont) npkt
   else if op ≤ 0x56 then remoteInRange p
   else if op ≤ 0x62 then collInRange d p
   else if op ≤ 0x73 then shardInRange p
   else if op = 0x80 ∨ op = 0x81 then mrwInRange d q p
   else if op = 0x82 then decide (pbytes p 10 1 ≤ 2)
   else true)

/-! SCHEDULED commands (R55, R63, R313, R321, R352). -/

/-- Node a fabric command sends to past the plan's slots; none for a wait, an enclosure or this node. -/
def slotDest (d : Dev) (p : Packet) : Option Nat :=
  let op := pkOpcode p
  let n :=
    if op = 0x50 ∨ op = 0x52 then some (gNode (pbytes p 24 8))
    else if op = 0x51 ∨ op = 0x54 then some (gNode (pbytes p 16 8))
    else if op = 0x55 ∧ pbytes p 10 1 = 0 then some (bits (pbytes p 24 8) 16 14)
    else none
  n.filter (· != myNode d)

/-- Entries of the active plan's flow table a command uses: by queue and destination; an MCAST by queue; a collective by group. -/
def flowsOf (d : Dev) (q : Nat) (p : Packet) : List Nat :=
  let img := d.plans.active
  let op := pkOpcode p
  if rf d fPlanStat 0 32 = 0 then []
  else (upto (flowCount img)).filter fun i =>
    if op = 0x60 ∨ op = 0x62 then flowField img i 6 2 % 4096 == pbytes p 14 2 % 4096
    else if op = 0x61 then flowField img i 6 2 % 4096 == pbytes p 12 2 % 4096
    else if op = 0x53 then flowField img i 2 2 == q
    else flowField img i 2 2 == q && some (flowField img i 4 2 % 2 ^ 14) == slotDest d p

/-- Whether a command of a SCHEDULED queue sends in slots. -/
def usesSlots (d : Dev) (p : Packet) : Bool :=
  let op := pkOpcode p
  pkClass p == 0 && ((slotDest d p).isSome || op == 0x53 || op == 0x60 || op == 0x61 || op == 0x62)

/-- Flits that carry `n` bytes toward offset `dst`, one message to a page (R304, R314). -/
def flitsFor (dst n : Nat) : Nat :=
  let head := Nat.min n (toPage dst)
  let rest := n - head
  flitCount head + rest / 4096 * flitCount 4096 + (if rest % 4096 = 0 then 0 else flitCount (rest % 4096))

/-- Flit bytes a command sends, which a plan counts in its slots. -/
def slotBytes (p : Packet) : Nat :=
  let op := pkOpcode p
  let len := bits (pbytes p 32 6) 0 40
  128 * (if op = 0x50 then flitsFor (gOff (pbytes p 24 8)) len
    else if op = 0x51 then cdiv (gOff (pbytes p 16 8) % 4096 + len) 4096
    else if op = 0x52 then flitsFor (gOff (pbytes p 24 8)) (rredBytes (pbytes p 10 1) (pbytes p 12 4))
    else if op = 0x53 then flitsFor (pbytes p 24 6) (bits (pbytes p 36 6) 0 40)
    else if op = 0x55 then 1 + flitsFor 0 (bits (pbytes p 32 6) 0 32)
    else 1)

/-- Slots of a flow in a frame, as (first cycle, end), in order. -/
def flowSlots (d : Dev) (fl : List Nat) : List (Nat × Nat) :=
  let img := d.plans.active
  let g := geoOf d
  (upto g.slotCount).filterMap fun s =>
    if (mapPorts img).any fun p => fl.contains (slotOwner img p s) then
      some (6 * (g.exchStart + s * g.slotLen), 6 * (g.exchStart + (s + 1) * g.slotLen)) else none

/-- Predicted finish of a SCHEDULED command in cycles of the frame: the end of the last slot it needs (R43, R321), for a collective
the end of its group's last slot (R352). -/
def slotFinish (d : Dev) (q : Nat) (p : Packet) : Nat :=
  let fl := flowsOf d q p
  let ss := flowSlots d fl
  let op := pkOpcode p
  let now := frameCycle d
  if op = 0x60 ∨ op = 0x61 ∨ op = 0x62 then Nat.max now (ss.foldl (fun m s => Nat.max m s.2) 0)
  else
    let per := match fl with | i :: _ => flowField d.plans.active i 8 4 | [] => 0
    let k := if per = 0 then 1 else Nat.max 1 (cdiv (slotBytes p) per)
    let cur := ss.filter fun s => decide (now ≤ s.1)
    if ss.isEmpty then now
    else if k ≤ cur.length then (cur.getD (k - 1) (0, now)).2
    else
      let r := k - cur.length - 1
      (ss.getD (r % ss.length) (0, 0)).2 + (r / ss.length + 1) * 6 * (geoOf d).period

/-! What issuing a command does. -/

/-- Management-only commands (R80). -/
def mgmtOnly (p : Packet) : Bool :=
  [0x73, 0x80, 0x81, 0x82].contains (pkOpcode p) || ((pkOpcode p == 0x05 || pkOpcode p == 0x06) && pbytes p 13 1 != 0)

/-- Why a command is refused before it executes (R77 to R80): the lowest detail of BAD_PACKET, else of NOT_PERMITTED. `bad`: a
continuation breaks R77. -/
def packetRefusal (d : Dev) (q : Nat) (p : Packet) (cont : List Packet) (bad : Bool) : Option (Nat × Nat) :=
  match engineOf (qTile q) (pkOpcode p) with
  | none => some (0x0D, 0x0001)
  | some e =>
    if !headClean p || !bodyClean q p cont then some (0x0D, 0x0002)
    else if pkClass p ≠ qClass d q then some (0x0D, 0x0003)
    else if bad then some (0x0D, 0x0004)
    else if !bodyInRange d q p cont || (pkOpcode p == 0x20 && mmaHistTwice (mmaOf q p cont) p) then some (0x0D, 0x0006)
    else if !qMgmt d q && mgmtOnly p then some (0x0E, 0x0001)
    else if d.disabled.contains e then some (0x0E, 0x0003)
    else if usesSlots d p && (flowsOf d q p).isEmpty then some (0x0E, 0x0005)
    else if usesSlots d p && !locked d then some (0x0E, 0x0006)
    else none

/-- Predicted cycles of a command (R43): the formula of its chapter; waits, and what gives none, are predicted at zero. -/
def predicted (d : Dev) (q : Nat) (p : Packet) (cont : List Packet) : Nat :=
  let op := pkOpcode p
  if op = 0x10 then copyPred d q p
  else if op = 0x11 ∨ op = 0x12 then gathPred d q p
  else if op = 0x13 then invalPred p
  else if op = 0x20 then mmaPred d (mmaOf q p cont)
  else if op = 0x21 then wloadPred (mmaOf q p [])
  else if op = 0x30 then vchainPred (vchainOf q p cont)
  else if op = 0x31 ∨ op = 0x32 then packPred q p
  else if op = 0x33 then 8
  else if op = 0x40 ∨ op = 0x42 then slvPred (slvOf q p cont) op
  else if op = 0x41 then facPred (facOf q p cont)
  else 0

/-- A command about to be issued, before its binding is judged. -/
def newFlight (d : Dev) (q seq : Nat) (p : Packet) (cont : List Packet) : Flight :=
  ⟨q, seq, 1 + cont.length, p, cont, d.clk.cyc, pkBind p != 0, frameNum d, none, 0, [], 0, .waiting, 0, 0, [], []⟩

/-- Stacks the operands of a command lie in (R46, R50). -/
def stacksOf (d : Dev) (f : Flight) : List Nat :=
  (cmdParts d f).foldl (fun l e =>
    if e.2.1 = 0 then l
    else
      let l := match stackOf d e.1 with | some (s, _) => if inStack e.1 then insUp s l else l | none => l
      let z := e.1 + e.2.1 - 1
      let l := match stackOf d z with | some (s, _) => if inStack z then insUp s l else l | none => l
      let y := e.1 + 256
      if e.1 + e.2.1 ≤ y then l
      else match stackOf d y with | some (s, _) => if inStack y then insUp s l else l | none => l) []

/-- The binding of a command judged now (R43). -/
def judge (d : Dev) (f : Flight) (pred : Nat) : Bound :=
  if !f.bound then .start none d.clk.cyc
  else judgeBound d f.eng (pkBind f.head) (pkFrame f.head) pred (stacksOf d f)
    (if usesSlots d f.head then some (slotFinish d f.q f.head) else none)

/-- Frame a command is bound to, or waits for. -/
def frameOf (d : Dev) (p : Packet) : Nat :=
  let sel := if pkOpcode p = 0x02 then pbytes p 10 2 else pkFrame p
  ((frameNum d : Int) + frameDist d sel).toNat

/-- A command starts: it is in flight from now on (R43, R87). A WAITSEM keeps the time of its issue (R93), a TICKWAIT whether its
cycle had passed (R91). -/
def startFlight (f : Flight) (pred : Nat) (deadline : Option Nat) (fin : Nat) (d : Dev) : Dev :=
  let p := f.head
  let tgt := frameOf d p
  let passed := decide (tgt < frameNum d) ||
    (tgt == frameNum d && d.clk.mode != .waiting && decide (d.clk.cyc0 + pbytes p 12 4 < d.clk.cyc))
  let f := { f with
    frame := if f.bound ∨ f.op = 0x02 then tgt else frameNum d, deadline := deadline, predEnd := fin,
    stks := if f.bound then stacksOf d f else [],
    aux := if f.op = 0x04 then mono d else if f.op = 0x02 then b2n passed else 0 }
  let d := { d with flights := d.flights ++ [f] }
  let d := if f.bound then setReserved f.eng fin d else d
  traceStart f (if f.bound && usesSlots d p then fin - d.clk.cyc else pred) d

/-- A command is answered without being executed (R44, R78, R389): its replies, its END, its notify; a holding code holds the queue.
`never`: it had not been started before. -/
def refuseCmd (q seq : Nat) (p : Packet) (npkt status detail : Nat) (never : Bool) (d : Dev) : Dev :=
  let e := (engineOf (qTile q) (pkOpcode p)).getD (512 + qTile q)
  let d := writeReplies q seq npkt (pkTag p) status detail 0 true d
  let d := traceEnd q seq e (pkTag p) (pkOpcode p) (pkClass p) status detail 0 never d
  let d := countCmd e (if pkNotify p then notify q d else d)
  if status = 3 then note 40 0xFFFF 1 d else d

/-! The choice of a command (R87 to R89, R445). -/

/-- What the head of a queue would do if its context were served. -/
inductive Ready where
  | no
  | refuse (pkts : List Packet) (status detail : Nat)
  | start (pkts : List Packet) (pred : Nat) (deadline : Option Nat) (fin : Nat)
  deriving DecidableEq, Repr

/-- Whether a command of the queue blocks every later packet (R89, R90). -/
def queueBlocked (d : Dev) (q : Nat) : Bool :=
  d.flights.any fun f => f.q == q && f.waitingNow && (f.op == 0x01 || f.op == 0x02 || f.op == 0x04)

/-- Whether an engine can accept a command (R87): a serial engine takes an unbound one only when it holds none, a bound one once
earlier commands of its queue there are done. -/
def accepts (d : Dev) (f : Flight) : Bool :=
  !serialEngine f.eng || !(d.flights.any fun g => g.eng == f.eng && g.waitingNow && (!f.bound || g.q == f.q))

/-- Whether issue to an engine is held: an idled frame, the fast guard, a voltage step, or new microcode (R438, R444, R445, R480). -/
def engineHeld (d : Dev) (t e : Nat) : Bool :=
  (decide (e < 264) && issueHeld d (t / 8)) || decide (d.clk.cyc < tabGet (fun _ => 0) d.pwr.hold (16 + t))

/-- Judge the head command of queue `q`. -/
def readyAt (d : Dev) (q : Nat) : Ready :=
  if qState d q ≠ 1 ∨ queueBlocked d q then .no
  else match parseHead d q with
    | .command (p :: cont) bad =>
      let seq := qHead d q
      if (pkWait p || pkOpcode p == 0x03) && qRetire d q != seq then .no
      else match packetRefusal d q p cont bad with
        | some (st, det) => .refuse (p :: cont) st det
        | none =>
          let f := newFlight d q seq p cont
          if engineHeld d (qTile q) f.eng || !accepts d f then .no
          else
            let n := predicted d q p cont
            match judge d f n with
            | .wait => .no
            | .late det => .refuse (p :: cont) 3 det
            | .start dl fin => .start (p :: cont) n dl fin
    | _ => .no

/-- Round-robin: the first ready queue after the one served last in the class, else the lowest (R87). -/
def pickOf (last : Nat) (l : List (Nat × Ready)) : Option (Nat × Ready) :=
  match l.find? fun e => decide (last < e.1 + 1) with
  | some e => some e
  | none => l.head?

/-- The context tile `t` serves in this cycle: by class in the order SCHEDULED, COLLECTIVE, BULK, MANAGEMENT, then round-robin. -/
def choose (d : Dev) (t : Nat) : Option (Nat × Ready) :=
  let rs := ((liveQueues d t).map fun q => (q, readyAt d q)).filter fun e => e.2 != .no
  (upto 4).findSome? fun c => pickOf (tabGet (fun _ => 0) d.rr (4 * t + c)) (rs.filter fun e => qClass d e.1 == c)

/-- PACKET_ISSUE (R87): one command of tile `t` is issued, or refused. -/
def packetIssue (t : Nat) (d : Dev) : Dev :=
  if 64 ≤ t ∨ !running d ∨ inTether d ∨ tileGone d t ∨ retraining d then d
  else match choose d t with
    | none => d
    | some (q, r) =>
      let d := { d with rr := tabSet (fun _ => 0) d.rr (4 * t + qClass d q) (q + 1) }
      let seq := qHead d q
      match r with
      | .refuse (p :: cont) st det =>
        refuseCmd q seq p (1 + cont.length) st det true (setHead q (seqAdd seq (1 + cont.length)) (ringRead q (1 + cont.length) seq d))
      | .start (p :: cont) n dl fin =>
        startFlight (newFlight d q seq p cont) n dl fin
          (setHead q (seqAdd seq (1 + cont.length)) (ringRead q (1 + cont.length) seq d))
      | _ => d

/-- PACKET_ISSUE (R87). -/
def execPacketIssue (t : Nat) (s : State) : Out := onDev s (packetIssue t)

/-! The end of a command (R45, R81 to R84, R380). -/

/-- Mark the frame a late command belongs to: its target frame's record, or, where that has been written, the current one.
`reply`: its reply says LATE. -/
def markLate (f : Flight) (reply : Bool) (past : Nat) (d : Dev) : Dev :=
  let own := d.frecs.any fun r => r.frame == f.frame && !r.due
  let n := if own then f.frame else frameNum d
  frecMod n (fun r =>
    let r := { r with flags := r.flags ||| (if own then 1 else 33) }
    if reply then { (frecAdd 38 0xFFFF 1 r) with cnt := tabMod (fun _ => 0) (frecAdd 38 0xFFFF 1 r).cnt 44 fun x => Nat.max x past } else r) d

/-- COMMAND_COMPLETION (R82): a command whose outcome is decided, with no write of it held, is answered. -/
def complete (q seq : Nat) (d : Dev) : Dev :=
  match findFlight d q seq with
  | some f =>
    match f.stage with
    | .done st det n =>
      if hasHeld d q seq then d
      else
        let past := match f.deadline with | some c => d.clk.cyc - c | none => 0
        let late := 0 < past
        let code := if late ∧ st = 0 then 4 else st
        let d := if late then markLate f (decide (st = 0)) past d else d
        let d := if f.bound ∧ reservedUntil d f.eng = f.predEnd ∧ d.clk.cyc < f.predEnd then setReserved f.eng d.clk.cyc d else d
        let d := { d with flights := d.flights.filter fun g => !g.is q seq }
        let d := writeReplies q seq f.npkt (pkTag f.head) code det n true d
        let d := traceEnd q seq f.eng (pkTag f.head) f.op (pkClass f.head) code det n false d
        let d := countCmd f.eng (if pkNotify f.head then notify q d else d)
        settleEngine f.eng (settleQueue q (dropIngot (cmdId q seq) d))
    | .waiting => d
  | none => d

/-- COMMAND_COMPLETION (R82). -/
def execCommandCompletion (q seq : Nat) (s : State) : Out := onDev s (complete q seq)

end Sys2Proof.Machine
end

