-- ==== Sys2Proof/Machine/Frames.lean ====
section
/-!
DEFINITION. Machine/Frames.lean: the frame tick with every change that takes effect at one (R16 to R19, R32 to R39, R61, R62, R260,
R365, R366, R388, R389, R439, R442), the start of slack (R34, R50, R53, R267), and the frame record (R378 to R380).
-/
namespace Sys2Proof.Machine

/-! Scrub (R267). -/

/-- Lines of an A-die's window. -/
def windowLines : Nat := stackSpan / 64

/-- The line of the window the scrub has reached by now: one pass in 24 hours of pod time. -/
def scrubTo (d : Dev) : Nat := podNs d * windowLines / 86400000000000 % windowLines

/-- The scrub of A-die `a` reads lines `[lo, hi)` of its window: correctable ones are corrected, uncorrectable ones logged. -/
def scrubLines (a lo hi : Nat) (d : Dev) : Dev :=
  let b := a * stackSpan
  let r := reqOf 6 0xFF
  let d := correctReads (b + 64 * lo) (64 * (hi - lo)) r d
  (d.bad.filter fun l => decide (b + 64 * lo ≤ l ∧ l < b + 64 * hi) && lineErr d l == some 2).foldl (fun d l => logErr (l, 2) r d) d

/-- In each slack the scrub moves on to where a pass of 24 hours stands now (R267). -/
def scrub (d : Dev) : Dev :=
  forUp (fun a d =>
    let x := (stackAt d (2 * a)).scrubAt
    let y := scrubTo d
    let d := if x ≤ y then scrubLines a x y d else scrubLines a 0 y (scrubLines a x windowLines d)
    modStack (2 * a) (fun s => { s with scrubAt := y }) d) 8 0 d

/-! Slack (R34, R47, R50, R438, R443, R478). -/

/-- The slack window of the current frame begins. -/
def slackStart (d : Dev) : Dev :=
  if !running d ∨ !d.clk.ticked ∨ d.clk.inSlack ∨ d.clk.mode = .waiting then d
  else
    let d := passTo (24 * ((rg d fFrameStart).toNat + slackNs d)) d
    let d := { d with clk := { d.clk with inSlack := true } }
    let d := forUp (fun st d => if (stackAt d st).parked ∨ retired d st then d else slackStack st d) 16 0 d
    scrub (liveSlack (railSlack d))

/-- SLACK_START (R34). -/
def execSlackStart (s : State) : Out := onDev s slackStart

/-! Frame records (R378 to R380). -/

/-- A record takes its last values at the tick that ends its frame. -/
def endRecord (d : Dev) (r : FrameRec) : FrameRec :=
  { r with ended := true, tmark := (rg d mTouchmark).toNat, flags := if locked d then r.flags else r.flags ||| 8 }

/-- At a tick, records of frames that had ended become due, and the frame that ends closes its own; at the first tick after an
enable of Bridle that one is due as well (R380). -/
def closeRecords (fromWait : Bool) (d : Dev) : Dev :=
  { d with frecs := d.frecs.map fun r => if r.ended then { r with due := true } else { endRecord d r with due := fromWait } }

/-- The record of the frame that begins. -/
def openRecord (n tick : Nat) (d : Dev) : Dev :=
  let id := rf d fPlanStat 0 32
  { d with frecs := d.frecs ++
    [⟨n, tick, rf d fFrameGeo 0 24, id, 0, [], if id = 0 then 4 else 0, false, false⟩] }

/-- The 64 bytes of a frame record. -/
def recordBytes (r : FrameRec) : List Byte :=
  let c (off n : Nat) : List Byte := bytesOf n (tabGet (fun _ => 0) r.cnt off)
  bytesOf 8 r.frame ++ bytesOf 8 r.tick ++ bytesOf 4 r.period ++ bytesOf 4 r.plan ++ bytesOf 4 r.tmark ++ c 28 2 ++ c 30 2 ++ c 32 2 ++
    c 34 1 ++ c 35 1 ++ c 36 2 ++ c 38 2 ++ c 40 2 ++ bytesOf 1 r.flags ++ c 43 1 ++ c 44 4 ++ bytesOf 16 0

/-- FRAME_RECORD_WRITE (R379, R380): the oldest record that is due goes to the ring, or is dropped. -/
def frameRecordWrite (d : Dev) : Dev :=
  match d.frecs.find? (·.due) with
  | none => d
  | some r =>
    let d := { d with frecs := dropFirst (·.due) d.frecs }
    let k := rf d mFrmRing 48 5
    if !rb d mFrmRing 53 then d
    else if ringFull d mFrmPtr 24 k then addSat d mFrmPtr 48 16 1
    else
      let a := rf d mFrmRing 6 42 * 64 + 64 * (rf d mFrmPtr 0 24 % 2 ^ k)
      setF (ringWrite a (recordBytes r) d) mFrmPtr 0 24 (rf d mFrmPtr 0 24 + 1)

/-- FRAME_RECORD_WRITE (R380). -/
def execFrameRecordWrite (s : State) : Out := onDev s frameRecordWrite

/-! Tile mapping (R14 to R19, R387 to R389). -/

/-- Entry of a mapping word for logical index `l`. -/
def mapAt (w : Word) (l : Nat) : Nat := wbits w (4 * l) 4

/-- Logical index of the die that physical tile `p` served before the tick. -/
def servedBy (old : Word) (p : Nat) : Option Nat := if p = 0xF then none else (upto 8).find? fun l => mapAt old l == p

/-- Address of an offset in a logical tile's window, moved from the window of logical tile `t` to that of `u`. -/
def inWindow (t a : Nat) : Bool := decide (tileBase + tileSpan * t ≤ a ∧ a < tileBase + tileSpan * (t + 1))

/-- Every store of die `a` follows its physical tile; one that served no index reads as zero (R18). -/
def moveStores (a : Nat) (old new : Word) (d : Dev) : Dev :=
  let src (l : Nat) : Option Nat := servedBy old (mapAt new l)
  let lo := tileBase + tileSpan * (8 * a)
  let hi := lo + 8 * tileSpan
  let moved (l : Nat) : List (Nat × Byte) := match src l with
    | some k => (d.mem.filter fun e => inWindow (8 * a + k) e.1).map fun e => (e.1 + tileSpan * l - tileSpan * k, e.2)
    | none => []
  let lines (x : List Nat) : List Nat := (x.filter fun y => !decide (lo ≤ y ∧ y < hi)) ++ (upto 8).flatMap fun l =>
    match src l with
    | some k => (x.filter (inWindow (8 * a + k))).map fun y => y + tileSpan * l - tileSpan * k
    | none => []
  let tiles := (upto 8).foldl (fun t l => tabSet tile0 t (8 * a + l) (match src l with
    | some k => tileAt d (8 * a + k) | none => tile0 0)) d.tiles
  { d with mem := (d.mem.filter fun e => decide (e.1 < lo)) ++ (upto 8).flatMap moved ++ (d.mem.filter fun e => decide (hi ≤ e.1)),
           bad := lines d.bad, weak := lines d.weak, tiles := tiles }

/-- Queues of tile `t` whose descriptors or pointers have been written. -/
def knownQueues (d : Dev) (t : Nat) : List Nat :=
  d.regs.foldl (fun l e => if qRing (1024 * t) ≤ e.1 ∧ e.1 < qRing (1024 * (t + 1)) then insUp ((e.1 - 0x2000000) / 32) l else l) []

/-- A queue whose ring lay in the lost store becomes DISABLED, its registers as at reset (R388). -/
def resetQueue (q : Nat) (d : Dev) : Dev :=
  let d := setReg (setReg (setReg (setReg d (qRing q) (regReset (qRing q))) (qStatus q) (regReset (qStatus q))) (qCfg q)
    (regReset (qCfg q))) (qPtr q) (regReset (qPtr q))
  { (modQueue q (fun _ => queueX0 q) d) with flights := d.flights.filter fun f => f.q != q }

/-- Packets of the command at the front of a queue. -/
def firstCmd (d : Dev) (q : Nat) : List Packet :=
  match parseHead d q with
  | .command ps _ => ps
  | .mismatch ps => ps
  | _ => []

/-- The commands of a kept queue from sequence number `s`, `n` packets of them issued: each without a reply and not running on an
Anvil engine is issued again on the spare, or answers UNREACHABLE (R389). -/
def reissueFrom (q t : Nat) (spare : Bool) : Nat → Nat → Dev → Dev
  | 0, _, d => d
  | n + 1, s, d =>
    if (queueAt d q).written.contains s || (findFlight d q s).isSome || (d.flights.any fun f => f.q == q && decide (seqSub s f.seq < f.npkt)) then
      reissueFrom q t spare n (seqAdd s 1) d
    else
      match firstCmd (setHead q s d) q with
      | p :: cont =>
        let k := 1 + cont.length
        let f := newFlight d q s p cont
        let pred := predicted d q p cont
        let d := if spare && reissuable d t f then
            match judge d f pred with
            | .late det => refuseCmd q s p k 3 det false d
            | .start dl fin => startFlight f pred dl fin d
            | .wait => startFlight f pred none d.clk.cyc d
          else refuseCmd q s p k 0x06 (0x8000 + t) false d
        reissueFrom q t spare (n - cont.length) (seqAdd s k) d
      | [] => reissueFrom q t spare n (seqAdd s 1) d

/-- Packets whose ring is lost answer UNREACHABLE with tag 0 and packet index 0 (R75). -/
def lostReplies (q t : Nat) : Nat → Nat → Dev → Dev
  | 0, _, d => d
  | n + 1, s, d =>
    let d := if (queueAt d q).written.contains s then d else writeReply q s 0 0 0x06 (0x8000 + t) 0 false d
    lostReplies q t n (seqAdd s 1) d

/-- What becomes of the queues of logical tile `t`, whose physical tile left at this tick (R19, R75, R388, R389). -/
def handleQueues (t : Nat) (d : Dev) : Dev :=
  let spare := !tileAbsent d t
  (knownQueues d t).foldl (fun d q =>
    let k := qLog d q
    if inStacks d (qBase d q) (64 * 2 ^ k) && inStacks d (qSBase d q) (16 * 2 ^ k) then
      let r := qRetire d q
      let d := reissueFrom q t spare (seqSub (qHead d q) r) r d
      if spare then d
      else
        let n := seqSub (qTail d q) (qHead d q)
        setHead q (qTail d q) (absentReplies q n (qHead d q) d)
    else if ringPlaced d t (qBase d q) (64 * 2 ^ k) || inTileStore d t (qSBase d q) (16 * 2 ^ k) || qState d q != 0 || !spare then
      if spare then resetQueue q d
      -- an absent tile keeps the descriptors that doorbells are judged by (R75, log entry 40)
      else
        let r := qRetire d q
        let d := { (setQState q 0 (setF d (qCfg q) 14 9 0)) with flights := d.flights.filter fun f => f.q != q }
        if inStacks d (qSBase d q) (16 * 2 ^ k) then setHead q (qTail d q) (lostReplies q t (seqSub (qTail d q) r) r d) else d
    else d) d

/-- The written mapping of A-die `a` comes into force (R16, R18, R387 to R389, R484). -/
def mapTick (a : Nat) (d : Dev) : Dev :=
  let o := aTileMap a
  let old := tabGet regReset d.eff o
  let new := rg d o
  if old = new then d
  else
    let gone := (upto 8).filter fun l =>
      mapAt old l != 0xF && mapAt old l != mapAt new l && (d.fenced.contains (8 * a + l) || (servedBy old (mapAt new l)).isNone)
    let failed := gone.filter fun l => d.fenced.contains (8 * a + l)
    let d := latch (moveStores a old new d) o
    let d := { d with fenced := d.fenced.filter fun t => !(gone.map (8 * a + ·)).contains t,
                      flights := d.flights.filter fun f => !(gone.any fun l => qTile f.q == 8 * a + l) || survivesFence f }
    let d := failed.foldl (fun d l =>
      ledger 0x06 (8 * a + l) (bytesOf 1 a ++ bytesOf 1 (mapAt old l))
        (modFirm (fun f => { f with deadTiles := f.deadTiles ++ [(a, mapAt old l)] }) d)) d
    -- a tile mapped in runs on the active function tables (R197)
    let d := (upto 8).foldl (fun d l =>
      if mapAt new l ≠ 0xF ∧ mapAt old l = 0xF then setF d (aChTab (8 * a + l)) 0 16 (rf d mTouchmark 0 16) else d) d
    gone.foldl (fun d l => handleQueues (8 * a + l) (if failed.contains l then note 35 0xFF 1 d else d)) d

/-! Registers that take effect at a tick (R260, R365, R439, R442). -/

/-- F_COLLPOOL: bytes that move between the user region and the pool read as zero; sizes outside 8 to 48 MiB are reserved. -/
def poolTick (d : Dev) : Dev :=
  let old := ef d fCollPool 0 6
  let new := rf d fCollPool 0 6
  if old = new ∨ new < 8 ∨ 48 < new then d
  else
    let lo := fBuf + (48 - Nat.max old new) * mib
    let hi := fBuf + (48 - Nat.min old new) * mib
    wipe lo (hi - lo) (latch d fCollPool)

/-- M_NUMCFG: the numeric options of the touchmark (R362, R365). -/
def numTick (d : Dev) : Dev :=
  let d := latch d mNumCfg
  let opts := rf d mNumCfg 0 4
  if rf d mTouchmark 24 4 = opts then d
  else
    let was := (rg d mTouchmark).toNat
    touchmarkChanged was (setF d mTouchmark 24 4 opts)

/-- A time source has been seen at the root: ledger times are TAI from now on (R484). -/
def calTick (d : Dev) : Dev :=
  if rb d fBridleStat 12 && !d.led.cal then ledger 0x0F 0 [] { d with led := { d.led with cal := true } } else d

/-- Everything that takes effect at the tick of a frame that has begun. -/
def tickEffects (first : Bool) (d : Dev) : Dev :=
  let d := numTick (forUp mapTick 8 0 d)
  let d := (upto 10).foldl (fun d k => latch d (mRailPol k)) d
  let d := poolTick (latch d mPwrPol)
  let d := if d.clk.mode = .pod then bridleTick first (latch d fBridleCfg) else d
  let d := if locked d then d else noteFlag 8 d
  let d := chtabTick (planTick d)
  let d := unparkTick (refreshTick d)
  let d := forUp portTick 18 0 d
  let d := dieTick (stackTick (lossTick d))
  let d := { (idleTick d) with fab := { d.fab with hot := [], merged := [] } }
  traceTick (counterTick (calTick d))

/-! The tick (R32, R39, R61, R62). -/

/-- Frame `n` begins at pod time `tick` ns; its cycle 0 is the first cycle boundary at least 80 ns later (R39). -/
def beginFrame (n tick : Nat) (d : Dev) : Dev :=
  let fromWait := d.clk.mode = .waiting ∨ d.clk.nextTick.isSome
  let d := closeRecords fromWait (passTo (24 * (tick + 80)) d)
  let d := { d with clk := { d.clk with cyc0 := d.clk.cyc, ticked := true, inSlack := false, nextTick := none } }
  openRecord n tick (setRegN (setRegN d fFrameNum n) fFrameStart tick)

/-- Default geometry and no active plan, as local frames have them (R36, R61). -/
def localGeo (d : Dev) : Dev :=
  let d := setRegN (setB (setF (setGeo defaultGeo d) fPlanStat 0 32 0) fPlanStat 37 true) fPlanApply 0
  { d with plans := { d.plans with active := [], announced := none, inbox := none, snap := [], snapOk := false } }

/-- Pod time of the tick that ends the current frame. -/
def endOfFrame (d : Dev) : Nat := (rg d fFrameStart).toNat + periodNs d

/-- A local frame begins: the next of a run, the first after the wipe, or the one after a clear of enable. -/
def localFrame (d : Dev) : Dev :=
  if !d.clk.ticked then tickEffects false (beginFrame 0 0 (localGeo d))
  else
    let t := match d.clk.nextTick with | some t => t | none => endOfFrame d
    tickEffects false (beginFrame (frameNum d + 1) t (localGeo d))

/-- The local frame ends with enable set: the package counts slack until the first pod tick; a root changes to pod time (R54,
R62). -/
def enterWaiting (d : Dev) : Dev :=
  let d := passTo (24 * endOfFrame d) d
  let d := { d with clk := { d.clk with mode := .waiting, inSlack := true } }
  let d := forUp (fun st d => modStack st (fun x => { x with slackPaid := x.slackPaid + x.owed, owed := 0, carried := x.carriedDone,
                                                              waitUntil := none }) d) 16 0 d
  if myNode d = brRoot d then rootChange d else d

/-- The first pod frame (R32, R62): at the root once it has pod time, at a member once it knows the root's frames. -/
def firstPodFrame (d : Dev) : Dev :=
  let go (n t : Nat) (d : Dev) : Dev :=
    let d := beginFrame n t d
    tickEffects true { d with clk := { d.clk with mode := .pod, everPod := true, changeAt := none } }
  if myNode d = brRoot d then
    match d.clk.changeAt with
    | some c => go (if d.clk.everPod then frameNum d + 1 else 0) ((c / 1000000 + 1) * 1000000) d
    | none => d
  else
    match d.bridle.rootTick with
    | some r => go r.frame r.tick (setGeo r.geo (stepTime r.tick d))
    | none => d

/-- FRAME_TICK (R39): time moves on to the next tick; a frame whose slack had not begun passes through it. -/
def frameTick (d : Dev) : Dev :=
  if !running d then d
  else
    let d := slackStart d
    let enable := brEnable d
    let was := (frameNum d, d.clk.mode, d.clk.ticked)
    let d := match d.clk.mode with
      | .waiting => firstPodFrame d
      | .local' => if d.clk.ticked && d.clk.nextTick.isNone && enable then enterWaiting d else localFrame d
      | .pod =>
        if enable then tickEffects false (beginFrame (frameNum d + 1) (endOfFrame d) d)
        else
          -- enable was cleared: local frames continue from this tick (R62)
          localFrame (bridleIdle (latch { d with clk := { d.clk with mode := .local' } } fBridleCfg))
    match d.tetherReq with
    | some c => if (frameNum d, d.clk.mode, d.clk.ticked) = was then d else enterTether c false d
    | none => d

/-- FRAME_TICK (R39). -/
def execFrameTick (s : State) : Out := onDev s frameTick

end Sys2Proof.Machine
end

