-- ==== Sys2Proof/Machine/Access.lean ====
section
/-!
DEFINITION. Machine/Access.lean: REGISTER_WRITE (R7, R525) and control and status registers of harts (R228, R239, R240); MREAD,
MWRITE and CFG_COMMIT (R477, R530); inbound PCIe accesses and the recovery window (R517, R518); management datagrams (R520).
-/
namespace Sys2Proof.Machine

/-! Control and status registers of the harts (R228, R239, R240). They have no place in the control window: a write of CSR `c` of
hart `h` is a REGISTER_WRITE at 2^40 + 4096·h + c. -/

/-- First offset that names a CSR. -/
def csrBase : Nat := 2 ^ 40

/-- Modes a hart may be in, by the privilege bits of a CSR number. -/
def csrAllowed (d : Dev) (h c : Nat) : Bool := decide (bits c 8 2 ≤ (hartAt d h).priv) && bits c 10 2 != 3

/-- CSRs of the HLV state other than hlvcfg, which has a row of its own, and shlvctl (R239). -/
def hlvCsr (c v : Nat) (t : Hart) : Hart :=
  if c = 0x802 then { t with hlvxrm := v % 4 }
  else if c = 0x803 then { t with hlvstat := v % 2 }
  else if c = 0x804 then { t with hlvstart := v % 2 ^ 16 }
  else if c = 0x805 then { t with hlvff := v % 2 ^ 25 }
  else if c = 0x806 then { t with hlvffaddr := v }
  else t

/-- HLVCFG_WRITE (R240 to R243). -/
def hlvcfgWrite (h v : Nat) (d : Dev) : Dev :=
  if !hartFree d h then d
  else
    let t := hartAt d h
    if t.shlvctl = 0 ∨ (bitAt v 0 ∧ bits v 1 2 ≠ 0) then illegal h d
    else
      let w := v % 8
      if bitAt w 0 != bitAt t.hlvcfg 0 then
        dirty h (modHart h (fun t => { t with hlvcfg := w, v := [], p := [], f := [], hlvl := 0 }) d)
      else if bits w 1 2 ≠ bits t.hlvcfg 1 2 then dirty h (modHart h (fun t => { t with hlvcfg := w, hlvl := 0 }) d)
      else dirty h d

/-- HLVCFG_WRITE (R243). -/
def execHlvcfgWrite (h : Nat) (value : Word) (s : State) : Out := onDev s (hlvcfgWrite h value.toNat)

/-- A write of a CSR by its hart; one it may not write, or that does not exist, is an illegal instruction. -/
def csrWrite (h c v : Nat) (d : Dev) : Dev :=
  if !hartFree d h then d
  else if !csrAllowed d h c then illegal h d
  else if c = 0x800 then hlvcfgWrite h v d
  else if 0x802 ≤ c ∧ c ≤ 0x806 then
    if (hartAt d h).shlvctl = 0 then illegal h d else dirty h (modHart h (hlvCsr c v) d)
  else if c = 0x5C0 then modHart h (fun t => { t with shlvctl := v % 4 }) d
  else if c = 0x001 then modHart h (fun t => { t with fflags := v % 32 }) d
  else if c = 0x002 then modHart h (fun t => { t with frm := v % 8 }) d
  else if c = 0x003 then modHart h (fun t => { t with fflags := v % 32, frm := bits v 5 3 }) d
  else if c = 0x180 then
    -- a mode that is not supported leaves satp as it was
    (if [0, 8, 9].contains (bits v 60 4) then modHart h (fun t => { t with satp := v }) d else d)
  else if c = 0x300 then modHart h (fun t => { t with mstatus := v }) d
  else if c = 0x3A0 ∨ c = 0x3A2 then
    -- a locked entry keeps its configuration
    modHart h (fun t => (upto 8).foldl (fun t i =>
      let e := 4 * (c - 0x3A0) + i
      if bitAt (tabGet (fun _ => 0) t.pmpcfg e) 7 then t else { t with pmpcfg := tabSet (fun _ => 0) t.pmpcfg e (bits v (8 * i) 8 &&& 0x9F) }) t) d
  else if 0x3B0 ≤ c ∧ c < 0x3C0 then
    modHart h (fun t =>
      let e := c - 0x3B0
      let next := tabGet (fun _ => 0) t.pmpcfg (e + 1)
      if bitAt (tabGet (fun _ => 0) t.pmpcfg e) 7 || (bitAt next 7 && bits next 3 2 == 1) then t
      else { t with pmpaddr := tabSet (fun _ => 0) t.pmpaddr e (v % 2 ^ 54) }) d
  else illegal h d

/-- REGISTER_WRITE (R7): a register of the control window, or a CSR of a hart. -/
def registerWrite (off : Nat) (v : Word) (by' : Agent) (d : Dev) : Dev :=
  if csrBase ≤ off then csrWrite ((off - csrBase) / 4096) (off % 4096) v.toNat d
  else if off % 8 ≠ 0 ∨ !(running d || d.phase == .wiping) then d
  else match ctrlWrite off v by' d with
    | some r => r.2
    | none => d

/-- REGISTER_WRITE (R7). -/
def execRegisterWrite (off : Nat) (value : Word) (by' : Agent) (s : State) : Out := onDev s (registerWrite off value by')

/-! MREAD, MWRITE and CFG_COMMIT (R477, R530). -/

/-- Outcome of words moved by an MREAD or MWRITE: bytes done, what stopped it as (status, detail), whether a locked field was met,
the words read. -/
structure Words where
  dev : Dev
  done : Nat
  stop : Option (Nat × Nat)
  locked : Bool
  got : List Byte

/-- One word of an MREAD: from `a` into the buffer at `b`; `area`: the buffer is a datagram's data area. -/
def mreadWord (r : Req) (area : Bool) (a b : Nat) (y : Words) : Words :=
  let d := y.dev
  match (if area then none else writeErr d b 8) with
  | some e => { y with dev := logWriteErr e r d, stop := some (errStatus e.2, 0) }
  | none =>
    let put (w : Nat) (d : Dev) : Words :=
      { y with dev := if area then d else memWriteN r b 8 w d, done := y.done + 8, got := y.got ++ bytesOf 8 w }
    if inPRange a then
      match badRange d false a 8, readErr d a 8 with
      | some x, _ => { y with stop := some x }
      | none, some e => { y with dev := logErr e r d, stop := some (errStatus e.2, 0) }
      | none, none => put (ld d a 8) (correctReads a 8 r d)
    else match ctrlRead (a - ctrlBase) d with
      | some (w, d) => put w d
      | none => { y with stop := some (0x0E, 0x0002) }

/-- One word of an MWRITE: from the buffer at `b`, or the data area, to `a`. -/
def mwriteWord (r : Req) (area : Option (List Byte)) (a b : Nat) (y : Words) : Words :=
  let d := y.dev
  match (if area.isSome then none else readErr d b 8) with
  | some e => { y with dev := logErr e r d, stop := some (errStatus e.2, 0) }
  | none =>
    let v := match area with | some bs => natOf ((bs.drop y.done).take 8) | none => ld d b 8
    let d := if area.isSome then d else correctReads b 8 r d
    if inPRange a then
      match badRange d true a 8, writeErr d a 8 with
      | some x, _ => { y with stop := some x }
      | none, some e => { y with dev := logWriteErr e r d, stop := some (errStatus e.2, 0) }
      | none, none => { y with dev := memWriteN r a 8 v d, done := y.done + 8 }
    else match ctrlWrite (a - ctrlBase) (BitVec.ofNat 64 v) .mgmtQueue d with
      | some (l, d) => { y with dev := d, done := y.done + 8, locked := y.locked || l }
      | none => { y with stop := some (0x0E, 0x0002) }

/-- Words from the one after those done on, until one stops the command or the package no longer runs. -/
def moveWords (word : Nat → Nat → Words → Words) (a b : Nat) : Nat → Words → Words
  | 0, y => y
  | n + 1, y =>
    if y.stop.isSome ∨ !running y.dev then y else moveWords word a b n (word (a + y.done) (b + y.done) y)

/-- MREAD and MWRITE (R530). -/
def mrw (wr : Bool) (f : Flight) (d : Dev) : Dev :=
  let a := pbytes f.head 16 6
  let b := pbytes f.head 24 6
  let n := pbytes f.head 32 4
  let r := f.req 8 0xFF
  let job := mgmtJob d f.q f.seq
  let area := match job with | some j => if b = 0 then some j.area else none | none => none
  match (if area.isSome then none else badRange d false b n) with
  | some (st, det) => finish f.q f.seq st det 0 d
  | none =>
    let y := moveWords (if wr then mwriteWord r area else mreadWord r area.isSome) a b (n / 8) ⟨d, 0, none, false, []⟩
    let d := if wr || job.isNone then y.dev else
      { y.dev with mgmtJobs := y.dev.mgmtJobs.map fun j => if j.q == f.q && j.seq == f.seq then { j with out := y.got } else j }
    match y.stop with
    | some (st, det) => finish f.q f.seq st det y.done d
    | none => if y.locked then finish f.q f.seq 0x0E 0x0008 n d else finish f.q f.seq 0 0 n d

/-- MREAD (R530). -/
def execMread (q seq : Nat) (s : State) : Out := onDev s (withFlight 0x80 q seq (mrw false))
/-- MWRITE (R530). -/
def execMwrite (q seq : Nat) (s : State) : Out := onDev s (withFlight 0x81 q seq (mrw true))

/-- Bytes of a configuration copy with store number `n` that holds the registers as they stand, its hallmark last (R474, R477). -/
def cfgImage (d : Dev) (n : Nat) : List Byte × List Byte :=
  let ents := cfgRegs.flatMap fun o => bytesOf 6 o ++ bytesOf 2 0 ++ bytesOf 8 (rg d o).toNat
  let head := bytesOf 4 0x46435A48 ++ bytesOf 2 1 ++ bytesOf 2 0 ++ bytesOf 8 n ++ bytesOf 4 cfgRegs.length ++ bytesOf 4 0
  let mark := shake256 8 (head ++ bytesOf 8 0 ++ bytesOf 32 0 ++ ents)
  (head ++ bytesOf 8 0 ++ bytesOf 32 0 ++ ents, mark)

/-- Store the registers of R474 in the copy with the lower store number; an invalid copy counts as lower (R477). Answers the bytes
written. -/
def cfgStore (d : Dev) : Nat × Dev :=
  let s (i : Nat) : Nat := if cfgValid d i then cfgN d i 8 8 + 1 else 0
  let i := if s 0 < s 1 then 0 else if s 1 < s 0 then 1 else 0
  let x := cfgImage d (Nat.max (s 0) (s 1))
  (x.1.length, flashPut (cfgBase i + 24) x.2 (flashPut (cfgBase i) x.1 d))

/-- CFG_COMMIT (R477): LOCK, STORE, or both. A STORE waits while the F-die owns the flash. -/
def cfgCommit (f : Flight) (d : Dev) : Dev :=
  let op := pbytes f.head 10 1
  if op ≠ 0 ∧ rf d mFlashOwn 0 2 ≠ 0 then d
  else
    let d := if op = 1 then d else setB d mStatus 5 true
    let r := if op = 0 then (0, d) else cfgStore d
    finish f.q f.seq 0 0 r.1 r.2

/-- CFG_COMMIT (R477). -/
def execCfgCommit (q seq : Nat) (s : State) : Out := onDev s (withFlight 0x82 q seq cfgCommit)

/-! Inbound PCIe accesses (R517, R518). -/

/-- An inbound access is refused: a read completes with Unsupported Request, a write is dropped and logged (R517). -/
def inRefuse (p : Nat) (wr : Bool) (d : Dev) : Dev := if wr then setB d (pPcieStat p) 11 true else { d with hostRead := none }

/-- An inbound access of memory. A line that fails is logged as for a remote requester; a read of one returns no data. -/
def inMemory (p a n : Nat) (data : Option (List Byte)) (d : Dev) : Dev :=
  let r := reqOf 3 0xFF
  match (badRange d data.isSome a n), data with
  | some _, _ => inRefuse p data.isSome d
  | none, some bs => match writeErr d a n with
    | some e => logWriteErr e r d
    | none => memWrite r a bs d
  | none, none => match readErr d a n with
    | some e => { (logErr e r d) with hostRead := none }
    | none => { (correctReads a n r d) with hostRead := some (ldBytes d a n) }

/-- An inbound access of the control window by the host (R525): the P-die region is memory; elsewhere one aligned word. -/
def inControl (p off n : Nat) (data : Option (List Byte)) (d : Dev) : Dev :=
  if inPRange (ctrlBase + off) then inMemory p (ctrlBase + off) n data d
  else if off % 8 ≠ 0 ∨ n ≠ 8 then inRefuse p data.isSome d
  else match data with
    | some bs => match ctrlWrite off (BitVec.ofNat 64 (natOf bs)) .job d with
      | some r => r.2
      | none => inRefuse p true d
    | none => match ctrlRead off d with
      | some (w, d) => { d with hostRead := some (bytesOf 8 w) }
      | none => inRefuse p false d

/-- An access of the recovery window (R518): the image, and P_RECOVERY. -/
def inRecovery (off n : Nat) (data : Option (List Byte)) (d : Dev) : Dev :=
  if off + n ≤ slotSize then
    match data with
    | some bs => modFirm (fun f => { f with window := putMem f.window off bs }) d
    | none => { d with hostRead := some ((upto n).map fun i => tabGet memRest d.firm.window (off + i)) }
  else if off = slotSize ∧ n = 8 then
    match data with
    | some bs =>
      let v : Word := BitVec.ofNat 64 (natOf bs)
      let d := (plainWrite pRecovery v .myeles d).2
      if wbit v 63 then recoveryGo d else d
    | none => { d with hostRead := some (bytesOf 8 (rg d pRecovery).toNat) }
  else inRefuse 0 data.isSome d

/-- INBOUND_ACCESS (R517, R518): of the host through a BAR of an endpoint port, or DMA of a device on a root port. Stacked memory
is reached once it has been wiped. -/
def inboundAccess (p : Nat) (x : Inbound) (d : Dev) : Dev :=
  let n := match x.data with | some bs => bs.length | none => x.len
  let root := rb d (pPcieStat p) 0
  if 2 ≤ p ∨ !rb d (pPcieStat p) 1 ∨ n = 0 then d
  else if d.phase = .recovery then (if p = 0 ∧ x.bar = some 0 then inRecovery x.off n x.data d else inRefuse p x.data.isSome d)
  else if !running d then d
  else match x.bar with
    | none =>
      if !root then inRefuse p x.data.isSome d
      else
        let a := x.off
        if (a < 8 * stackSpan ∨ (tileBase ≤ a ∧ a < fBuf + 64 * mib)) ∨ inPRange a then inMemory p a n x.data d
        else inRefuse p x.data.isSome d
    | some b =>
      if root then inRefuse p x.data.isSome d
      else if b = 0 ∧ x.off + n ≤ gib then inControl p x.off n x.data d
      else if b = 2 ∧ x.off + n ≤ 512 * gib then inMemory p x.off n x.data d
      else if b = 4 ∧ x.off + n ≤ 4 * gib then inMemory p (tileBase + x.off) n x.data d
      else inRefuse p x.data.isSome d

/-- INBOUND_ACCESS (R517). -/
def execInboundAccess (p : Nat) (a : Inbound) (s : State) : Out := onDev s (inboundAccess p a)

/-! Management datagrams (R520). -/

/-- Whether a signed request may be acted on: its layout, its signature by the owner, or in FACTORY by the running image's vendor
key, its serial and its nonce. -/
def mgmtOk (d : Dev) (bs : List Byte) : Bool :=
  let f (a n : Nat) : Nat := natOf ((bs.drop a).take n)
  let dlen := f 84 2
  let signed (key : Nat) : Bool := match signerKey d key with
    | some k => Config.falconOk k (bs.take (88 + dlen)) (bs.drop (88 + dlen))
    | none => false
  f 0 4 == 0x4D4D5A48 && decide (dlen ≤ 4096) && bs.length == 88 + dlen + 1280 && f 4 8 == (rg d mSerial).toNat &&
    (match d.firm.nonce with | some n => decide (n < f 12 8) | none => true) &&
    (signed 2 || (lifeState d == 0 && (signed 0 || signed 1)))

/-- The management queue Myeles runs a request on: the lowest running one with room in its ring. -/
def mgmtQueueOf (d : Dev) : Option Nat :=
  ((upto 64).flatMap (liveQueues d)).find? fun q =>
    qMgmt d q && qClass d q == 3 && qState d q == 1 && decide (seqSub (qTail d q) (qRetire d q) < 2 ^ qLog d q) &&
      (writeErr d (slotAddr d q (qTail d q)) 64).isNone

/-- MGMT_DATAGRAM (R520): the request's packet is put on a management queue, numbered for its slot; the answer leaves with its
reply. -/
def mgmtDatagram (port : Nat) (bs : List Byte) (d : Dev) : Dev :=
  if 2 ≤ port ∨ !running d ∨ !mgmtOk d bs then d
  else
    let p : Packet := BitVec.ofNat 512 (natOf ((bs.drop 20).take 64))
    if pkClass p ≠ 3 ∨ pkMore p then d
    else match mgmtQueueOf d with
      | none => d
      | some q =>
        let seq := qTail d q
        let p := putBits p.toNat 16 16 seq
        let j : MgmtJob := ⟨port, q, seq, bs.take 20, ((bs.drop 88).take (natOf ((bs.drop 84).take 2))), []⟩
        let d := modFirm (fun f => { f with nonce := some (natOf ((bs.drop 12).take 8)) }) { d with mgmtJobs := d.mgmtJobs ++ [j] }
        doorbell q (seqAdd seq 1) (memWriteN (reqOf 5 30) (slotAddr d q seq) 64 p d)

/-- MGMT_DATAGRAM (R520). -/
def execMgmtDatagram (port : Nat) (datagram : List Byte) (s : State) : Out := onDev s (mgmtDatagram port datagram)

end Sys2Proof.Machine
end

