-- ==== Sys2Proof/Machine/Cores.lean ====
section
/-!
DEFINITION. Machine/Cores.lean: memory accesses of the harts (R225, R227, R235 to R237): address translation, physical memory
protection, local, control-window and remote accesses; scalar loads, stores, LR, SC and AMOs; FENCE; scalar F and D writes (R242).
-/
namespace Sys2Proof.Machine

/-! Physical memory protection and translation (R225, by the RISC-V privileged architecture). -/

/-- Trailing one bits of `n`. -/
def trailingOnes (n : Nat) : Nat := (findUp (fun i => !bitAt n i) 54 0).getD 54

/-- Bytes PMP entry `i` covers. -/
def pmpRange (t : Hart) (i : Nat) : Option (Nat × Nat) :=
  let a := tabGet (fun _ => 0) t.pmpaddr i
  match bits (tabGet (fun _ => 0) t.pmpcfg i) 3 2 with
  | 0 => none
  | 1 => some (if i = 0 then 0 else 4 * tabGet (fun _ => 0) t.pmpaddr (i - 1), 4 * a)
  | 2 => some (4 * a, 4 * a + 4)
  | _ =>
    let k := trailingOnes a
    let b := 4 * ((a >>> (k + 1)) <<< (k + 1))
    some (b, b + 2 ^ (k + 3))

/-- Whether mode `m` may make an access (bit 0 read, bit 1 write) of `n` bytes at `a`: the lowest entry that matches any byte decides. -/
def pmpOk (t : Hart) (m a n bit : Nat) : Bool :=
  match (upto 16).findSome? fun i => match pmpRange t i with
    | some (lo, hi) => if a < hi ∧ lo < a + n then some (i, lo, hi) else none
    | none => none with
  | some (i, lo, hi) =>
    let c := tabGet (fun _ => 0) t.pmpcfg i
    decide (lo ≤ a ∧ a + n ≤ hi) && ((m == 3 && !bitAt c 7) || bitAt c bit)
  | none => m == 3

/-- Outcome of a translation: a core physical address, or an exception cause. -/
inductive Tr where
  | ok (pa : Nat)
  | cause (c : Nat)
  deriving DecidableEq, Repr

/-- Walk of the page tables from level `i - 1` on, for a store (`st`) or a load in mode `m`. -/
def walk (h : Nat) (t : Hart) (st : Bool) (m va : Nat) : Nat → Nat → Dev → Tr × Dev
  | 0, _, d => (.cause (13 + 2 * b2n st), d)
  | i + 1, base, d =>
    let a := base + 8 * bits va (12 + 9 * i) 9
    let access : Tr := .cause (5 + 2 * b2n st)
    let page : Tr := .cause (13 + 2 * b2n st)
    if !pmpOk t 1 a 8 0 || decide (2 ^ 48 ≤ a) || (badRange d false a 8).isSome then (access, d)
    else match readErr d a 8 with
      | some e => (access, logErr e (reqOf 5 h) d)
      | none =>
        let d := correctReads a 8 (reqOf 5 h) d
        let e := ld d a 8
        let ppn := bits e 10 44
        let r := bitAt e 1
        let w := bitAt e 2
        let x := bitAt e 3
        if !bitAt e 0 || (!r && w) || bits e 54 10 != 0 then (page, d)
        else if !r && !x then
          (if bitAt e 4 || bitAt e 6 || bitAt e 7 then (page, d) else walk h t st m va i (ppn * 4096) d)
        else
          let user := bitAt e 4
          let mode := if m = 0 then user else !user || bitAt t.mstatus 18
          let perm := if st then w else r || (x && bitAt t.mstatus 19)
          if bits ppn 0 (9 * i) != 0 || !mode || !perm || !bitAt e 6 || (st && !bitAt e 7) then (page, d)
          else (.ok (ppn * 4096 + bits va 0 (12 + 9 * i)), d)

/-- Core physical address of a data access of `n` bytes at virtual address `va`. -/
def translate (h : Nat) (st : Bool) (va n : Nat) (d : Dev) : Tr × Dev :=
  let t := hartAt d h
  let m := if t.priv = 3 ∧ bitAt t.mstatus 17 then bits t.mstatus 11 2 else t.priv
  let mode := bits t.satp 60 4
  let r : Tr × Dev :=
    if m = 3 ∨ mode = 0 then (.ok va, d)
    else
      let lv := mode - 5
      let width := 12 + 9 * lv
      if wrapBits 64 (sext width va) ≠ va then (.cause (13 + 2 * b2n st), d)
      else walk h t st m va lv (bits t.satp 0 44 * 4096) d
  match r.1 with
  | .ok pa => if 2 ^ 56 ≤ pa ∨ !pmpOk t m pa n (b2n st) then (.cause (5 + 2 * b2n st), r.2) else r
  | .cause _ => r

/-! Places (R235, R524). -/

/-- What a core physical address names (R235). -/
inductive Place where
  | fault
  | device
  | loc (a : Nat)
  | rem (node a : Nat)
  deriving DecidableEq, Repr

/-- A local address; the device window of a root port is the attached device's (R524). -/
def locPlace (d : Dev) (a : Nat) : Place :=
  let o := a - ctrlBase - 0x2000000000
  if ctrlBase + 0x2000000000 ≤ a ∧ o < 0x2000000000 then (if rb d (pPcieStat (o / 0x1000000000)) 0 then .device else .fault) else .loc a

/-- The place of a core physical address (R235). -/
def placeOf (d : Dev) (pa : Nat) : Place :=
  if bitAt pa 55 then
    let n := (myNode d &&& 0x3F80) ||| bits pa 48 7
    if n = myNode d then locPlace d (bits pa 0 48) else .rem n (bits pa 0 48)
  else if bits pa 48 7 ≠ 0 then .fault
  else locPlace d pa

/-- Who hart `h` is, as a writer of registers (R229). -/
def hartAgent (h : Nat) : Agent := if 30 ≤ h then .myeles else .job
/-- Whether one of the accesses of `n` bytes at the virtual addresses listed, taken in order, reaches a device window: none after one
that cannot be translated counts. -/
def touchesDevice (h : Nat) (st : Bool) (n : Nat) (d : Dev) : List Nat → Bool
  | [] => false
  | va :: t =>
    match (translate h st va n d).1 with
    | .cause _ => false
    | .ok pa => placeOf d pa == .device || touchesDevice h st n d t

/-- Outcome of a read: a value, an exception, or a question to another node. -/
inductive Got where
  | val (v : Nat) (d : Dev)
  | fault (c : Nat) (d : Dev)
  | wait (node a : Nat) (d : Dev)

/-- A read of `n` bytes at a virtual address (R235 to R237, R259, R525). -/
def coreRead (h va n : Nat) (d : Dev) : Got :=
  match translate h false va n d with
  | (.cause c, d) => .fault c d
  | (.ok pa, d) => match placeOf d pa with
    | .fault | .device => .fault 5 d
    | .rem node a => if d.fab.lost.contains node then .fault 5 d else .wait node a d
    | .loc a =>
      if inCtrl a then
        if n ≠ 8 ∨ a % 8 ≠ 0 then .fault 5 d
        else match ctrlRead (a - ctrlBase) d with | some (w, d) => .val w d | none => .fault 5 d
      else if (badRange d false a n).isSome then .fault 5 d
      else match readErr d a n with
        | some e => .fault 5 (logErr e (reqOf 5 h) d)
        | none => .val (ld d a n) (correctReads a n (reqOf 5 h) d)

/-- Outcome of a write: performed, or an exception. -/
inductive Put where
  | done (d : Dev)
  | fault (c : Nat) (d : Dev)

/-- A write of `n` bytes at a virtual address; one to another node leaves as a message (R235, R305). -/
def coreWrite (h va n v : Nat) (d : Dev) : Put :=
  match translate h true va n d with
  | (.cause c, d) => .fault c d
  | (.ok pa, d) => match placeOf d pa with
    | .fault | .device => .fault 7 d
    | .rem node a =>
      if d.fab.lost.contains node then .fault 7 d else .done (sendMsg node 2 (hartQ h) opWrite 0 a 0 (bytesOf n v) d).2
    | .loc a =>
      if inCtrl a then
        if n ≠ 8 ∨ a % 8 ≠ 0 then .fault 7 d
        else match ctrlWrite (a - ctrlBase) (BitVec.ofNat 64 v) (hartAgent h) d with | some r => .done r.2 | none => .fault 7 d
      else if (badRange d true a n).isSome then .fault 7 d
      else match writeErr d a n with
        | some e => .fault 7 (logWriteErr e (reqOf 5 h) d)
        | none => .done (memWriteN (reqOf 5 h) a n v d)

/-- Ask another node for element `i` of a load (R305). -/
def hartAsk (h i n node a : Nat) (d : Dev) : Dev :=
  let m := sendMsg node 2 (hartQ h) opReadReq 0 (lineOf a) (lineSpan a n * 64 * 65536) [] d
  { m.2 with fab := { m.2.fab with asks := m.2.fab.asks ++ [⟨node, m.1, hartQ h, 0, i, n, a, false⟩] } }

/-- Read the elements of a load in order, each at a virtual address: those here at once, those elsewhere by asking; the first fault
ends it. `align`: every address must be naturally aligned (R252). -/
def readElems (h n : Nat) (align : Bool) : List (Nat × Nat) → Pend → Dev → Pend × Dev
  | [], p, d => (p, d)
  | (i, va) :: t, p, d =>
    if align && va % n != 0 then ({ p with fault := some (i, 4, va) }, d)
    else match coreRead h va n d with
      | .val v d => readElems h n align t { p with got := tabSet (fun _ => 2 ^ 600) p.got i v } d
      | .fault c d => ({ p with fault := some (i, c, va) }, d)
      | .wait node a d =>
        readElems h n align t { p with left := p.left ++ [i], vaddr := tabSet (fun _ => 0) p.vaddr i va } (hartAsk h i n node a d)

/-- A load of the elements listed: complete at once, or when the other nodes have answered. -/
def loadElems (h n : Nat) (align : Bool) (l : List (Nat × Nat)) (p : Pend) (d : Dev) : Dev :=
  let r := readElems h n align l p d
  settlePend h (modHart h (fun t => { t with pend := some r.1 }) r.2)

/-- What a hart that goes on is about to change: a FENCE before it has completed (R236). -/
def unfenced (h : Nat) (d : Dev) : Dev := modHart h (fun t => { t with fence := false }) d

/-- A command of a hart: nothing changes while the hart is not free to act; an access that reaches a device window (`dev`) stops the
model. -/
def onHart (h : Nat) (s : State) (dev : Dev → Bool) (f : Dev → Dev) : Out :=
  if hartFree s.dev h then
    if dev (unfenced h s.dev) then .fault .deviceWindow else onDev s fun d => f (unfenced h d)
  else onDev s fun d => d

/-! Scalar accesses (R227, R235). -/

/-- RATOM operation of an AMO (R326). -/
def amoCode : ScalarOp → Nat
  | .add => 0 | .swap => 1 | .and => 3 | .or => 4 | .xor => 5 | .max => 6 | .min => 7 | .maxu => 8 | _ => 9

/-- An AMO of `n` bytes on the word at `va` (R227, R326). A word a copy session must take first is not updated yet. -/
def amo (h : Nat) (op : ScalarOp) (n va rd v : Nat) (d : Dev) : Dev :=
  match translate h true va n d with
  | (.cause c, d) => trap h c va d
  | (.ok pa, d) => match placeOf d pa with
    | .fault | .device => trap h 7 va d
    | .rem node a =>
      if d.fab.lost.contains node then trap h 7 va d
      else
        let m := sendMsg node 2 (hartQ h) opRatom (amoCode op) a (2 + 16 * b2n (n == 4)) (atomData v 0) d
        let d := { m.2 with fab := { m.2.fab with asks := m.2.fab.asks ++ [⟨node, m.1, hartQ h, 0, 0, n, a, true⟩] } }
        modHart h (fun t => { t with pend := some ⟨4, rd, 0, n, true, [0], [], tabSet (fun _ => 0) [] 0 va, none⟩ }) d
    | .loc a =>
      if inCtrl a || (badRange d true a n).isSome then trap h 7 va d
      else match writeErr d a n with
        | some e => trap h 7 va (logWriteErr e (reqOf 5 h) d)
        | none =>
          if mustHold d a then d
          else
            let d := correctReads a n (reqOf 5 h) d
            let old := ld d a n
            setX h rd (if n = 4 then wrapBits 64 (sext 32 old) else old)
              (memWriteN (reqOf 5 h) a n (atomOpN n (amoCode op) old v 0) d)

/-- LR: a load that takes a reservation on its line; none is taken on another node's line (R305 has no conditional store). -/
def lrLoad (h n va rd : Nat) (d : Dev) : Dev :=
  match translate h false va n d with
  | (.cause c, d) => trap h c va d
  | (.ok pa, d) =>
    let resv := match placeOf d pa with | .loc a => some a | _ => none
    if (match resv with | some a => inCtrl a | none => false) then trap h 5 va d
    else
      let stands := resv.filter fun a => (badRange d false a n).isNone && (readErr d a n).isNone
      let d := modHart h (fun t => { t with resv := stands.map lineOf }) d
      loadElems h n false [(0, va)] ⟨0, rd, 0, n, true, [], [], [], none⟩ d

/-- SC: the store is made where the reservation still stands on its line, and x[rd] says whether it was. -/
def scStore (h n va rd v : Nat) (d : Dev) : Dev :=
  match translate h true va n d with
  | (.cause c, d) => trap h c va d
  | (.ok pa, d) =>
    let resv := (hartAt d h).resv
    let d := modHart h (fun t => { t with resv := none }) d
    match placeOf d pa with
    | .fault | .device => trap h 7 va d
    | .rem node _ => if d.fab.lost.contains node then trap h 7 va d else setX h rd 1 d
    | .loc a =>
      if inCtrl a || (badRange d true a n).isSome then trap h 7 va d
      else if resv = some (lineOf a) then
        match writeErr d a n with
        | some e => trap h 7 va (logWriteErr e (reqOf 5 h) d)
        | none => setX h rd 0 (memWriteN (reqOf 5 h) a n v d)
      else setX h rd 1 d

/-- Operations with an offset: the others use x[rs1] alone. -/
def plainOp (op : ScalarOp) : Bool := match op with | .load | .loadU | .store | .fload | .fstore => true | _ => false
/-- Operations that raise load exceptions. -/
def loadOp (op : ScalarOp) : Bool := match op with | .load | .loadU | .fload | .lr => true | _ => false
/-- Virtual address of a scalar access. -/
def scalarVa (h : Nat) (m : ScalarMem) (d : Dev) : Nat :=
  let base := xReg d h m.rs1.toNat
  if plainOp m.op then wrapBits 64 (base + sext 12 m.imm.toNat) else base

/-- A scalar memory access (R227). -/
def scalarAccess (h : Nat) (m : ScalarMem) (d : Dev) : Dev :=
  let n := 2 ^ m.size.toNat
  let plain := plainOp m.op
  let va := scalarVa h m d
  let rd := m.rd.toNat
  let x := xReg d h m.rs2.toNat
  let bad : Bool := match m.op with
    | .load | .store => false
    | .loadU => n == 8
    | _ => decide (n < 4)
  if bad then illegal h d
  else if va % n ≠ 0 ∧ (!plain ∨ 4096 < va % 4096 + n) then trap h (if loadOp m.op then 4 else 6) va d
  else if !roomFor d (hartQ h) n then d
  else match m.op with
    | .load => loadElems h n false [(0, va)] ⟨0, rd, 0, n, true, [], [], [], none⟩ d
    | .loadU => loadElems h n false [(0, va)] ⟨0, rd, 0, n, false, [], [], [], none⟩ d
    | .fload => loadElems h n false [(0, va)] ⟨5, rd, 0, n, false, [], [], [], none⟩ d
    | .store | .fstore =>
      let v := if m.op = .fstore then fReg d h m.rs2.toNat else x
      match coreWrite h va n (v % 2 ^ (8 * n)) d with
      | .done d => d
      | .fault c d => trap h c va d
    | .lr => lrLoad h n va rd d
    | .sc => scStore h n va rd (x % 2 ^ (8 * n)) d
    | op => amo h op n va rd (x % 2 ^ (8 * n)) d

/-- SCALAR_LOAD_STORE (R227). -/
def execScalarLoadStore (h : Nat) (m : ScalarMem) (s : State) : Out :=
  onHart h s (fun d => touchesDevice h (!loadOp m.op) (2 ^ m.size.toNat) d [scalarVa h m d]) (scalarAccess h m)

/-- RISCV_FENCE (R236): with W in its predecessor set, the hart goes on once its remote stores are acknowledged. -/
def execRiscvFence (h : Nat) (pw : Bool) (s : State) : Out :=
  onHart h s (fun _ => false) (modHart h fun t => { t with fence := pw })

/-- SCALAR_F_D_WRITE (R242). -/
def execScalarFDWrite (h rd : Nat) (value : Word) (single : Bool) (s : State) : Out :=
  onHart h s (fun _ => false) (writeF h (rd % 32) (if single then boxed value.toNat else value.toNat))

end Sys2Proof.Machine
end

