-- ==== Sys2Proof/Machine/Vector.lean ====
section
/-!
DEFINITION. Machine/Vector.lean: the HLV instructions (R239 to R257).
-/
namespace Sys2Proof.Machine

/-! Fields and checks (R241, R256, R257). -/

/-- Element bytes of a width code; 0 for a reserved one. -/
def vEs (v : VOp) : Nat :=
  match v.w.toNat with
  | 0 => 1 | 1 => 2 | 2 => 4 | 3 => 8 | 6 => 4 | 7 => 8 | _ => 0
/-- Whether a width is floating-point. -/
def vFp (v : VOp) : Bool := decide (6 ≤ v.w.toNat)
/-- The floating-point format of the width. -/
def vFmt (v : VOp) : Fmt := if v.w.toNat = 7 then fp64 else fp32
/-- Bits of an element. -/
def vBits (v : VOp) : Nat := 8 * (vEs v)
/-- Whether a register number may name a group (R241). -/
def grp (d : Dev) (h : Nat) (r : BitVec 5) : Bool := r.toNat % groupOf d h == 0

/-- Whether the HLV state of a hart is not Off (R240). -/
def hlvOn (d : Dev) (h : Nat) : Bool := (hartAt d h).shlvctl != 0

/-- An HLV instruction that passes its checks is performed; otherwise, or with the state Off, it is an illegal instruction and
changes nothing (R240, R257). -/
def hlvMem (h : Nat) (ok dev : Dev → Bool) (body : Dev → Dev) (s : State) : Out :=
  onHart h s (fun d => hlvOn d h && ok d && dev d) fun d => if hlvOn d h && ok d then body d else illegal h d
/-- An HLV instruction that accesses no memory. -/
def hlv (h : Nat) (ok : Dev → Bool) (body : Dev → Dev) (s : State) : Out := hlvMem h ok (fun _ => false) body s

/-- Whether fcsr.frm holds a rounding mode (R247). -/
def frmOk (d : Dev) (h : Nat) : Bool := decide ((hartAt d h).frm ≤ 4)

/-- Active elements under predicate `pg`, of elements of `es` bytes (R246); the group holds no more than VLMAX. -/
def active (d : Dev) (h pg es : Nat) : List Nat :=
  let t := hartAt d h
  let p := pReg d h pg
  (upto (Nat.min t.hlvl (vlmax d h es))).filter fun i => bitAt p i

/-- Flags of the lanes accrue: the IEEE flags in fcsr.fflags, saturation in hlvstat.sat (R111, R247, R248). -/
def accrue (h fl : Nat) (d : Dev) : Dev :=
  modHart h (fun t => { t with fflags := t.fflags ||| fl % 32, hlvstat := t.hlvstat ||| fl / 32 % 2 }) d

/-- Write elements of a group and accrue their flags; the instruction completes. -/
def writeElems (h vd es : Nat) (r : List (Nat × Flagged Nat)) (d : Dev) : Dev :=
  hlvDone h (accrue h (r.foldl (fun m e => m ||| e.2.2) 0) (r.foldl (fun d e => setVElem h vd es e.1 e.2.1 d) d))

/-- Element `i` of the first source: of vs1, or the scalar in the vector-scalar form; an FP32 scalar that is not NaN-boxed reads as
the canonical NaN (R256). -/
def vSrc1 (v : VOp) (d : Dev) (h i : Nat) : Nat :=
  if v.scalar then
    if (vFp v) then
      let f := fReg d h v.vs1.toNat
      if (vEs v) = 4 then (if f / 2 ^ 32 = 2 ^ 32 - 1 then f % 2 ^ 32 else canonNan fp32) else f
    else xReg d h v.vs1.toNat % 2 ^ (vBits v)
  else vElem d h v.vs1.toNat (vEs v) i

/-- Element `i` of the second source. -/
def vSrc2 (v : VOp) (d : Dev) (h i : Nat) : Nat := vElem d h v.vs2.toNat (vEs v) i

/-- An element-wise operation: `f` gives vd[i] and its flags from vs1[i], vs2[i] and vd[i]. -/
def elementwise (h : Nat) (v : VOp) (f : Nat → Nat → Nat → Flagged Nat) (d : Dev) : Dev :=
  writeElems h v.vd.toNat (vEs v)
    ((active d h v.pg.toNat (vEs v)).map fun i => (i, f (vSrc1 v d h i) (vSrc2 v d h i) (vElem d h v.vd.toNat (vEs v) i))) d

/-- Checks of an operation under opcodes 0x0B and 0x5B. `fpOk`, `intOk`: widths it has; `rounds`: it rounds by frm. -/
def arithOk (h : Nat) (v : VOp) (fpOk intOk rounds : Bool) (d : Dev) : Bool :=
  (vEs v) != 0 && (if (vFp v) then fpOk else intOk) && grp d h v.vd && (v.scalar || grp d h v.vs1) && grp d h v.vs2 &&
    (!((vFp v) && rounds) || frmOk d h)

/-! Arithmetic (R247, R248). -/

/-- Integer operation on elements read as two's complement; the result wraps (R109). -/
def intOp (v : VOp) (f : Int → Int → Int) (a b : Nat) : Flagged Nat := (wrapBits (vBits v) (f (sext (vBits v) a) (sext (vBits v) b)), 0)
/-- Integer operation whose result saturates (R248). -/
def satOp (v : VOp) (f : Int → Int → Int) (a b : Nat) : Flagged Nat :=
  let c := clampInt (vBits v) true (f (sext (vBits v) a) (sext (vBits v) b))
  (wrapBits (vBits v) c.1, if c.2 then flSAT else 0)
/-- Floating-point operation, rounded once by frm (R112). -/
def fpOp (v : VOp) (rnd : Nat) (f : Num → Num → Flagged Num) (a b : Nat) : Flagged Nat :=
  encodeX (vFmt v) rnd false (f (decodeF (vFmt v) a) (decodeF (vFmt v) b))

/-- Sum, difference, product: wrapping at an integer width, rounded at a floating-point one. -/
def vaddE (v : VOp) (rnd a b : Nat) : Flagged Nat := if (vFp v) then fpOp v rnd (addN rnd) a b else intOp v (· + ·) a b
def vsubE (v : VOp) (rnd a b : Nat) : Flagged Nat := if (vFp v) then fpOp v rnd (subN rnd) a b else intOp v (· - ·) a b
def vmulE (v : VOp) (rnd a b : Nat) : Flagged Nat := if (vFp v) then fpOp v rnd mulN a b else intOp v (· * ·) a b
/-- Minimum and maximum (R114). -/
def vminE (v : VOp) (a b : Nat) : Flagged Nat := if (vFp v) then fpOp v 0 minN a b else intOp v (fun x y => if x ≤ y then x else y) a b
def vmaxE (v : VOp) (a b : Nat) : Flagged Nat := if (vFp v) then fpOp v 0 maxN a b else intOp v (fun x y => if x ≤ y then y else x) a b

/-- Rounding mode of a hart. -/
def frmOf (d : Dev) (h : Nat) : Nat := (hartAt d h).frm
/-- Fixed-point rounding code of a hart. -/
def xrmOf (d : Dev) (h : Nat) : Nat := (hartAt d h).hlvxrm

/-- ADD (R247, R248). -/
def execVadd (h : Nat) (v : VOp) (s : State) : Out :=
  hlv h (arithOk h v true true true) (fun d => elementwise h v (fun a b _ => vaddE v (frmOf d h) a b) d) s
/-- SUB: vd = vs1 − vs2 (R247, R248). -/
def execVsub (h : Nat) (v : VOp) (s : State) : Out :=
  hlv h (arithOk h v true true true) (fun d => elementwise h v (fun a b _ => vsubE v (frmOf d h) a b) d) s
/-- MUL (R247, R248). -/
def execVmul (h : Nat) (v : VOp) (s : State) : Out :=
  hlv h (arithOk h v true true true) (fun d => elementwise h v (fun a b _ => vmulE v (frmOf d h) a b) d) s
/-- FMA: vd = vd + vs1 × vs2, rounded once (R256). -/
def execVfma (h : Nat) (v : VOp) (s : State) : Out :=
  hlv h (arithOk h v true false true) (fun d => elementwise h v (fun a b c =>
    encodeX (vFmt v) (frmOf d h) false (fmaN (frmOf d h) (decodeF (vFmt v) a) (decodeF (vFmt v) b) (decodeF (vFmt v) c))) d) s
/-- NFMA: vd = vd − vs1 × vs2, rounded once (R256). -/
def execVnfma (h : Nat) (v : VOp) (s : State) : Out :=
  hlv h (arithOk h v true false true) (fun d => elementwise h v (fun a b c =>
    encodeX (vFmt v) (frmOf d h) false (fmaN (frmOf d h) (decodeF (vFmt v) a).negate (decodeF (vFmt v) b) (decodeF (vFmt v) c))) d) s
/-- DIV: vd = vs1 / vs2 (R247). -/
def execVdiv (h : Nat) (v : VOp) (s : State) : Out :=
  hlv h (arithOk h v true false true) (fun d => elementwise h v (fun a b _ => fpOp v (frmOf d h) divN a b) d) s
/-- SQRT of vs2; vs1 must be 0 (R256). -/
def execVsqrt (h : Nat) (v : VOp) (s : State) : Out :=
  hlv h (fun d => arithOk h v true false true d && v.vs1 == 0#5) (fun d => elementwise h v (fun _ b _ =>
    encodeX (vFmt v) (frmOf d h) false (sqrtN (decodeF (vFmt v) b))) d) s
/-- MIN (R247). -/
def execVmin (h : Nat) (v : VOp) (s : State) : Out :=
  hlv h (arithOk h v true true false) (fun d => elementwise h v (fun a b _ => vminE v a b) d) s
/-- MAX (R247). -/
def execVmax (h : Nat) (v : VOp) (s : State) : Out :=
  hlv h (arithOk h v true true false) (fun d => elementwise h v (fun a b _ => vmaxE v a b) d) s

/-- AND (R248). -/
def execVand (h : Nat) (v : VOp) (s : State) : Out :=
  hlv h (arithOk h v false true false) (fun d => elementwise h v (fun a b _ => (a &&& b, 0)) d) s
/-- OR (R248). -/
def execVor (h : Nat) (v : VOp) (s : State) : Out :=
  hlv h (arithOk h v false true false) (fun d => elementwise h v (fun a b _ => (a ||| b, 0)) d) s
/-- XOR (R248). -/
def execVxor (h : Nat) (v : VOp) (s : State) : Out :=
  hlv h (arithOk h v false true false) (fun d => elementwise h v (fun a b _ => (a ^^^ b, 0)) d) s
/-- SHL by the low 8 bits of the second operand; it wraps (R248). -/
def execVshl (h : Nat) (v : VOp) (s : State) : Out :=
  hlv h (arithOk h v false true false) (fun d => elementwise h v (fun a b _ => (a * 2 ^ (b % 256) % 2 ^ (vBits v), 0)) d) s
/-- SRA: arithmetic right shift without rounding (R256). -/
def execVsra (h : Nat) (v : VOp) (s : State) : Out :=
  hlv h (arithOk h v false true false) (fun d => elementwise h v (fun a b _ =>
    (wrapBits (vBits v) (sext (vBits v) a / (2 ^ (b % 256) : Int)), 0)) d) s

/-! Fixed point (R248), under opcode 0x7B. -/

/-- Checks of an operation of opcode 0x7B on vd, vs1 and vs2. -/
def otherOk (h : Nat) (v : VOp) (fpOk rounds : Bool) (d : Dev) : Bool :=
  (vEs v) != 0 && (!(vFp v) || fpOk) && grp d h v.vd && grp d h v.vs1 && grp d h v.vs2 && (!((vFp v) && rounds) || frmOk d h)
/-- The vector form of an operation. -/
def vVv (v : VOp) : VOp := { v with scalar := false }

/-- SADD (R248). -/
def execSadd (h : Nat) (v : VOp) (s : State) : Out :=
  hlv h (otherOk h v false false) (fun d => elementwise h (vVv v) (fun a b _ => satOp v (· + ·) a b) d) s
/-- SSUB (R248). -/
def execSsub (h : Nat) (v : VOp) (s : State) : Out :=
  hlv h (otherOk h v false false) (fun d => elementwise h (vVv v) (fun a b _ => satOp v (· - ·) a b) d) s
/-- SMULR: round(a × b × 2^−(w − 1)) by hlvxrm, saturated (R248). -/
def execSmulr (h : Nat) (v : VOp) (s : State) : Out :=
  hlv h (otherOk h v false false) (fun d => elementwise h (vVv v) (fun a b _ =>
    satOp v (fun x y => shiftRound (xrmOf d h) (x * y) ((vBits v) - 1)) a b) d) s
/-- RSHR: x × 2^−s exactly, rounded by hlvxrm (R181, R248). -/
def execRshr (h : Nat) (v : VOp) (s : State) : Out :=
  hlv h (otherOk h v false false) (fun d => elementwise h (vVv v) (fun a b _ =>
    (wrapBits (vBits v) (shiftRound (xrmOf d h) (sext (vBits v) a) (b % 256)), 0)) d) s
/-- SSHL: left shift with saturation (R248). -/
def execSshl (h : Nat) (v : VOp) (s : State) : Out :=
  hlv h (otherOk h v false false) (fun d => elementwise h (vVv v) (fun a b _ =>
    satOp v (fun x _ => x * 2 ^ (b % 256)) a 0) d) s

/-! Conversion (R249). -/

/-- Convert an element code from format `f` to format `g`, both by the codes of R175; byte floats saturate. -/
def cvtElem (f g rnd c : Nat) : Flagged Nat :=
  match valOf f 0 c with
  | .f x =>
    if isFl g then encodeF (fmtF g) rnd false x
    else let r := toIntN rnd (intW g) true x; (wrapBits (intW g) r.1, r.2)
  | .i x => if isFl g then encodeF (fmtF g) rnd false (intN x) else (wrapBits (intW g) x, 0)

/-- Format code of an HLV width. -/
def vCode (v : VOp) : Nat := if (vFp v) then (if v.w.toNat = 7 then 0 else 1) else 6 + v.w.toNat

/-- CVT (R249): vs2 gives the format and the direction; elements are packed at their own widths. -/
def execVcvt (h : Nat) (v : VOp) (s : State) : Out :=
  let f := v.vs2.toNat % 16
  let out := bitAt v.vs2.toNat 4
  let src := if out then (vCode v) else f
  let dst := if out then f else (vCode v)
  hlv h (fun d => (vEs v) != 0 && (isFl f || isIn f) && grp d h v.vd && grp d h v.vs1 && frmOk d h) (fun d =>
    let idx := active d h v.pg.toNat (Nat.max (esz src) (esz dst))
    writeElems h v.vd.toNat (esz dst)
      (idx.map fun i => (i, cvtElem src dst (frmOf d h) (vElem d h v.vs1.toNat (esz src) i))) d) s

/-! Permutation, comparison, predicates and reductions (R250, R251). -/

/-- PERM (R251). -/
def execVperm (h : Nat) (v : VOp) (s : State) : Out :=
  hlv h (otherOk h v true false) (fun d => elementwise h (vVv v) (fun _ b _ =>
    (if vlmax d h (vEs v) ≤ b then 0 else vElem d h v.vs1.toNat (vEs v) b, 0)) d) s

/-- Condition of VCMP and its flags (R182, R256): 0 EQ, 1 NE, 2 LT, 3 LE. -/
def vcmpE (v : VOp) (cond a b : Nat) : Bool × Nat :=
  if (vFp v) then
    let x := decodeF (vFmt v) a
    let y := decodeF (vFmt v) b
    let t := if x.isNan || y.isNan then cond == 1
      else if cond = 0 then eqN x y else if cond = 1 then !eqN x y else if cond = 2 then ltN false x y else !ltN false y x
    (t, sigFlag x y)
  else
    let x := sext (vBits v) a
    let y := sext (vBits v) b
    (if cond = 0 then x == y else if cond = 1 then x != y else if cond = 2 then decide (x < y) else decide (x ≤ y), 0)

/-- VCMP (R251): pd bit i for active elements, 0 for all others. -/
def execVcmp (h : Nat) (v : VOp) (s : State) : Out :=
  hlv h (fun d => (vEs v) != 0 && grp d h v.vs1 && grp d h v.vs2) (fun d =>
    let r := (active d h v.pg.toNat (vEs v)).map fun i => (i, vcmpE v (v.vd.toNat / 8) (vSrc1 (vVv v) d h i) (vSrc2 v d h i))
    let p := r.foldl (fun n e => if e.2.1 then n + 2 ^ e.1 else n) 0
    hlvDone h (accrue h (r.foldl (fun m e => m ||| e.2.2) 0) (setP h (v.vd.toNat % 8) p d))) s

/-- PLOGIC (R251): all 2,048 bits of pd. -/
def execPlogic (h : Nat) (v : VOp) (s : State) : Out :=
  hlv h (fun _ => v.w == 0#3 && v.pg == 0#3 && decide (v.vs1.toNat < 8) && decide (v.vs2.toNat < 8)) (fun d =>
    let a := pReg d h v.vs1.toNat
    let b := pReg d h v.vs2.toNat
    let op := v.vd.toNat / 8
    let r := if op = 0 then a &&& b else if op = 1 then a ||| b else if op = 2 then a &&& (2 ^ 2048 - 1 - b) else a ^^^ b
    hlvDone h (setP h (v.vd.toNat % 8) r d)) s

/-- A reduction: s starts as vs2[0] and takes each active vs1[i] in turn; vd[0] becomes s (R250). -/
def reduce (h : Nat) (v : VOp) (f : Nat → Nat → Flagged Nat) (d : Dev) : Dev :=
  let r := (active d h v.pg.toNat (vEs v)).foldl (fun (acc : Flagged Nat) i =>
    let x := f acc.1 (vElem d h v.vs1.toNat (vEs v) i)
    (x.1, acc.2 ||| x.2)) (vElem d h v.vs2.toNat (vEs v) 0, 0)
  writeElems h v.vd.toNat (vEs v) [(0, r)] d

/-- REDSUM (R250). -/
def execRedsum (h : Nat) (v : VOp) (s : State) : Out :=
  hlv h (otherOk h v true true) (fun d => reduce h v (vaddE v (frmOf d h)) d) s
/-- REDMAX (R250). -/
def execRedmax (h : Nat) (v : VOp) (s : State) : Out :=
  hlv h (otherOk h v true false) (fun d => reduce h v (vmaxE v) d) s
/-- REDMIN (R250). -/
def execRedmin (h : Nat) (v : VOp) (s : State) : Out :=
  hlv h (otherOk h v true false) (fun d => reduce h v (vminE v) d) s

/-- VSETL: hlvl = min(x[rs1], VLMAX), written also to x[rd] (R256). -/
def execVsetl (h : Nat) (v : VOp) (s : State) : Out :=
  hlv h (fun _ => (vEs v) != 0 && v.vs2 == 0#5 && v.pg == 0#3) (fun d =>
    let n := Nat.min (xReg d h v.vs1.toNat) (vlmax d h (vEs v))
    hlvDone h (setX h v.vd.toNat n (modHart h (fun t => { t with hlvl := n }) d))) s

/-! Memory (R252 to R255). -/

/-- Address of element `i`: contiguous, strided by x[rs2], or indexed by vs2[i] × esize (R252). -/
def vAddr (v : VOp) (kind : Nat) (d : Dev) (h i : Nat) : Nat :=
  let base := xReg d h v.vs1.toNat
  (base + (if kind = 0 then i * (vEs v) else if kind = 1 then i * xReg d h v.vs2.toNat else vSrc2 v d h i * (vEs v))) % 2 ^ 64

/-- Checks of a memory form: the width, the group of the data, and vs2, which a contiguous form does not use. -/
def memOk (h : Nat) (v : VOp) (kind : Nat) (d : Dev) : Bool :=
  (vEs v) != 0 && grp d h v.vd && (kind != 0 || v.vs2 == 0#5) && (kind != 2 || grp d h v.vs2)

/-- Whether the messages of `n` elements find room at this node (R309). -/
def vecRoom (d : Dev) (h n : Nat) : Bool := roomFor d (hartQ h) (112 * n)

/-- Elements of a load or gather, as (index, virtual address). -/
def loadList (h : Nat) (v : VOp) (kind : Nat) (d : Dev) : List (Nat × Nat) :=
  (active d h v.pg.toNat (vEs v)).map fun i => (i, vAddr v kind d h i)
/-- Elements of a first-fault form: every one below hlvl (R254). -/
def ffList (h : Nat) (v : VOp) (kind : Nat) (d : Dev) : List (Nat × Nat) :=
  (upto (Nat.min (hartAt d h).hlvl (vlmax d h (vEs v)))).map fun i => (i, vAddr v kind d h i)
/-- Elements of a store or scatter, from hlvstart on, as (index, virtual address, value) (R253). -/
def storeList (h : Nat) (v : VOp) (kind : Nat) (d : Dev) : List (Nat × Nat × Nat) :=
  ((active d h v.pg.toNat (vEs v)).filter fun i => decide ((hartAt d h).hlvstart ≤ i)).map fun i =>
    (i, vAddr v kind d h i, vElem d h v.vd.toNat (vEs v) i)

/-- A load or gather (R252, R253). -/
def vload (h : Nat) (v : VOp) (kind : Nat) (d : Dev) : Dev :=
  let l := loadList h v kind d
  if !vecRoom d h l.length then d else loadElems h (vEs v) true l ⟨1, v.vd.toNat, 0, vEs v, false, [], [], [], none⟩ d

/-- A first-fault load or gather (R254). -/
def vloadff (h : Nat) (v : VOp) (kind : Nat) (d : Dev) : Dev :=
  let l := ffList h v kind d
  if !vecRoom d h l.length then d else loadElems h (vEs v) true l ⟨2, v.vd.toNat, v.pg.toNat, vEs v, false, [], [], [], none⟩ d

/-- Store the elements listed as (index, address, value), in order; a fault leaves those before it written (R253). `n`: their bytes. -/
def storeElems (h n : Nat) : List (Nat × Nat × Nat) → Dev → Dev
  | [], d => hlvDone h d
  | (i, va, x) :: t, d =>
    let stop (c : Nat) (d : Dev) : Dev := trap h c va (dirty h (modHart h (fun t => { t with hlvstart := i % 2 ^ 16 }) d))
    if va % n ≠ 0 then stop 6 d
    else match coreWrite h va n x d with
      | .done d => storeElems h n t d
      | .fault c d => stop c d

/-- A store or scatter (R252, R253). -/
def vstore (h : Nat) (v : VOp) (kind : Nat) (d : Dev) : Dev :=
  let l := storeList h v kind d
  if !vecRoom d h l.length then d else storeElems h (vEs v) l d

/-- Whether a form reaches a device window. -/
def loadDev (h : Nat) (v : VOp) (kind : Nat) (d : Dev) : Bool :=
  touchesDevice h false (vEs v) d ((loadList h v kind d).map (·.2))
def ffDev (h : Nat) (v : VOp) (kind : Nat) (d : Dev) : Bool := touchesDevice h false (vEs v) d ((ffList h v kind d).map (·.2))
def storeDev (h : Nat) (v : VOp) (kind : Nat) (d : Dev) : Bool :=
  touchesDevice h true (vEs v) d ((storeList h v kind d).map (·.2.1))

/-- VLD (R252). -/
def execVld (h : Nat) (v : VOp) (s : State) : Out := hlvMem h (memOk h v 0) (loadDev h v 0) (vload h v 0) s
/-- VST (R253). -/
def execVst (h : Nat) (v : VOp) (s : State) : Out := hlvMem h (memOk h v 0) (storeDev h v 0) (vstore h v 0) s
/-- VLDS (R252). -/
def execVlds (h : Nat) (v : VOp) (s : State) : Out := hlvMem h (memOk h v 1) (loadDev h v 1) (vload h v 1) s
/-- VSTS (R253). -/
def execVsts (h : Nat) (v : VOp) (s : State) : Out := hlvMem h (memOk h v 1) (storeDev h v 1) (vstore h v 1) s
/-- VGATHER (R252). -/
def execVgather (h : Nat) (v : VOp) (s : State) : Out := hlvMem h (memOk h v 2) (loadDev h v 2) (vload h v 2) s
/-- VSCATTER (R253). -/
def execVscatter (h : Nat) (v : VOp) (s : State) : Out := hlvMem h (memOk h v 2) (storeDev h v 2) (vstore h v 2) s
/-- Checks of a first-fault form; pd = p0 is an illegal instruction (R254). -/
def ffOk (h : Nat) (v : VOp) (kind : Nat) (d : Dev) : Bool := memOk h v kind d && v.pg != 0#3
/-- VLDFF (R254). -/
def execVldff (h : Nat) (v : VOp) (s : State) : Out := hlvMem h (ffOk h v 0) (ffDev h v 0) (vloadff h v 0) s
/-- VGATHERFF (R254). -/
def execVgatherff (h : Nat) (v : VOp) (s : State) : Out := hlvMem h (ffOk h v 2) (ffDev h v 2) (vloadff h v 2) s

/-- Checks of PLD and PST: fields they do not use are zero. -/
def pmemOk (v : VOp) : Bool := v.w == 0#3 && v.vs2 == 0#5 && v.pg == 0#3 && decide (v.vd.toNat < 8)
/-- Bytes of a PLD or PST, as (index, virtual address), from index `lo` on. -/
def pList (h lo : Nat) (v : VOp) (d : Dev) : List (Nat × Nat) :=
  ((upto 256).filter fun i => decide (lo ≤ i)).map fun i => (i, (xReg d h v.vs1.toNat + i) % 2 ^ 64)

/-- 256 bytes from x[rs1] into a predicate register (R256). -/
def pload (h : Nat) (v : VOp) (d : Dev) : Dev :=
  if !vecRoom d h 256 then d else loadElems h 1 true (pList h 0 v d) ⟨3, v.vd.toNat, 0, 1, false, [], [], [], none⟩ d
/-- A predicate register to 256 bytes from x[rs1], from byte hlvstart on (R253, R256). -/
def pstore (h : Nat) (v : VOp) (d : Dev) : Dev :=
  if !vecRoom d h 256 then d
  else storeElems h 1 ((pList h (hartAt d h).hlvstart v d).map fun e => (e.1, e.2, bits (pReg d h v.vd.toNat) (8 * e.1) 8)) d

/-- PLD (R256). -/
def execPld (h : Nat) (v : VOp) (s : State) : Out :=
  hlvMem h (fun _ => pmemOk v) (fun d => touchesDevice h false 1 d ((pList h 0 v d).map (·.2))) (pload h v) s
/-- PST (R256). -/
def execPst (h : Nat) (v : VOp) (s : State) : Out :=
  hlvMem h (fun _ => pmemOk v) (fun d => touchesDevice h true 1 d ((pList h (hartAt d h).hlvstart v d).map (·.2))) (pstore h v) s

end Sys2Proof.Machine
end

