-- ==== Sys2Proof/Machine/Dispatch.lean ====
section
/-!
DEFINITION. Machine/Dispatch.lean: the meaning of each command, one arm per constructor.
-/
namespace Sys2Proof.Machine

/-- The effect of a command on everything but the queue of waiting commands. -/
def exec (i : Instr) (s : State) : Host.Outcome State Fault Refusal :=
  match i with
  | .nop q seq => Sys2Proof.Machine.execNop q seq s
  | .fence q seq => Sys2Proof.Machine.execFence q seq s
  | .tickwait q seq => Sys2Proof.Machine.execTickwait q seq s
  | .signal q seq => Sys2Proof.Machine.execSignal q seq s
  | .waitsem q seq => Sys2Proof.Machine.execWaitsem q seq s
  | .qdisable q seq => Sys2Proof.Machine.execQdisable q seq s
  | .qenable q seq => Sys2Proof.Machine.execQenable q seq s
  | .copy q seq => Sys2Proof.Machine.execCopy q seq s
  | .gather q seq => Sys2Proof.Machine.execGather q seq s
  | .scatter q seq => Sys2Proof.Machine.execScatter q seq s
  | .inval q seq => Sys2Proof.Machine.execInval q seq s
  | .mma q seq => Sys2Proof.Machine.execMma q seq s
  | .wload q seq => Sys2Proof.Machine.execWload q seq s
  | .vchain q seq => Sys2Proof.Machine.execVchain q seq s
  | .compress q seq => Sys2Proof.Machine.execCompress q seq s
  | .expand q seq => Sys2Proof.Machine.execExpand q seq s
  | .histo q seq => Sys2Proof.Machine.execHisto q seq s
  | .solve q seq => Sys2Proof.Machine.execSolve q seq s
  | .factor q seq => Sys2Proof.Machine.execFactor q seq s
  | .iterate q seq => Sys2Proof.Machine.execIterate q seq s
  | .put q seq => Sys2Proof.Machine.execPut q seq s
  | .get q seq => Sys2Proof.Machine.execGet q seq s
  | .rred q seq => Sys2Proof.Machine.execRred q seq s
  | .mcast q seq => Sys2Proof.Machine.execMcast q seq s
  | .ratom q seq => Sys2Proof.Machine.execRatom q seq s
  | .send q seq => Sys2Proof.Machine.execSend q seq s
  | .recv q seq => Sys2Proof.Machine.execRecv q seq s
  | .coll q seq => Sys2Proof.Machine.execColl q seq s
  | .collReform q seq => Sys2Proof.Machine.execCollReform q seq s
  | .collBatch q seq => Sys2Proof.Machine.execCollBatch q seq s
  | .shardSave q seq => Sys2Proof.Machine.execShardSave q seq s
  | .shardLoad q seq => Sys2Proof.Machine.execShardLoad q seq s
  | .shardVerify q seq => Sys2Proof.Machine.execShardVerify q seq s
  | .replicaCtl q seq => Sys2Proof.Machine.execReplicaCtl q seq s
  | .mread q seq => Sys2Proof.Machine.execMread q seq s
  | .mwrite q seq => Sys2Proof.Machine.execMwrite q seq s
  | .cfgCommit q seq => Sys2Proof.Machine.execCfgCommit q seq s
  | .traceMark q seq => Sys2Proof.Machine.execTraceMark q seq s
  | .packetIssue t => Sys2Proof.Machine.execPacketIssue t s
  | .sequenceMismatchTimeout q => Sys2Proof.Machine.execSequenceMismatchTimeout q s
  | .commandCompletion q seq => Sys2Proof.Machine.execCommandCompletion q seq s
  | .waitsemWake addr => Sys2Proof.Machine.execWaitsemWake addr s
  | .waitsemTimeout q seq => Sys2Proof.Machine.execWaitsemTimeout q seq s
  | .doorbellWrite q value => Sys2Proof.Machine.execDoorbellWrite q value s
  | .qctlEnableResume q by' => Sys2Proof.Machine.execQctlEnableResume q by' s
  | .qctlEnableFlush q by' => Sys2Proof.Machine.execQctlEnableFlush q by' s
  | .qctlDisableDrain q by' => Sys2Proof.Machine.execQctlDisableDrain q by' s
  | .qctlDisableAbort q by' => Sys2Proof.Machine.execQctlDisableAbort q by' s
  | .tilemapWrite a value by' => Sys2Proof.Machine.execTilemapWrite a value by' s
  | .bridlecfgWrite value by' => Sys2Proof.Machine.execBridlecfgWrite value by' s
  | .bridleEnable value by' => Sys2Proof.Machine.execBridleEnable value by' s
  | .bridleDisable value by' => Sys2Proof.Machine.execBridleDisable value by' s
  | .planStage withDrop => Sys2Proof.Machine.execPlanStage withDrop s
  | .planDrop withStage => Sys2Proof.Machine.execPlanDrop withStage s
  | .planapplyWrite frame => Sys2Proof.Machine.execPlanapplyWrite frame s
  | .planAnnounce frame geo => Sys2Proof.Machine.execPlanAnnounce frame geo s
  | .planApply => Sys2Proof.Machine.execPlanApply s
  | .portEnable p => Sys2Proof.Machine.execPortEnable p s
  | .portDisableDrain p => Sys2Proof.Machine.execPortDisableDrain p s
  | .portDisableAbort p => Sys2Proof.Machine.execPortDisableAbort p s
  | .portTrained p lanesUp peer => Sys2Proof.Machine.execPortTrained p lanesUp peer s
  | .portTrainTimeout p => Sys2Proof.Machine.execPortTrainTimeout p s
  | .laneFault p lane => Sys2Proof.Machine.execLaneFault p lane s
  | .laneRetrain p lane => Sys2Proof.Machine.execLaneRetrain p lane s
  | .portFail p => Sys2Proof.Machine.execPortFail p s
  | .linkNotice p => Sys2Proof.Machine.execLinkNotice p s
  | .flitReceive p flit fecFailed => Sys2Proof.Machine.execFlitReceive p flit fecFailed s
  | .replayRequest p lseq => Sys2Proof.Machine.execReplayRequest p lseq s
  | .creditReturn p pool n => Sys2Proof.Machine.execCreditReturn p pool n s
  | .flitForward src => Sys2Proof.Machine.execFlitForward src s
  | .messageReceive src => Sys2Proof.Machine.execMessageReceive src s
  | .ackSend src => Sys2Proof.Machine.execAckSend src s
  | .ackReceive src => Sys2Proof.Machine.execAckReceive src s
  | .resendTimeout dst => Sys2Proof.Machine.execResendTimeout dst s
  | .mcastResend ident => Sys2Proof.Machine.execMcastResend ident s
  | .sendAnnounce src => Sys2Proof.Machine.execSendAnnounce src s
  | .sendAnnRetry q seq => Sys2Proof.Machine.execSendAnnRetry q seq s
  | .sendGo q seq => Sys2Proof.Machine.execSendGo q seq s
  | .collStageMessage src => Sys2Proof.Machine.execCollStageMessage src s
  | .collNotice src => Sys2Proof.Machine.execCollNotice src s
  | .collDeadline grp cseq => Sys2Proof.Machine.execCollDeadline grp cseq s
  | .formMessage src => Sys2Proof.Machine.execFormMessage src s
  | .reformTimeout q seq => Sys2Proof.Machine.execReformTimeout q seq s
  | .frameTick => Sys2Proof.Machine.execFrameTick s
  | .slackStart => Sys2Proof.Machine.execSlackStart s
  | .refreshOwed st => Sys2Proof.Machine.execRefreshOwed st s
  | .refreshPause st => Sys2Proof.Machine.execRefreshPause st s
  | .forcedRefresh st => Sys2Proof.Machine.execForcedRefresh st s
  | .slackRefreshResume st => Sys2Proof.Machine.execSlackRefreshResume st s
  | .bridleTimestamp p residual root => Sys2Proof.Machine.execBridleTimestamp p residual root s
  | .heartbeat p hb => Sys2Proof.Machine.execHeartbeat p hb s
  | .heartbeatLost p => Sys2Proof.Machine.execHeartbeatLost p s
  | .holdoverExpiry => Sys2Proof.Machine.execHoldoverExpiry s
  | .rootTakeover => Sys2Proof.Machine.execRootTakeover s
  | .ppsPulse offNs => Sys2Proof.Machine.execPpsPulse offNs s
  | .ppsLost => Sys2Proof.Machine.execPpsLost s
  | .clk100Lost => Sys2Proof.Machine.execClk100Lost s
  | .clk156Lost => Sys2Proof.Machine.execClk156Lost s
  | .pdieHeartbeat => Sys2Proof.Machine.execPdieHeartbeat s
  | .pdieHeartbeatLost => Sys2Proof.Machine.execPdieHeartbeatLost s
  | .nodeLostDeclare node links => Sys2Proof.Machine.execNodeLostDeclare node links s
  | .nodeLostAction node => Sys2Proof.Machine.execNodeLostAction node s
  | .pairingRecord src rec' => Sys2Proof.Machine.execPairingRecord src rec' s
  | .unpairedTimeout => Sys2Proof.Machine.execUnpairedTimeout s
  | .replicaSessionOpen => Sys2Proof.Machine.execReplicaSessionOpen s
  | .replicaComplete src => Sys2Proof.Machine.execReplicaComplete src s
  | .granuleTaken a session granule => Sys2Proof.Machine.execGranuleTaken a session granule s
  | .launchRecord src rec' => Sys2Proof.Machine.execLaunchRecord src rec' s
  | .launchRebroadcast silent => Sys2Proof.Machine.execLaunchRebroadcast silent s
  | .tileFault a tile => Sys2Proof.Machine.execTileFault a tile s
  | .pseudoChannelFault st pc => Sys2Proof.Machine.execPseudoChannelFault st pc s
  | .pseudoChannelRetrainDone st pc ok => Sys2Proof.Machine.execPseudoChannelRetrainDone st pc ok s
  | .switchPlaneFault => Sys2Proof.Machine.execSwitchPlaneFault s
  | .coreFault core => Sys2Proof.Machine.execCoreFault core s
  | .farTierPortFail port => Sys2Proof.Machine.execFarTierPortFail port s
  | .sensorSample sensor value => Sys2Proof.Machine.execSensorSample sensor value s
  | .fastGuard => Sys2Proof.Machine.execFastGuard s
  | .sensorRecord => Sys2Proof.Machine.execSensorRecord s
  | .counterSample => Sys2Proof.Machine.execCounterSample s
  | .traceDrain => Sys2Proof.Machine.execTraceDrain s
  | .frameRecordWrite => Sys2Proof.Machine.execFrameRecordWrite s
  | .chtabapplyWrite frame by' => Sys2Proof.Machine.execChtabapplyWrite frame by' s
  | .chtabSwitch => Sys2Proof.Machine.execChtabSwitch s
  | .tetherRequest by' => Sys2Proof.Machine.execTetherRequest by' s
  | .drainDone => Sys2Proof.Machine.execDrainDone s
  | .powerOn pins => Sys2Proof.Machine.execPowerOn pins s
  | .powerFail => Sys2Proof.Machine.execPowerFail s
  | .orderlyPowerDown by' => Sys2Proof.Machine.execOrderlyPowerDown by' s
  | .packageReset pulse pins => Sys2Proof.Machine.execPackageReset pulse pins s
  | .testHoldRelease => Sys2Proof.Machine.execTestHoldRelease s
  | .pciePerst p => Sys2Proof.Machine.execPciePerst p s
  | .boot => Sys2Proof.Machine.execBoot s
  | .bootWatchdog => Sys2Proof.Machine.execBootWatchdog s
  | .stackWipeDone => Sys2Proof.Machine.execStackWipeDone s
  | .recoveryGo => Sys2Proof.Machine.execRecoveryGo s
  | .armTrial by' => Sys2Proof.Machine.execArmTrial by' s
  | .confirm by' => Sys2Proof.Machine.execConfirm by' s
  | .cancelTrial by' => Sys2Proof.Machine.execCancelTrial by' s
  | .burn by' => Sys2Proof.Machine.execBurn by' s
  | .live by' => Sys2Proof.Machine.execLive by' s
  | .fdieControllerRestart => Sys2Proof.Machine.execFdieControllerRestart s
  | .authGo by' => Sys2Proof.Machine.execAuthGo by' s
  | .marginStart a value by' => Sys2Proof.Machine.execMarginStart a value by' s
  | .marginDone a => Sys2Proof.Machine.execMarginDone a s
  | .memcfgApply a => Sys2Proof.Machine.execMemcfgApply a s
  | .llccfgWrite value by' => Sys2Proof.Machine.execLlccfgWrite value by' s
  | .mgmtDatagram port datagram => Sys2Proof.Machine.execMgmtDatagram port datagram s
  | .ledgerSummary => Sys2Proof.Machine.execLedgerSummary s
  | .registerWrite off value by' => Sys2Proof.Machine.execRegisterWrite off value by' s
  | .hlvcfgWrite h value => Sys2Proof.Machine.execHlvcfgWrite h value s
  | .riscvFence h pw => Sys2Proof.Machine.execRiscvFence h pw s
  | .vsetl h v => Sys2Proof.Machine.execVsetl h v s
  | .vld h v => Sys2Proof.Machine.execVld h v s
  | .vst h v => Sys2Proof.Machine.execVst h v s
  | .vlds h v => Sys2Proof.Machine.execVlds h v s
  | .vsts h v => Sys2Proof.Machine.execVsts h v s
  | .vgather h v => Sys2Proof.Machine.execVgather h v s
  | .vscatter h v => Sys2Proof.Machine.execVscatter h v s
  | .vldff h v => Sys2Proof.Machine.execVldff h v s
  | .vgatherff h v => Sys2Proof.Machine.execVgatherff h v s
  | .pld h v => Sys2Proof.Machine.execPld h v s
  | .pst h v => Sys2Proof.Machine.execPst h v s
  | .vcmp h v => Sys2Proof.Machine.execVcmp h v s
  | .plogic h v => Sys2Proof.Machine.execPlogic h v s
  | .sadd h v => Sys2Proof.Machine.execSadd h v s
  | .ssub h v => Sys2Proof.Machine.execSsub h v s
  | .smulr h v => Sys2Proof.Machine.execSmulr h v s
  | .rshr h v => Sys2Proof.Machine.execRshr h v s
  | .sshl h v => Sys2Proof.Machine.execSshl h v s
  | .vcvt h v => Sys2Proof.Machine.execVcvt h v s
  | .vperm h v => Sys2Proof.Machine.execVperm h v s
  | .redsum h v => Sys2Proof.Machine.execRedsum h v s
  | .redmax h v => Sys2Proof.Machine.execRedmax h v s
  | .redmin h v => Sys2Proof.Machine.execRedmin h v s
  | .vadd h v => Sys2Proof.Machine.execVadd h v s
  | .vsub h v => Sys2Proof.Machine.execVsub h v s
  | .vmul h v => Sys2Proof.Machine.execVmul h v s
  | .vfma h v => Sys2Proof.Machine.execVfma h v s
  | .vnfma h v => Sys2Proof.Machine.execVnfma h v s
  | .vdiv h v => Sys2Proof.Machine.execVdiv h v s
  | .vsqrt h v => Sys2Proof.Machine.execVsqrt h v s
  | .vmin h v => Sys2Proof.Machine.execVmin h v s
  | .vmax h v => Sys2Proof.Machine.execVmax h v s
  | .vand h v => Sys2Proof.Machine.execVand h v s
  | .vor h v => Sys2Proof.Machine.execVor h v s
  | .vxor h v => Sys2Proof.Machine.execVxor h v s
  | .vshl h v => Sys2Proof.Machine.execVshl h v s
  | .vsra h v => Sys2Proof.Machine.execVsra h v s
  | .scalarLoadStore h m => Sys2Proof.Machine.execScalarLoadStore h m s
  | .scalarFDWrite h rd value single => Sys2Proof.Machine.execScalarFDWrite h rd value single s
  | .inboundAccess p a => Sys2Proof.Machine.execInboundAccess p a s
  | .pcieLinkUp p width rate sris => Sys2Proof.Machine.execPcieLinkUp p width rate sris s
  | .pcieLinkDown p => Sys2Proof.Machine.execPcieLinkDown p s
  | .farTierPortUp port cap => Sys2Proof.Machine.execFarTierPortUp port cap s
  | .aDieUncontainedFault a => Sys2Proof.Machine.execADieUncontainedFault a s
  | .referenceClockReturn clk156 => Sys2Proof.Machine.execReferenceClockReturn clk156 s
  | .ieee1588EventMessage tai => Sys2Proof.Machine.execIeee1588EventMessage tai s
  | .ieee1588SourceLost => Sys2Proof.Machine.execIeee1588SourceLost s
  | .tapInstruction ir => Sys2Proof.Machine.execTapInstruction ir s
  | .stagingSlotFree a slot => Sys2Proof.Machine.execStagingSlotFree a slot s
  | .backgroundWipeDone what => Sys2Proof.Machine.execBackgroundWipeDone what s
  | .stackRetrainDone st => Sys2Proof.Machine.execStackRetrainDone st s
  | .laneRetrainDone p lane ok => Sys2Proof.Machine.execLaneRetrainDone p lane ok s
  | .tableSetStage t rev addr len => Sys2Proof.Machine.execTableSetStage t rev addr len s
  | .slotWrite addr len off last => Sys2Proof.Machine.execSlotWrite addr len off last s
  | .dailyLedgerRecord => Sys2Proof.Machine.execDailyLedgerRecord s

end Sys2Proof.Machine
end

