-- ==== Sys2Proof/Machine/Step.lean ====
section
/-!
DEFINITION. Machine/Step.lean: one step of the package: the command that has waited longest, or one idle cycle.
-/
namespace Sys2Proof.Machine

/-- Take the command at the front of the queue and perform it with the queue's rest; with none waiting, one arithmetic cycle of
R8 passes (log entry 2). -/
def step (s : State) : Host.Outcome State Fault Refusal :=
  match s.pending with
  | [] => .next { s with dev := pass 1 s.dev }
  | c :: rest => exec c { s with pending := rest }

/-- Put the command a word spells at the front of the queue. The table of operations gives its rows no bits, so no word spells
one. -/
def State.withFetchWord (s : State) (nbits w : Nat) : State :=
  match decodeTableWord nbits w with
  | some c => { s with pending := c :: s.pending }
  | none => s

end Sys2Proof.Machine
end

