-- ==== Sys2Proof/WellFormed.lean ====
section
/-!
DEFINITION. WellFormed.lean: which commands name things the package has: queues (R68), tiles, ports, stacks, harts, registers.
-/
namespace Sys2Proof

/-- Whether every operand lies in its range. A command outside its range names nothing, and its meaning leaves the package as it is
or takes the operand's low bits. -/
def Instr.wf : Instr → Bool
  | .nop q seq => decide (q < 65536 ∧ seq < 65536)
  | .fence q seq => decide (q < 65536 ∧ seq < 65536)
  | .tickwait q seq => decide (q < 65536 ∧ seq < 65536)
  | .signal q seq => decide (q < 65536 ∧ seq < 65536)
  | .waitsem q seq => decide (q < 65536 ∧ seq < 65536)
  | .qdisable q seq => decide (q < 65536 ∧ seq < 65536)
  | .qenable q seq => decide (q < 65536 ∧ seq < 65536)
  | .copy q seq => decide (q < 65536 ∧ seq < 65536)
  | .gather q seq => decide (q < 65536 ∧ seq < 65536)
  | .scatter q seq => decide (q < 65536 ∧ seq < 65536)
  | .inval q seq => decide (q < 65536 ∧ seq < 65536)
  | .mma q seq => decide (q < 65536 ∧ seq < 65536)
  | .wload q seq => decide (q < 65536 ∧ seq < 65536)
  | .vchain q seq => decide (q < 65536 ∧ seq < 65536)
  | .compress q seq => decide (q < 65536 ∧ seq < 65536)
  | .expand q seq => decide (q < 65536 ∧ seq < 65536)
  | .histo q seq => decide (q < 65536 ∧ seq < 65536)
  | .solve q seq => decide (q < 65536 ∧ seq < 65536)
  | .factor q seq => decide (q < 65536 ∧ seq < 65536)
  | .iterate q seq => decide (q < 65536 ∧ seq < 65536)
  | .put q seq => decide (q < 65536 ∧ seq < 65536)
  | .get q seq => decide (q < 65536 ∧ seq < 65536)
  | .rred q seq => decide (q < 65536 ∧ seq < 65536)
  | .mcast q seq => decide (q < 65536 ∧ seq < 65536)
  | .ratom q seq => decide (q < 65536 ∧ seq < 65536)
  | .send q seq => decide (q < 65536 ∧ seq < 65536)
  | .recv q seq => decide (q < 65536 ∧ seq < 65536)
  | .coll q seq => decide (q < 65536 ∧ seq < 65536)
  | .collReform q seq => decide (q < 65536 ∧ seq < 65536)
  | .collBatch q seq => decide (q < 65536 ∧ seq < 65536)
  | .shardSave q seq => decide (q < 65536 ∧ seq < 65536)
  | .shardLoad q seq => decide (q < 65536 ∧ seq < 65536)
  | .shardVerify q seq => decide (q < 65536 ∧ seq < 65536)
  | .replicaCtl q seq => decide (q < 65536 ∧ seq < 65536)
  | .mread q seq => decide (q < 65536 ∧ seq < 65536)
  | .mwrite q seq => decide (q < 65536 ∧ seq < 65536)
  | .cfgCommit q seq => decide (q < 65536 ∧ seq < 65536)
  | .traceMark q seq => decide (q < 65536 ∧ seq < 65536)
  | .packetIssue t => decide (t < 64)
  | .sequenceMismatchTimeout q => decide (q < 65536)
  | .commandCompletion q seq => decide (q < 65536 ∧ seq < 65536)
  | .waitsemWake addr => decide (addr < 2 ^ 48)
  | .waitsemTimeout q seq => decide (q < 65536 ∧ seq < 65536)
  | .doorbellWrite q _ => decide (q < 65536)
  | .qctlEnableResume q _ => decide (q < 65536)
  | .qctlEnableFlush q _ => decide (q < 65536)
  | .qctlDisableDrain q _ => decide (q < 65536)
  | .qctlDisableAbort q _ => decide (q < 65536)
  | .tilemapWrite a _ _ => decide (a < 8)
  | .bridlecfgWrite _ _ => true
  | .bridleEnable _ _ => true
  | .bridleDisable _ _ => true
  | .planStage _ => true
  | .planDrop _ => true
  | .planapplyWrite _ => true
  | .planAnnounce _ _ => true
  | .planApply => true
  | .portEnable p => decide (p < 18)
  | .portDisableDrain p => decide (p < 18)
  | .portDisableAbort p => decide (p < 18)
  | .portTrained p _ _ => decide (p < 18)
  | .portTrainTimeout p => decide (p < 18)
  | .laneFault p lane => decide (p < 18 ∧ lane < 16)
  | .laneRetrain p lane => decide (p < 18 ∧ lane < 16)
  | .portFail p => decide (p < 18)
  | .linkNotice p => decide (p < 18)
  | .flitReceive p _ _ => decide (p < 18)
  | .replayRequest p lseq => decide (p < 18 ∧ lseq < 4096)
  | .creditReturn p pool _ => decide (p < 18 ∧ pool < 17)
  | .flitForward src => decide (src < 2 ^ 16)
  | .messageReceive src => decide (src < 2 ^ 16)
  | .ackSend src => decide (src < 2 ^ 16)
  | .ackReceive src => decide (src < 2 ^ 16)
  | .resendTimeout dst => decide (dst < 2 ^ 16)
  | .mcastResend ident => decide (ident < 2 ^ 32)
  | .sendAnnounce src => decide (src < 2 ^ 16)
  | .sendAnnRetry q seq => decide (q < 65536 ∧ seq < 65536)
  | .sendGo q seq => decide (q < 65536 ∧ seq < 65536)
  | .collStageMessage src => decide (src < 2 ^ 16)
  | .collNotice src => decide (src < 2 ^ 16)
  | .collDeadline grp cseq => decide (grp < 4096 ∧ cseq < 2 ^ 32)
  | .formMessage src => decide (src < 2 ^ 16)
  | .reformTimeout q seq => decide (q < 65536 ∧ seq < 65536)
  | .frameTick => true
  | .slackStart => true
  | .refreshOwed st => decide (st < 16)
  | .refreshPause st => decide (st < 16)
  | .forcedRefresh st => decide (st < 16)
  | .slackRefreshResume st => decide (st < 16)
  | .bridleTimestamp p _ _ => decide (p < 18)
  | .heartbeat p _ => decide (p < 18)
  | .heartbeatLost p => decide (p < 18)
  | .holdoverExpiry => true
  | .rootTakeover => true
  | .ppsPulse _ => true
  | .ppsLost => true
  | .clk100Lost => true
  | .clk156Lost => true
  | .pdieHeartbeat => true
  | .pdieHeartbeatLost => true
  | .nodeLostDeclare node _ => decide (node < 16384)
  | .nodeLostAction node => decide (node < 16384)
  | .pairingRecord src _ => decide (src < 2 ^ 16)
  | .unpairedTimeout => true
  | .replicaSessionOpen => true
  | .replicaComplete src => decide (src < 2 ^ 16)
  | .granuleTaken a session granule => decide (a < 8 ∧ session < 2 ∧ granule < 196608)
  | .launchRecord src _ => decide (src < 2 ^ 16)
  | .launchRebroadcast _ => true
  | .tileFault a tile => decide (a < 8 ∧ tile < 9)
  | .pseudoChannelFault st pc => decide (st < 16 ∧ pc < 32)
  | .pseudoChannelRetrainDone st pc _ => decide (st < 16 ∧ pc < 32)
  | .switchPlaneFault => true
  | .coreFault core => decide (core < 32)
  | .farTierPortFail i => decide (i < 4)
  | .sensorSample i _ => decide (i < 560)
  | .fastGuard => true
  | .sensorRecord => true
  | .counterSample => true
  | .traceDrain => true
  | .frameRecordWrite => true
  | .chtabapplyWrite _ _ => true
  | .chtabSwitch => true
  | .tetherRequest _ => true
  | .drainDone => true
  | .powerOn _ => true
  | .powerFail => true
  | .orderlyPowerDown _ => true
  | .packageReset _ _ => true
  | .testHoldRelease => true
  | .pciePerst p => decide (p < 2)
  | .boot => true
  | .bootWatchdog => true
  | .stackWipeDone => true
  | .recoveryGo => true
  | .armTrial _ => true
  | .confirm _ => true
  | .cancelTrial _ => true
  | .burn _ => true
  | .live _ => true
  | .fdieControllerRestart => true
  | .authGo _ => true
  | .marginStart a _ _ => decide (a < 8)
  | .marginDone a => decide (a < 8)
  | .memcfgApply a => decide (a < 8)
  | .llccfgWrite _ _ => true
  | .mgmtDatagram port datagram => decide (port < 2 ∧ datagram.length ≤ 5464)
  | .ledgerSummary => true
  | .registerWrite off _ _ => decide ((off % 8 = 0 ∧ off < 2 ^ 30 ∨ 2 ^ 40 ≤ off ∧ off < 2 ^ 40 + 131072))
  | .hlvcfgWrite h _ => decide (h < 32)
  | .riscvFence h _ => decide (h < 32)
  | .vsetl h _ => decide (h < 32)
  | .vld h _ => decide (h < 32)
  | .vst h _ => decide (h < 32)
  | .vlds h _ => decide (h < 32)
  | .vsts h _ => decide (h < 32)
  | .vgather h _ => decide (h < 32)
  | .vscatter h _ => decide (h < 32)
  | .vldff h _ => decide (h < 32)
  | .vgatherff h _ => decide (h < 32)
  | .pld h _ => decide (h < 32)
  | .pst h _ => decide (h < 32)
  | .vcmp h _ => decide (h < 32)
  | .plogic h _ => decide (h < 32)
  | .sadd h _ => decide (h < 32)
  | .ssub h _ => decide (h < 32)
  | .smulr h _ => decide (h < 32)
  | .rshr h _ => decide (h < 32)
  | .sshl h _ => decide (h < 32)
  | .vcvt h _ => decide (h < 32)
  | .vperm h _ => decide (h < 32)
  | .redsum h _ => decide (h < 32)
  | .redmax h _ => decide (h < 32)
  | .redmin h _ => decide (h < 32)
  | .vadd h _ => decide (h < 32)
  | .vsub h _ => decide (h < 32)
  | .vmul h _ => decide (h < 32)
  | .vfma h _ => decide (h < 32)
  | .vnfma h _ => decide (h < 32)
  | .vdiv h _ => decide (h < 32)
  | .vsqrt h _ => decide (h < 32)
  | .vmin h _ => decide (h < 32)
  | .vmax h _ => decide (h < 32)
  | .vand h _ => decide (h < 32)
  | .vor h _ => decide (h < 32)
  | .vxor h _ => decide (h < 32)
  | .vshl h _ => decide (h < 32)
  | .vsra h _ => decide (h < 32)
  | .scalarLoadStore h _ => decide (h < 32)
  | .scalarFDWrite h rd _ _ => decide (h < 32 ∧ rd < 32)
  | .inboundAccess p _ => decide (p < 2)
  | .pcieLinkUp p width rate _ => decide (p < 2 ∧ [1, 2, 4, 8, 16].contains width ∧ 1 ≤ rate ∧ rate ≤ 6)
  | .pcieLinkDown p => decide (p < 2)
  | .farTierPortUp i cap => decide (i < 4 ∧ cap < 4096)
  | .aDieUncontainedFault a => decide (a < 8)
  | .referenceClockReturn _ => true
  | .ieee1588EventMessage _ => true
  | .ieee1588SourceLost => true
  | .tapInstruction _ => true
  | .stagingSlotFree a slot => decide (a < 8 ∧ slot < 64)
  | .backgroundWipeDone _ => true
  | .stackRetrainDone st => decide (st < 16)
  | .laneRetrainDone p lane _ => decide (p < 18 ∧ lane < 16)
  | .tableSetStage t rev addr _ => decide (t < 64 ∧ rev < 65536 ∧ addr < 2 ^ 48)
  | .slotWrite addr len off _ => decide (addr < 2 ^ 48 ∧ off + len ≤ 2 ^ 27)
  | .dailyLedgerRecord => true

end Sys2Proof
end

