-- ==== Sys2Proof/Safety.lean ====
section
/-!
DEFINITION. Safety.lean: what the statements say about states and steps: tables in canonical form, a command that is served, and
what an effect leaves alone.
-/
namespace Sys2Proof.Machine

/-- Memory in canonical form: strictly rising addresses, no entry that reads as an unlisted address does (R287). -/
def Memory.wf (m : Tab Byte) : Bool := tabWf memRest m

/-- Every table of the device is in canonical form: memory, registers, the values in force of tick-timed registers, flash, queues,
engines' reservations, round-robin, tiles, stacks, copy trackers, counters and harts. -/
structure Formed (d : Dev) : Prop where
  mem : Memory.wf d.mem = true
  regs : tabWf regReset d.regs = true
  eff : tabWf regReset d.eff = true
  flash : tabWf flashRest d.flash = true
  queues : tabWf queueX0 d.queues = true
  reserved : tabWf (fun _ => 0) d.reserved = true
  rr : tabWf (fun _ => 0) d.rr = true
  tiles : tabWf tile0 d.tiles = true
  stackSt : tabWf stack0 d.stackSt = true
  trackers : tabWf tracker0 d.trackers = true
  counters : tabWf (fun _ => 0) d.counters = true
  harts : tabWf hart0 d.harts = true

/-- The state with another device; the commands that wait stay. -/
abbrev State.on (s : State) (d : Dev) : State := { s with dev := d }

/-- A step that runs on: it answers a next state. -/
def Runs (s : State) : Prop := ∃ t, step s = .next t

/-- Command `seq` of queue `q`, of opcode `op`, is in flight as `f`, its outcome is undecided, and its engine serves it now. -/
def Served (d : Dev) (op q seq : Nat) (f : Flight) : Prop :=
  findFlight d q seq = some f ∧ f.op = op ∧ f.stage = .waiting ∧ turn d f = true ∧ retraining d = false

/-- Registers outside `R` hold what they held. -/
def RegsKept (R : Nat → Prop) (d e : Dev) : Prop := ∀ o, ¬ R o → rg e o = rg d o

/-- Bytes of memory outside `M` read as they did. -/
def MemKept (M : Nat → Prop) (d e : Dev) : Prop := ∀ a, ¬ M a → byteAt e a = byteAt d a

/-- The copy sessions of no A-die hold a write. -/
def NoHolds (d : Dev) : Prop := ∀ x, mustHold d x = false

/-- Every line of memory can be read (R265, R266, R273, R285). -/
def GoodLines (d : Dev) : Prop := ∀ l, lineErr d l = none

/-- A hart in machine mode with no protection entry set: virtual addresses are physical (R225). -/
def Bare (d : Dev) (h : Nat) : Prop :=
  (hartAt d h).priv = 3 ∧ bitAt (hartAt d h).mstatus 17 = false ∧ (hartAt d h).pmpcfg = []

/-- The `n` bytes at core physical address `a` are this package's memory and may be read, or with `wr` written (R235, R259). -/
def MemAt (d : Dev) (wr : Bool) (a n : Nat) : Prop := placeOf d a = .loc a ∧ inCtrl a = false ∧ badRange d wr a n = none

/-- The commands of a core that may reach a device window (R524). -/
def reachesMemory : Instr → Bool
  | .scalarLoadStore .. | .vld .. | .vst .. | .vlds .. | .vsts .. | .vgather .. | .vscatter .. | .vldff .. | .vgatherff .. | .pld ..
  | .pst .. => true
  | _ => false

/-- Of the device only the registers differ. -/
def OnlyRegs (d e : Dev) : Prop := e = { d with regs := e.regs }

/-- Of the device only the commands in flight differ. -/
def OnlyFlights (d e : Dev) : Prop := e = { d with flights := e.flights }

end Sys2Proof.Machine
end

