-- ==== Sys2Proof/Certificates/Slice0/Obligations.lean ====
section
/-!
DEFINITION. Certificates/Slice0/Obligations.lean: the statements for the provers. Each docstring names the rules its statement rests
on; `Formed`, `Served`, `RegsKept` and the other notions are in Safety.lean.
-/
open Sys2Proof Sys2Proof.Machine

/-- The queue of commands: one step performs the command that has waited longest, with the rest of the queue; with none waiting one cycle
passes and nothing else changes (the idle cycle is the model's choice, log entry 2). -/
def Obligations.StepRunsFrontCommand : Prop :=
  (∀ (c : Instr) (d : Dev) (rest : List Instr), step ⟨d, c :: rest⟩ = exec c ⟨d, rest⟩) ∧
  (∀ d : Dev, step ⟨d, []⟩ = .next ⟨{ d with clk := { d.clk with cyc := d.clk.cyc + 1, podT := d.clk.podT + 40 } }, []⟩)

/-- Every step keeps every table of the package in canonical form: memory, registers, the values in force, flash, queues, reservations,
round-robin, tiles, stacks, trackers, counters and harts. So equal contents are equal data. -/
def Obligations.StepKeepsCanonicalForm : Prop :=
  ∀ s t : State, Formed s.dev → step s = .next t → Formed t.dev

/-- The state after reset is in canonical form, with no command waiting. -/
def Obligations.ResetIsCanonical : Prop := Formed State.reset.dev ∧ State.reset.pending = []

/-- The reset columns of the register tables: queues DISABLED, of class BULK and 16 slots; the default geometry of R36; the identity map
of tiles in force; ring sizes; voltage and power policy; lanes; no twin step held; memory zero (R287). -/
def Obligations.ResetRegisters : Prop :=
  let d := State.reset.dev
  (∀ q, q < 65536 → qState d q = 0 ∧ qClass d q = 2 ∧ qLog d q = 4 ∧ qHead d q = 0 ∧ qTail d q = 0 ∧ qRetire d q = 0 ∧ qMgmt d q = false) ∧
  (∀ t, t < 64 → physTile d t = t % 8 ∧ rg d (aSeqErr t) = 0 ∧ rg d (aFpXcpt t) = 0) ∧
  (∀ p, p < 18 → portState d p = 0 ∧ rf d (fPortCtl p) 0 16 = 2 ^ portLanes p - 1 ∧ rf d (fPortStat p) 34 5 = 31) ∧
  (∀ k, k < 10 → ef d (mRailPol k) 0 10 = 750 ∧ ef d (mRailPol k) 10 10 = 900 ∧ vnow d k = 850) ∧
  geoOf d = defaultGeo ∧ ef d mPwrPol 0 12 = 2000 ∧ poolBytes d = 16 * mib ∧ brEnable d = false ∧ brBackup d = 1 ∧
  rf d fBridleStat 3 5 = 31 ∧ rf d mErrRing 48 5 = 8 ∧ rf d mFrmRing 48 5 = 10 ∧ rf d mSensRing 48 5 = 12 ∧ rf d mTrcCfg 28 5 = 14 ∧
  rf d mTrcCfg 33 5 = 14 ∧ rf d mCntSamp 0 16 = 1000 ∧ (rg d mCntTiles).toNat = 2 ^ 64 - 1 ∧ (rg d mTwinHeld).toNat = 2 ^ 64 - 1 ∧
  (rg d mTwinPrev).toNat = 2 ^ 64 - 1 ∧ (rg d mTwinMine).toNat = 2 ^ 64 - 1 ∧ rg d mFaultStat = 0 ∧ rg d mTether = 0 ∧
  (∀ a, byteAt d a = 0)

/-- Whatever its operands and the state, a command ends in a next state in canonical form that leaves the queue of waiting commands alone;
only an access of a core to a device window stops the model, and only a private TAP instruction is refused. -/
def Obligations.CommandsComplete : Prop :=
  ∀ (c : Instr) (s : State),
    (∃ t, exec c s = .next t ∧ t.pending = s.pending ∧ Formed t.dev) ∨
    (exec c s = .fault .deviceWindow ∧ reachesMemory c = true) ∨
    (exec c s = .refused .privateTap ∧ ∃ ir : BitVec 8, c = .tapInstruction ir ∧ 0x80 ≤ ir.toNat ∧ ir.toNat ≤ 0xFE ∧
      rb s.dev mLifecycle 8 = true)

/-- R17: a write that maps two logical indices to one physical tile (code 0xF, no tile, may stand more than once), or that holds a
reserved code, sets map_err and nothing else; another stands in A_TILEMAP, and what is in force stays until the tick. -/
def Obligations.TilemapWrites : Prop :=
  ∀ (s : State) (a : Nat) (v : Word) (by' : Agent), Formed s.dev → s.dev.phase ≠ .off → a < 8 → by' ≠ .job →
    let entry : Nat → Nat := fun l => wbits v (4 * l) 4
    let bad : Prop := (∃ l k, l < k ∧ k < 8 ∧ entry l = entry k ∧ entry l ≠ 0xF) ∨ ∃ l, l < 8 ∧ 9 ≤ entry l ∧ entry l ≤ 14
    (bad → exec (.tilemapWrite a v by') s = .next (s.on (setB s.dev (aTileStat a) 18 true))) ∧
    (¬ bad → exec (.tilemapWrite a v by') s = .next (s.on (setF s.dev (aTileMap a) 0 32 (wbits v 0 32))))

/-- R7, R6, R525: a REGISTER_WRITE of a register whose fields do no more than hold their values. Each field: RW takes the new value, RO
and WO keep theirs, a one in W1C clears, a counter of the any-write kind clears, RWL takes the value until CFG_COMMIT and then keeps its
own, and a field for Myeles keeps its value under a job's write. A job agent changes only its set. Reserved bits stay. -/
def Obligations.AccessTypes : Prop :=
  ∀ (s : State) (off : Nat) (v : Word) (by' : Agent) (fs : List Fld), Formed s.dev → running s.dev = true →
    regFields off = some fs → absentReg s.dev off = false →
    off ∈ [mStatus, mNumCfg, mMemIrq, mFarCfg, mFaultStat, mTwinCfg, mReplStat, mErrPtr, mFrmPtr, mSensPtr, mTrcEPtr, mTrcSPtr, mPwrStat,
      mOvrStat, mCntSamp, mCntTiles, mTrcEvt, fNodeCfg, fChord, fCollPool, fCollErr, fHotLine, fHbLost, fPlanBase, pPcieStat 0,
      pPcieStat 1] ∨ (∃ a, a < 8 ∧ (off = aTileStat a ∨ off = aMemCfg a ∨ off = aCbwStat a)) ∨ (∃ st, st < 16 ∧ off = aStackTherm st) ∨
      (∃ k, k < 10 ∧ off = mRailStat k) ∨ (∃ p, p < 18 ∧ (off = fPortStat p ∨ off = fLinkCnt p)) ∨ (∃ t, t < 64 ∧ (off = aSeqErr t ∨ off = aFpXcpt t ∨ off = aChTab t)) →
    ∃ t, exec (.registerWrite off v by') s = .next t ∧ t.pending = s.pending ∧ OnlyRegs s.dev t.dev ∧ RegsKept (· = off) s.dev t.dev ∧
      (∀ f ∈ fs, let old := rf s.dev off f.lo f.n
        let new := wbits v f.lo f.n
        rf t.dev off f.lo f.n =
          if by' = .job ∧ jobMay (jobSet off) f = false then old
          else match f.acc with
            | .rw => new
            | .rwM => if by' = .job then old else new
            | .ro => old
            | .wo => old
            | .w1c => old - (old &&& new)
            | .w1cAny => 0
            | .rwl => if rb s.dev mStatus 5 = true then old else new) ∧
      (∀ i, i < 64 → (∀ f ∈ fs, i < f.lo ∨ f.lo + f.n ≤ i) → rb t.dev off i = rb s.dev off i)

/-- R233, R70, R7: LLCCFG_WRITE empties the ways that change role and takes effect at once. A write to a queue descriptor outside DISABLED
sets its tile's error bit; one to its pointers changes nothing. An offset that names no register, and a package that does not run, ignore
writes. -/
def Obligations.CheckedRegisters : Prop :=
  ∀ (s : State) (v : Word) (by' : Agent), Formed s.dev → running s.dev = true → by' ≠ .job →
    (rb s.dev mStatus 5 = false → ∃ t, exec (.llccfgWrite v by') s = .next t ∧ t.pending = s.pending ∧
      ef t.dev pLlcCfg 0 4 = wbits v 0 4 ∧ rf t.dev pLlcCfg 0 4 = wbits v 0 4 ∧ RegsKept (· = pLlcCfg) s.dev t.dev ∧
      let lo := Nat.min (ef s.dev pLlcCfg 0 4) (wbits v 0 4)
      let hi := Nat.max (ef s.dev pLlcCfg 0 4) (wbits v 0 4)
      (∀ x, ctrlBase + pRegionOff + 4 * mib * lo ≤ x → x < ctrlBase + pRegionOff + 4 * mib * hi → byteAt t.dev x = 0) ∧
      MemKept (fun x => ctrlBase + pRegionOff + 4 * mib * lo ≤ x ∧ x < ctrlBase + pRegionOff + 4 * mib * hi) s.dev t.dev) ∧
    (rb s.dev mStatus 5 = true → (∀ lo n, ef s.dev pLlcCfg lo n = rf s.dev pLlcCfg lo n) → exec (.llccfgWrite v by') s = .next s) ∧
    (∀ q k, q < 65536 → k < 3 → qState s.dev q ≠ 0 → tileAbsent s.dev (qTile q) = false →
      exec (.registerWrite (0x2000000 + 32 * q + 8 * k) v by') s =
        .next (s.on (setF (setB s.dev (aSeqErr (qTile q)) 0 true) (aSeqErr (qTile q)) 3 10 (qIndex q)))) ∧
    (∀ q, q < 65536 → exec (.registerWrite (qPtr q) v by') s = .next s) ∧
    (∀ off, off < csrBase → off % 8 ≠ 0 ∨ assigned off = false → exec (.registerWrite off v by') s = .next s)

/-- R32, R39, R36, R61, R438: at a FRAME_TICK that ends a frame the next one begins: its number counts up, it starts where the last ended,
its cycle 0 is the first cycle 80 ns later or more, and slack is over; registers that take effect at a tick do. Local frames have the
default geometry and no plan. A root's first pod frame starts at the next whole millisecond. While the package waits for pod time, or does
not run, nothing happens. R34, R378 to R380: SLACK_START brings slack of the current frame, whose number stays, at its instant; where
slack has begun, or no frame runs, nothing happens. FRAME_RECORD_WRITE puts the oldest record that is due in its slot of the ring and
counts wr up; with no room it counts it lost; with the ring off or none due it writes nothing. -/
def Obligations.FrameTicks : Prop :=
  (∀ (s : State), Formed s.dev → s.dev.tetherReq = none → (∀ a, a < 8 → tabGet regReset s.dev.eff (aTileMap a) = rg s.dev (aTileMap a)) →
      (running s.dev = false → exec .frameTick s = .next s) ∧
      (running s.dev = true →
        (s.dev.clk.ticked = true → s.dev.clk.nextTick = none →
          (s.dev.clk.mode = .pod ∧ brEnable s.dev = true ∨ s.dev.clk.mode = .local' ∧ brEnable s.dev = false) →
          ∃ t, exec .frameTick s = .next t ∧ t.pending = s.pending ∧ frameNum t.dev = (frameNum s.dev + 1) % 2 ^ 64 ∧
            (rg t.dev fFrameStart).toNat = endOfFrame s.dev % 2 ^ 64 ∧ frameCycle t.dev = 0 ∧ t.dev.clk.inSlack = false ∧
            24 * (endOfFrame s.dev + 80) ≤ t.dev.clk.podT ∧ s.dev.clk.podT ≤ t.dev.clk.podT ∧ t.dev.clk.mode = s.dev.clk.mode ∧
            (∀ lo n, ef t.dev mPwrPol lo n = rf t.dev mPwrPol lo n ∧ ef t.dev mNumCfg lo n = rf t.dev mNumCfg lo n ∧
              ef t.dev mCntSamp lo n = rf t.dev mCntSamp lo n) ∧
            (s.dev.clk.mode = .local' → geoOf t.dev = defaultGeo ∧ rf t.dev fPlanStat 0 32 = 0 ∧ t.dev.plans.active = []) ∧
            (s.dev.clk.mode = .pod → geoOf t.dev = geoOf s.dev)) ∧
        (s.dev.clk.mode = .waiting →
          (myNode s.dev = brRoot s.dev → s.dev.clk.changeAt = none → exec .frameTick s = .next s) ∧
          (myNode s.dev ≠ brRoot s.dev → s.dev.bridle.rootTick = none → exec .frameTick s = .next s) ∧
          (∀ c, tabGet regReset s.dev.eff fBridleCfg = rg s.dev fBridleCfg → myNode s.dev = brRoot s.dev → s.dev.clk.changeAt = some c →
            ∃ t, exec .frameTick s = .next t ∧ t.pending = s.pending ∧ t.dev.clk.mode = .pod ∧
              frameNum t.dev = (if s.dev.clk.everPod then (frameNum s.dev + 1) % 2 ^ 64 else 0) ∧
              (rg t.dev fFrameStart).toNat = (c / 1000000 + 1) * 1000000 % 2 ^ 64 ∧ rb t.dev fBridleStat 0 = true ∧
              rb t.dev fBridleStat 2 = true)))) ∧
  (∀ (s : State), Formed s.dev →
      (running s.dev = false ∨ s.dev.clk.ticked = false ∨ s.dev.clk.inSlack = true ∨ s.dev.clk.mode = .waiting →
        exec .slackStart s = .next s) ∧
      (running s.dev = true → s.dev.clk.ticked = true → s.dev.clk.inSlack = false → s.dev.clk.mode ≠ .waiting →
        ∃ t, exec .slackStart s = .next t ∧ t.pending = s.pending ∧ t.dev.clk.inSlack = true ∧ frameNum t.dev = frameNum s.dev ∧
          24 * ((rg s.dev fFrameStart).toNat + slackNs s.dev) ≤ t.dev.clk.podT ∧ t.dev.clk.cyc0 = s.dev.clk.cyc0 ∧
          (∀ k, k < 8 → vmin t.dev k ≤ vnow t.dev k ∧ 650 ≤ vmin t.dev k ∧ vmin t.dev k ≤ 950)) ∧
      ((∀ r ∈ s.dev.frecs, r.due = false) → exec .frameRecordWrite s = .next s) ∧
      (∀ r rest k a, s.dev.frecs = r :: rest → r.due = true → rf s.dev mFrmRing 48 5 = k →
        rf s.dev mFrmRing 6 42 * 64 + 64 * (rf s.dev mFrmPtr 0 24 % 2 ^ k) = a →
        (rb s.dev mFrmRing 53 = false → exec .frameRecordWrite s = .next (s.on { s.dev with frecs := rest })) ∧
        (rb s.dev mFrmRing 53 = true → ringFull s.dev mFrmPtr 24 k = true →
          exec .frameRecordWrite s = .next (s.on (addSat { s.dev with frecs := rest } mFrmPtr 48 16 1))) ∧
        (rb s.dev mFrmRing 53 = true → ringFull s.dev mFrmPtr 24 k = false → writeErr s.dev a 64 = none →
          ∃ t, exec .frameRecordWrite s = .next t ∧ t.pending = s.pending ∧ t.dev.frecs = rest ∧ ldBytes t.dev a 64 = recordBytes r ∧
            rf t.dev mFrmPtr 0 24 = (rf s.dev mFrmPtr 0 24 + 1) % 2 ^ 24 ∧ rf t.dev mFrmPtr 24 24 = rf s.dev mFrmPtr 24 24 ∧
            RegsKept (· = mFrmPtr) s.dev t.dev ∧ MemKept (fun x => a ≤ x ∧ x < a + 64) s.dev t.dev)))

/-- R64 to R67, R33 to R35: PLAN_STAGE answers in stage_err: 8 with a drop, 9 where the image cannot be read, else the first check that
fails; an image that passes is the standby plan, and its geometry keeps R33 to R35. PLAN_DROP discards it. At the root PLANAPPLY_WRITE
arms a frame at least three ahead (else code 5, or 7 with no standby), and 0 disarms; elsewhere it is ignored. A member keeps what the
root announces. At the apply frame the geometry comes into force, with the plan that had passed its checks or with none. -/
def Obligations.FramePlans : Prop :=
  (∀ node len img, planErr node len img = 0 → len ≤ 0x40000 ∧ crc32 (img.take 60 ++ [0, 0, 0, 0] ++ img.drop 64) = imgN img 60 4 ∧
    imgN img 0 4 ≠ 0 ∧ imgN img 22 2 % 2 ^ 14 = node ∧ geoOk { imgGeo img with slotLen := imgN img 16 2 } = true ∧
    flowsOk img = true) ∧
  (∀ (s : State), Formed s.dev → running s.dev = true →
    exec (.planStage true) s = .next (s.on (setF s.dev fPlanStat 32 4 8)) ∧
    exec (.planDrop true) s = .next (s.on (setF s.dev fPlanStat 32 4 8)) ∧
    (actingRoot s.dev = false →
      exec (.planDrop false) s = .next (s.on (setStageErr 0 (setStandby [] false s.dev))) ∧
      (∀ v, exec (.planapplyWrite v) s = .next s) ∧
      (∀ base len img e, s.dev.weak = [] → rf s.dev fPlanBase 0 48 = base → badRange s.dev false base 64 = none → readErr s.dev base 64 = none →
        ld s.dev (base + 28) 4 = len → badRange s.dev false base len = none → readErr s.dev base len = none →
        img = ldBytes s.dev base (Nat.min (Nat.max len 64) 0x40000) → planErr (myNode s.dev) len img = e →
        exec (.planStage false) s = .next (s.on (setStageErr e (setStandby (if e = 0 then img.take len else []) (e == 0) s.dev)))) ∧
      (∀ base, rf s.dev fPlanBase 0 48 = base → (badRange s.dev false base 64).isSome = true →
        exec (.planStage false) s = .next (s.on (setStageErr 9 (setStandby [] false s.dev)))) ∧
      (∀ v g, s.dev.clk.mode = .pod → exec (.planAnnounce v g) s =
        .next (s.on { s.dev with plans := { s.dev.plans with inbox := some (v.toNat, g) } }))) ∧
    (actingRoot s.dev = true →
      (∀ v g, exec (.planAnnounce v g) s = .next s) ∧
      (∀ v : Word, v ≠ 0 → rb s.dev fPlanStat 36 = false → exec (.planapplyWrite v) s = .next (s.on (setStageErr 7 s.dev))) ∧
      (∀ v : Word, v ≠ 0 → rb s.dev fPlanStat 36 = true → v.toNat < frameNum s.dev + 3 →
        exec (.planapplyWrite v) s = .next (s.on (setStageErr 5 s.dev))) ∧
      (∀ v : Word, rb s.dev fPlanStat 36 = true → frameNum s.dev + 3 ≤ v.toNat →
        ∃ t, exec (.planapplyWrite v) s = .next t ∧ t.pending = s.pending ∧ rg t.dev fPlanApply = v ∧ rf t.dev fPlanStat 32 4 = 0 ∧
          t.dev.plans.announced = some (v.toNat, imgGeo s.dev.plans.standby) ∧ t.dev.plans.outbox = some v.toNat ∧
          RegsKept (fun o => o = fPlanApply ∨ o = fPlanStat) s.dev t.dev) ∧
      (rg s.dev fPlanApply ≠ 0 → ∃ t, exec (.planapplyWrite 0) s = .next t ∧ t.pending = s.pending ∧ rg t.dev fPlanApply = 0 ∧
        t.dev.plans.announced = none ∧ t.dev.plans.outbox = some 0 ∧ RegsKept (fun o => o = fPlanApply ∨ o = fPlanStat) s.dev t.dev)) ∧
    (s.dev.plans.announced = none → exec .planApply s = .next s) ∧
    (∀ ap g, s.dev.plans.announced = some (ap, g) → s.dev.clk.mode = .pod → ap = frameNum s.dev → ap ≠ 0 → g.period < 2 ^ 24 →
      g.slackStart < 2 ^ 24 → g.exchStart < 2 ^ 24 → g.slotLen < 2 ^ 16 → g.slotCount < 2 ^ 13 →
      ∃ t, exec .planApply s = .next t ∧ t.pending = s.pending ∧ geoOf t.dev = g ∧ rg t.dev fPlanApply = 0 ∧
        t.dev.plans.announced = none ∧
        (s.dev.plans.snapOk = true → t.dev.plans.active = s.dev.plans.snap ∧ rf t.dev fPlanStat 0 32 = imgN s.dev.plans.snap 0 4 ∧
          rb t.dev fPlanStat 37 = false ∧ rb t.dev fPlanStat 36 = false) ∧
        (s.dev.plans.snapOk = false → t.dev.plans.active = [] ∧ rf t.dev fPlanStat 0 32 = 0 ∧ rb t.dev fPlanStat 37 = true) ∧
        RegsKept (fun o => o = fFrameGeo ∨ o = fExchGeo ∨ o = fPlanApply ∨ o = fPlanStat) s.dev t.dev))

/-- R47 to R50: a refresh that becomes owed is owed, or paid in slack; a pause of a long frame pays all that is owed; a carried refresh is
one less owed and counts as forced; when the accesses that held slack's refreshes have ended, what fits is paid. Only that stack's
controller, time and the frame record change. -/
def Obligations.RefreshEvents : Prop :=
  ∀ (s : State) (st : Nat) (x : Stack), Formed s.dev → st < 16 → running s.dev = true → stackAt s.dev st = x → x.parked = false →
    retired s.dev st = false →
    let only : Dev → Prop := fun d => (∀ k, k ≠ st → stackAt d k = stackAt s.dev k) ∧ RegsKept (fun _ => False) s.dev d ∧
      MemKept (fun _ => False) s.dev d
    (paying s.dev st = false → x.owed < 1024 →
      ∃ t, exec (.refreshOwed st) s = .next t ∧ t.pending = s.pending ∧
        stackAt t.dev st = { x with owed := x.owed + 1, owedAt := (x.owedAt / owedEvery s.dev st + 1) * owedEvery s.dev st } ∧
        (x.owedAt / owedEvery s.dev st + 1) * owedEvery s.dev st ≤ t.dev.clk.podT ∧ only t.dev) ∧
    (s.dev.clk.inSlack = false → x.pause ≠ 0 → x.pause < periodNs s.dev → (x.pausesDone + 1) * x.pause < slackNs s.dev →
      ∃ t, exec (.refreshPause st) s = .next t ∧ t.pending = s.pending ∧
        stackAt t.dev st = { x with owed := 0, carried := x.carriedDone, pausesDone := x.pausesDone + 1 } ∧ only t.dev) ∧
    (s.dev.clk.inSlack = false → x.carriedDone < x.carried → (x.carriedDone + 1) * forcedGap s.dev x.carried < slackNs s.dev →
      ∃ t, exec (.forcedRefresh st) s = .next t ∧ t.pending = s.pending ∧
        stackAt t.dev st = { x with owed := x.owed - 1, carriedDone := x.carriedDone + 1 } ∧
        24 * ((rg s.dev fFrameStart).toNat + (x.carriedDone + 1) * forcedGap s.dev x.carried) ≤ t.dev.clk.podT ∧ only t.dev) ∧
    (∀ w, x.waitUntil = some w → boundOn s.dev st = false →
      let fit := (24 * ((rg s.dev fFrameStart).toNat + periodNs s.dev) - s.dev.clk.podT) / 8400
      let n := Nat.min x.owed (fit - x.slackPaid)
      ∃ t, exec (.slackRefreshResume st) s = .next t ∧ t.pending = s.pending ∧
        stackAt t.dev st = { x with owed := x.owed - n, slackPaid := x.slackPaid + n, carried := x.carriedDone, waitUntil := none } ∧
        t.dev.clk = s.dev.clk ∧ only t.dev) ∧
    (x.waitUntil = none → exec (.slackRefreshResume st) s = .next s)

/-- R58, R62: a write of F_BRIDLECFG by a job, or one that would change enable while a job queue is not DISABLED, changes nothing; an
enable or disable with every job queue DISABLED writes enable, an enable its root at once; one that keeps enable at 1 changes the written
value and nothing in force. R53 to R56, R396, R508: the events of Bridle: a timestamp of the parent shows its residual, keeps the member
locked and ends a holdover; a heartbeat is heard; a port not heard in two frames has its bit set, and its peer is suspected; 10 ms into a
holdover a member is no longer locked, a root stays; the backup takes over; a pulse within 1 µs locks the root to its source and one
further off, none, or a lost grandmaster puts it in holdover. -/
def Obligations.BridleAndTime : Prop :=
  (∀ (s : State) (v : Word), Formed s.dev →
      exec (.bridlecfgWrite v .job) s = .next s ∧ exec (.bridleEnable v .job) s = .next s ∧ exec (.bridleDisable v .job) s = .next s ∧
      (∀ by', by' ≠ Agent.job →
        (brEnable s.dev = false → jobQueuesOff s.dev = false → exec (.bridleEnable v by') s = .next s) ∧
        (brEnable s.dev = true → jobQueuesOff s.dev = false → exec (.bridleDisable v by') s = .next s) ∧
        (brEnable s.dev = false → jobQueuesOff s.dev = true →
          ∃ t, exec (.bridleEnable v by') s = .next t ∧ t.pending = s.pending ∧ brEnable t.dev = true ∧ brRoot t.dev = wbits v 0 14 ∧
            brBackup t.dev = wbits v 14 14 ∧ brSource t.dev = wbits v 28 2 ∧ t.dev.bridle.enabledAt = s.dev.clk.cyc ∧ t.dev.clk = s.dev.clk ∧
            (brSource t.dev = 0 → myNode s.dev = brRoot t.dev → rb t.dev fBridleStat 1 = true) ∧
            RegsKept (fun o => o = fBridleCfg ∨ o = fBridleStat) s.dev t.dev) ∧
        (brEnable s.dev = true → jobQueuesOff s.dev = true → s.dev.clk.mode = .pod →
          ∃ t, exec (.bridleDisable v by') s = .next t ∧ t.pending = s.pending ∧ brEnable t.dev = false ∧ t.dev.clk.mode = .pod ∧
            RegsKept (· = fBridleCfg) s.dev t.dev) ∧
        (brEnable s.dev = true → jobQueuesOff s.dev = true → s.dev.clk.mode = .waiting →
          ∃ t, exec (.bridleDisable v by') s = .next t ∧ t.pending = s.pending ∧ brEnable t.dev = false ∧ t.dev.clk.mode = .local' ∧
            t.dev.clk.nextTick = some ((podNs s.dev / 1000000 + 1) * 1000000) ∧
            RegsKept (fun o => o = fBridleCfg ∨ o = fBridleStat) s.dev t.dev) ∧
        (brEnable s.dev = true → wbit v 30 = true →
          ∃ t, exec (.bridlecfgWrite v by') s = .next t ∧ t.pending = s.pending ∧ rf t.dev fBridleCfg 0 31 = wbits v 0 31 ∧
            (∀ lo n, ef t.dev fBridleCfg lo n = ef s.dev fBridleCfg lo n) ∧ OnlyRegs s.dev t.dev ∧ RegsKept (· = fBridleCfg) s.dev t.dev))) ∧
  (∀ (s : State) (p : Nat), Formed s.dev → p < 16 → portState s.dev p = 2 → brEnable s.dev = true → s.dev.clk.mode = .pod →
      (∀ r, rb s.dev fBridleStat 2 = false → rf s.dev fBridleStat 3 5 = p →
        ∃ t, exec (.bridleTimestamp p r none) s = .next t ∧ t.pending = s.pending ∧ rf t.dev fBridleStat 16 16 = r.toNat ∧
          rb t.dev fBridleStat 0 = true ∧ rb t.dev fBridleStat 1 = false ∧ t.dev.bridle.holdStart = none ∧
          RegsKept (· = fBridleStat) s.dev t.dev) ∧
      (∀ r, rf s.dev fBridleStat 3 5 ≠ p → exec (.bridleTimestamp p r none) s = .next s) ∧
      (∀ n b, ∃ t, exec (.heartbeat p ⟨n, 0, b, [], []⟩) s = .next t ∧ t.pending = s.pending ∧
        tabGet (fun _ => 0) t.dev.bridle.heard p = frameNum s.dev ∧ tabGet (fun _ => 0) t.dev.bridle.peerMode n = 0 ∧
        tabGet (fun _ => 0) t.dev.bridle.peerBoots n = b ∧ t.dev.loss.suspects = s.dev.loss.suspects ∧ RegsKept (fun _ => False) s.dev t.dev) ∧
      (∀ m, m ≠ 0 → ∀ n b, ∃ t, exec (.heartbeat p ⟨n, m, b, [], []⟩) s = .next t ∧ t.pending = s.pending ∧
        (n, myNode s.dev) ∈ t.dev.loss.suspects) ∧
      (tabGet (fun _ => 0) s.dev.bridle.heard p + 2 ≤ frameNum s.dev → rb s.dev fHbLost p = false →
        ∃ t, exec (.heartbeatLost p) s = .next t ∧ t.pending = s.pending ∧ rb t.dev fHbLost p = true ∧
          (portPeer s.dev p, myNode s.dev) ∈ t.dev.loss.suspects ∧ RegsKept (· = fHbLost) s.dev t.dev) ∧
      (frameNum s.dev < tabGet (fun _ => 0) s.dev.bridle.heard p + 2 → exec (.heartbeatLost p) s = .next s) ∧
      (∀ c, s.dev.bridle.holdStart = some c →
        (rb s.dev fBridleStat 2 = true → exec .holdoverExpiry s = .next s) ∧
        (rb s.dev fBridleStat 2 = false → ∃ t, exec .holdoverExpiry s = .next t ∧ t.pending = s.pending ∧ rb t.dev fBridleStat 0 = false ∧
          c + 6000000 ≤ t.dev.clk.cyc ∧ RegsKept (· = fBridleStat) s.dev t.dev)) ∧
      (rb s.dev fBridleStat 2 = false → myNode s.dev = brBackup s.dev →
        ∃ t, exec .rootTakeover s = .next t ∧ t.pending = s.pending ∧ rb t.dev fBridleStat 2 = true ∧ rb t.dev fBridleStat 0 = true ∧
          rf t.dev fBridleStat 3 5 = 31 ∧ rf t.dev fBridleStat 8 4 = 0 ∧ t.dev.clk = s.dev.clk ∧ RegsKept (· = fBridleStat) s.dev t.dev) ∧
      (running s.dev = true → myNode s.dev = brRoot s.dev →
        let ends : Instr → Bool → Prop := fun c b => ∃ t, exec c s = .next t ∧ t.pending = s.pending ∧ rb t.dev fBridleStat 12 = b ∧
          rb t.dev fBridleStat 1 = !b ∧ (t.dev.bridle.holdStart = none ↔ b = true) ∧ RegsKept (· = fBridleStat) s.dev t.dev
        (brSource s.dev = 1 → (∀ o : Int, ends (.ppsPulse o) (decide (o.natAbs ≤ 1000))) ∧ ends .ppsLost false) ∧
        (2 ≤ brSource s.dev → (∀ n, ends (.ieee1588EventMessage n) true) ∧ ends .ieee1588SourceLost false)))

/-- R73: a doorbell value more than the ring's length past retire is refused; one past the tail moves the tail; a stale one is ignored. -/
def Obligations.DoorbellMovesTail : Prop :=
  ∀ (s : State) (q : Nat) (v : BitVec 16), Formed s.dev → q < 65536 → running s.dev = true → inTether s.dev = false →
    tileAbsent s.dev (qTile q) = false →
    ∃ t, exec (.doorbellWrite q v) s = .next t ∧ t.pending = s.pending ∧ OnlyRegs s.dev t.dev ∧
      (2 ^ qLog s.dev q < seqSub v.toNat (qRetire s.dev q) →
        rb t.dev (aSeqErr (qTile q)) 1 = true ∧ rf t.dev (aSeqErr (qTile q)) 3 10 = qIndex q ∧
        (∀ i, i = 0 ∨ i = 2 ∨ 13 ≤ i → rb t.dev (aSeqErr (qTile q)) i = rb s.dev (aSeqErr (qTile q)) i) ∧
        RegsKept (· = aSeqErr (qTile q)) s.dev t.dev) ∧
      (seqSub v.toNat (qRetire s.dev q) ≤ 2 ^ qLog s.dev q →
        (seqSub (qTail s.dev q) (qRetire s.dev q) < seqSub v.toNat (qRetire s.dev q) →
          qTail t.dev q = v.toNat ∧ qHead t.dev q = qHead s.dev q ∧ qRetire t.dev q = qRetire s.dev q ∧
          qState t.dev q = qState s.dev q ∧ RegsKept (· = qPtr q) s.dev t.dev) ∧
        (seqSub v.toNat (qRetire s.dev q) ≤ seqSub (qTail s.dev q) (qRetire s.dev q) → t = s))

/-- R75: a queue of an absent tile whose status ring lies in stacked memory and whose command ring does not answers the one packet a
doorbell announces UNREACHABLE, detail 0x8000 + t, count 0, tag 0, packet index 0; a status ring elsewhere: nothing changes. R74: a packet
at the head whose sequence number is not head answers BAD_PACKET detail 5 in that slot's reply slot; head moves past it and the queue is
HELD. -/
def Obligations.AnsweredWithoutRunning : Prop :=
  (∀ (s : State) (q : Nat) (v : BitVec 16), Formed s.dev → q < 65536 → running s.dev = true → inTether s.dev = false →
      tileAbsent s.dev (qTile q) = true →
      (inStacks s.dev (qSBase s.dev q) (16 * 2 ^ qLog s.dev q) = false → exec (.doorbellWrite q v) s = .next s) ∧
      (inStacks s.dev (qSBase s.dev q) (16 * 2 ^ qLog s.dev q) = true →
        inStacks s.dev (qBase s.dev q) (64 * 2 ^ qLog s.dev q) = false → s.dev.trackers = [] →
        seqSub v.toNat (qTail s.dev q) = 1 → qTail s.dev q = qRetire s.dev q → mgmtJob s.dev q (qTail s.dev q) = none →
        writeErr s.dev (replyAddr s.dev q (qTail s.dev q)) 16 = none →
        ∃ t, exec (.doorbellWrite q v) s = .next t ∧ t.pending = s.pending ∧ qTail t.dev q = v.toNat ∧ qHead t.dev q = v.toNat ∧
          qState t.dev q = qState s.dev q ∧ RegsKept (· = qPtr q) s.dev t.dev ∧
          ldBytes t.dev (replyAddr s.dev q (qTail s.dev q)) 16 =
            replyBytes (qLog s.dev q) (qTail s.dev q) 0 0 0x06 (0x8000 + qTile q) 0 (podNs s.dev % 2 ^ 32) ∧
          MemKept (fun x => replyAddr s.dev q (qTail s.dev q) ≤ x ∧ x < replyAddr s.dev q (qTail s.dev q) + 16) s.dev t.dev)) ∧
  (∀ (s : State) (q : Nat) (p : Packet), Formed s.dev → q < 65536 → running s.dev = true → tileAbsent s.dev (qTile q) = false →
      qState s.dev q = 1 → parseHead s.dev q = .mismatch [p] → s.dev.trackers = [] → s.dev.weak = [] →
      mgmtJob s.dev q (qHead s.dev q) = none → readErr s.dev (slotAddr s.dev q (qHead s.dev q)) 64 = none →
      writeErr s.dev (replyAddr s.dev q (qHead s.dev q)) 16 = none →
      ∃ t, exec (.sequenceMismatchTimeout q) s = .next t ∧ t.pending = s.pending ∧ t.dev.flights = s.dev.flights ∧
        ldBytes t.dev (replyAddr s.dev q (qHead s.dev q)) 16 =
          replyBytes (qLog s.dev q) (qHead s.dev q) (pkTag p) 0 0x0D 0x0005 0 (podNs s.dev % 2 ^ 32) ∧
        qHead t.dev q = seqAdd (qHead s.dev q) 1 ∧ qTail t.dev q = qTail s.dev q ∧ qState t.dev q = 2 ∧ rf t.dev (qPtr q) 51 8 = 0x0D ∧
        RegsKept (· = qPtr q) s.dev t.dev ∧
        MemKept (fun x => replyAddr s.dev q (qHead s.dev q) ≤ x ∧ x < replyAddr s.dev q (qHead s.dev q) + 16) s.dev t.dev)

/-- R94, R97: an enable through A_QCTL runs a HELD or RUNNING queue; it binds the lowest free context to a DISABLED queue and runs it; an
enable that is refused leaves the queue DISABLED and shows its cause; on a queue being disabled it waits; on a management queue it is
ignored unless Myeles writes it. FLUSH of a queue with nothing announced is RESUME. R94, R86: a disable through A_QCTL takes a RUNNING or
HELD queue with commands in flight to DRAINING, or under ABORT to ABORTING, where R95 reaches every command in flight; with none in flight
the queue is DISABLED and its context released. DRAIN changes nothing of a queue already DRAINING or ABORTING, and neither changes a
DISABLED one. R95: how ABORT reaches a command in flight: a wait (FENCE, TICKWAIT, WAITSEM, QDISABLE, QENABLE, RECV) answers ABORTED
detail 1 at once; FACTOR, WLOAD, HISTO, INVAL, RATOM, the collectives, REPLICA_CTL, MREAD, MWRITE, CFG_COMMIT, NOP, SIGNAL and TRACE_MARK
run to completion; every other command keeps running with its stop requested. R94, R96: QDISABLE of a DISABLED queue answers OK with count
0, of a RUNNING one under DRAIN with a command in flight takes it to DRAINING and answers when it is DISABLED; of an idle Anvil engine it
disables the engine and answers OK. QENABLE of a HELD queue runs it; of an engine it enables the engine again. A target of an absent
logical tile answers UNREACHABLE 0x8000 + t. -/
def Obligations.QueueControl : Prop :=
  (∀ (s : State) (q : Nat) (by' : Agent) (flush : Bool), Formed s.dev → q < 65536 → running s.dev = true →
      tileAbsent s.dev (qTile q) = false → (flush = true → qTail s.dev q = qHead s.dev q) →
      let c := if flush then Instr.qctlEnableFlush q by' else Instr.qctlEnableResume q by'
      (qMgmt s.dev q = true → by' = .job → exec c s = .next s) ∧
      (qMgmt s.dev q = false ∨ by' ≠ .job →
        (qState s.dev q = 1 ∨ qState s.dev q = 2 → exec c s = .next (s.on (setQState q 1 s.dev))) ∧
        (∀ k, qState s.dev q = 0 → enableRefusal s.dev q = none → freeContext s.dev (qTile q) = some k →
          exec c s = .next (s.on (setQState q 1 (setF s.dev (qCfg q) 14 9 k)))) ∧
        (∀ st det cause, qState s.dev q = 0 → enableRefusal s.dev q = some (st, det, cause) →
          ∃ t, exec c s = .next t ∧ OnlyRegs s.dev t.dev ∧ t.pending = s.pending ∧ RegsKept (· = aSeqErr (qTile q)) s.dev t.dev ∧
            rb t.dev (aSeqErr (qTile q)) 13 = true ∧ rf t.dev (aSeqErr (qTile q)) 14 3 = cause ∧
            rf t.dev (aSeqErr (qTile q)) 3 10 = qIndex q ∧
            rb t.dev (aSeqErr (qTile q)) 2 = (rb s.dev (aSeqErr (qTile q)) 2 || cause == 4)) ∧
        (qState s.dev q = 3 ∨ qState s.dev q = 4 →
          exec c s = .next (s.on (modQueue q (fun x => { x with after := x.after ++ [flush] }) s.dev))))) ∧
  (∀ (s : State) (q : Nat) (by' : Agent), Formed s.dev → q < 65536 → running s.dev = true →
      tileAbsent s.dev (qTile q) = false → qMgmt s.dev q = false ∨ by' ≠ .job →
      (qState s.dev q = 0 → exec (.qctlDisableDrain q by') s = .next s ∧ exec (.qctlDisableAbort q by') s = .next s) ∧
      (qState s.dev q = 3 ∨ qState s.dev q = 4 → exec (.qctlDisableDrain q by') s = .next s) ∧
      (qState s.dev q = 1 ∨ qState s.dev q = 2 → (∃ f ∈ s.dev.flights, f.q = q ∧ f.op ≠ 0x05) →
        exec (.qctlDisableDrain q by') s = .next (s.on (setQState q 3 s.dev)) ∧
        ((∀ f ∈ s.dev.flights, f.op ≠ 0x05) →
          exec (.qctlDisableAbort q by') s = .next (s.on { (setQState q 4 s.dev) with
            flights := s.dev.flights.map fun f => if f.q == q then abortFlight f else f }))) ∧
      (qState s.dev q = 1 ∨ qState s.dev q = 2 → s.dev.flights = [] → (queueAt s.dev q).after = [] →
        ∀ c, c = .qctlDisableDrain q by' ∨ c = .qctlDisableAbort q by' →
          ∃ t, exec c s = .next t ∧ t.pending = s.pending ∧ OnlyRegs s.dev t.dev ∧
            RegsKept (fun o => o = qPtr q ∨ o = qCfg q) s.dev t.dev ∧ qState t.dev q = 0 ∧ rf t.dev (qCfg q) 14 9 = 0 ∧
            qHead t.dev q = qHead s.dev q ∧ qTail t.dev q = qTail s.dev q ∧ qRetire t.dev q = qRetire s.dev q)) ∧
  (∀ f : Flight, f.stage = .waiting →
      (f.op ∈ [0x01, 0x02, 0x04, 0x05, 0x06, 0x56] → (abortFlight f).stage = .done 0x02 0x0001 0) ∧
      (f.op ∈ [0x41, 0x21, 0x33, 0x13, 0x54, 0x60, 0x61, 0x62, 0x73, 0x80, 0x81, 0x82, 0x00, 0x03, 0xF0] → abortFlight f = f) ∧
      (f.op ∈ [0x10, 0x11, 0x12, 0x20, 0x30, 0x31, 0x32, 0x40, 0x42, 0x50, 0x51, 0x52, 0x53, 0x55, 0x70, 0x71, 0x72] →
        abortFlight f = { f with stop := 1 })) ∧
  (∀ (s : State) (q seq : Nat) (f : Flight), Formed s.dev → f.prog = 0 →
      (Served s.dev 0x05 q seq f →
        (∀ x, targetTile f = some x → tileAbsent s.dev x = true →
          exec (.qdisable q seq) s = .next (s.on (finish q seq 0x06 (0x8000 + x) 0 s.dev))) ∧
        (∀ p, pbytes f.head 13 1 = 0 → pbytes f.head 10 2 = p → tileAbsent s.dev (qTile p) = false →
          (qState s.dev p = 0 → exec (.qdisable q seq) s = .next (s.on (finish q seq 0 0 0 s.dev))) ∧
          (qState s.dev p = 1 → pbytes f.head 12 1 = 0 → (∃ g ∈ s.dev.flights, g.q = p ∧ g.op ≠ 0x05) →
            ∃ t, exec (.qdisable q seq) s = .next t ∧ t.pending = s.pending ∧ qState t.dev p = 3 ∧
              RegsKept (· = qPtr p) s.dev t.dev ∧ MemKept (fun _ => False) s.dev t.dev)) ∧
        (∀ a, pbytes f.head 13 1 = 2 → pbytes f.head 10 2 = a → onEngine s.dev (256 + a) = [] →
          exec (.qdisable q seq) s = .next (s.on (finish q seq 0 0 0 { s.dev with disabled := insUp (256 + a) s.dev.disabled })))) ∧
      (Served s.dev 0x06 q seq f →
        (∀ x, targetTile f = some x → tileAbsent s.dev x = true →
          exec (.qenable q seq) s = .next (s.on (finish q seq 0x06 (0x8000 + x) 0 s.dev))) ∧
        (∀ p, pbytes f.head 13 1 = 0 → pbytes f.head 10 2 = p → tileAbsent s.dev (qTile p) = false → qState s.dev p = 2 →
          pbytes f.head 12 1 = 0 → exec (.qenable q seq) s = .next (s.on (finish q seq 0 0 0 (setQState p 1 s.dev)))) ∧
        (∀ a, pbytes f.head 13 1 = 2 → pbytes f.head 10 2 = a →
          exec (.qenable q seq) s = .next (s.on (finish q seq 0 0 0
            { s.dev with disabled := s.dev.disabled.filter (· != 256 + a) })))))

/-- R87: each cycle one command of a ready context is chosen, by class in the order SCHEDULED, COLLECTIVE, BULK, MANAGEMENT, and among
contexts of the class served by turns: the first queue from the one after the last served on, else the lowest. R78 to R80: a reserved
opcode answers BAD_PACKET detail 1; a class that differs from the queue's, or a malformed command, BAD_PACKET with that detail or a lower
one; a management-only operation on a job queue, unless the packet is bad, NOT_PERMITTED detail 1. No other cause stands before these.
R79: the opcodes; every other code is reserved. -/
def Obligations.IssueOrder : Prop :=
  (∀ (d : Dev) (t q : Nat) (r : Ready), Formed d → choose d t = some (q, r) →
      q ∈ liveQueues d t ∧ readyAt d q = r ∧ r ≠ .no ∧
      ∀ p ∈ liveQueues d t, readyAt d p ≠ .no →
        qClass d q ≤ qClass d p ∧
        (qClass d p = qClass d q →
          (tabGet (fun _ => 0) d.rr (4 * t + qClass d q) ≤ p → tabGet (fun _ => 0) d.rr (4 * t + qClass d q) ≤ q ∧ q ≤ p) ∧
          (q < tabGet (fun _ => 0) d.rr (4 * t + qClass d q) → q ≤ p))) ∧
  (∀ (d : Dev) (q : Nat) (p : Packet) (cont : List Packet) (bad : Bool),
      (engineOf (qTile q) (pkOpcode p) = none → packetRefusal d q p cont bad = some (0x0D, 0x0001)) ∧
      (pkClass p ≠ qClass d q → ∃ det, packetRefusal d q p cont bad = some (0x0D, det) ∧ det ≤ 3) ∧
      (bad = true → ∃ det, packetRefusal d q p cont bad = some (0x0D, det) ∧ det ≤ 4) ∧
      (takesMore (pkOpcode p) = false → cont ≠ [] → ∃ det, packetRefusal d q p cont bad = some (0x0D, det) ∧ det ≤ 6) ∧
      (mgmtOnly p = true → qMgmt d q = false →
        packetRefusal d q p cont bad = some (0x0E, 0x0001) ∨ ∃ det, packetRefusal d q p cont bad = some (0x0D, det) ∧ det ≤ 6) ∧
      (∀ st det, packetRefusal d q p cont bad = some (st, det) →
        (st = 0x0D ∧ (det = 1 ∨ det = 2 ∨ det = 3 ∨ det = 4 ∨ det = 6)) ∨ (st = 0x0E ∧ (det = 1 ∨ det = 3 ∨ det = 5 ∨ det = 6)))) ∧
  (∀ t op : Nat, op < 256 → (engineOf t op = none ↔
      op ∉ [0x00, 0x01, 0x02, 0x03, 0x04, 0x05, 0x06, 0x10, 0x11, 0x12, 0x13, 0x20, 0x21, 0x30, 0x31, 0x32, 0x33, 0x40, 0x41, 0x42,
        0x50, 0x51, 0x52, 0x53, 0x54, 0x55, 0x56, 0x60, 0x61, 0x62, 0x70, 0x71, 0x72, 0x73, 0x80, 0x81, 0x82, 0xF0]))

/-- R87, R78: PACKET_ISSUE of a tile that may issue puts the chosen command in flight and moves the queue's head past its packets; a
command that is refused is answered instead, its head packet's reply in the reply slot of the head. -/
def Obligations.PacketIssue : Prop :=
  ∀ (s : State) (t q : Nat) (p : Packet), Formed s.dev → t < 64 → running s.dev = true → inTether s.dev = false →
    tileGone s.dev t = false → retraining s.dev = false → s.dev.weak = [] →
    (choose s.dev t = none → exec (.packetIssue t) s = .next s) ∧
    (∀ cont n dl fin, choose s.dev t = some (q, .start (p :: cont) n dl fin) →
      (∀ i, i < 1 + cont.length → readErr s.dev (slotAddr s.dev q (seqAdd (qHead s.dev q) i)) 64 = none) →
      ∃ u f, exec (.packetIssue t) s = .next u ∧ u.pending = s.pending ∧ u.dev.flights = s.dev.flights ++ [f] ∧
        f.q = q ∧ f.seq = qHead s.dev q ∧ f.head = p ∧ f.cont = cont ∧ f.npkt = 1 + cont.length ∧ f.stage = .waiting ∧ f.stop = 0 ∧
        f.deadline = dl ∧ f.bound = (pkBind p != 0) ∧ f.issued = s.dev.clk.cyc ∧
        qHead u.dev q = seqAdd (qHead s.dev q) (1 + cont.length) ∧ qTail u.dev q = qTail s.dev q ∧
        qRetire u.dev q = qRetire s.dev q ∧ qState u.dev q = qState s.dev q ∧
        RegsKept (· = qPtr q) s.dev u.dev ∧ MemKept (fun _ => False) s.dev u.dev) ∧
    (∀ st det, choose s.dev t = some (q, .refuse [p] st det) → s.dev.trackers = [] → mgmtJob s.dev q (qHead s.dev q) = none →
      readErr s.dev (slotAddr s.dev q (qHead s.dev q)) 64 = none → writeErr s.dev (replyAddr s.dev q (qHead s.dev q)) 16 = none →
      ∃ u, exec (.packetIssue t) s = .next u ∧ u.pending = s.pending ∧ u.dev.flights = s.dev.flights ∧
        qHead u.dev q = seqAdd (qHead s.dev q) 1 ∧
        ldBytes u.dev (replyAddr s.dev q (qHead s.dev q)) 16 =
          replyBytes (qLog s.dev q) (qHead s.dev q) (pkTag p) 0 st det 0 (podNs s.dev % 2 ^ 32) ∧
        (holding st = true → qState s.dev q = 1 → qState u.dev q = 2 ∧ rf u.dev (qPtr q) 51 8 = st % 256) ∧
        RegsKept (· = qPtr q) s.dev u.dev ∧
        MemKept (fun x => replyAddr s.dev q (qHead s.dev q) ≤ x ∧ x < replyAddr s.dev q (qHead s.dev q) + 16) s.dev u.dev)

/-- R81 to R83: COMMAND_COMPLETION of a command of one packet whose outcome is decided writes its 16-byte reply, takes it out of flight,
moves retire past it where every earlier reply is written, raises its notify source, and holds the queue on a holding status, which
hold_status records. -/
def Obligations.CommandCompletion : Prop :=
  ∀ (s : State) (q seq : Nat) (f : Flight) (st det n : Nat), Formed s.dev → q < 65536 → seq < 65536 →
    findFlight s.dev q seq = some f → f.stage = .done st det n → f.npkt = 1 → f.deadline = none → f.bound = false →
    s.dev.trackers = [] → mgmtJob s.dev q seq = none → writeErr s.dev (replyAddr s.dev q seq) 16 = none →
    qState s.dev q = 1 ∨ qState s.dev q = 2 →
    ∃ t, exec (.commandCompletion q seq) s = .next t ∧ t.pending = s.pending ∧
      ldBytes t.dev (replyAddr s.dev q seq) 16 =
        replyBytes (qLog s.dev q) seq (pkTag f.head) 0 st det n (podNs s.dev % 2 ^ 32) ∧
      findFlight t.dev q seq = none ∧
      (holding st = true → qState t.dev q = 2 ∧ rf t.dev (qPtr q) 51 8 = st % 256) ∧
      (holding st = false → qState t.dev q = qState s.dev q ∧ rf t.dev (qPtr q) 51 8 = rf s.dev (qPtr q) 51 8) ∧
      (qRetire s.dev q = seq → (queueAt s.dev q).written = [] → qRetire t.dev q = (seq + 1) % 65536) ∧
      (qRetire s.dev q ≠ seq → (queueAt s.dev q).written = [] → qRetire t.dev q = qRetire s.dev q) ∧
      (pkNotify f.head = true → rf s.dev (qCfg q) 4 10 ≠ 0 → rf s.dev (qCfg q) 4 10 ∈ t.dev.plic) ∧
      qHead t.dev q = qHead s.dev q ∧ qTail t.dev q = qTail s.dev q ∧ RegsKept (· = qPtr q) s.dev t.dev ∧
      MemKept (fun x => replyAddr s.dev q seq ≤ x ∧ x < replyAddr s.dev q seq + 16) s.dev t.dev

/-- R79, R91, R90: NOP answers OK with count 0; TICKWAIT whose cycle had passed at issue answers LATE, at its cycle OK with the cycles
waited, and before it goes on waiting; FENCE LOCAL answers OK once every earlier packet has its reply, and waits until then. R90, R318:
FENCE GLOBAL, every earlier packet answered, answers OK with the number of destinations once each has acknowledged, and UNREACHABLE with
the node's number where a destination is lost. -/
def Obligations.ControlCommands : Prop :=
  (∀ (s : State) (q seq : Nat) (f : Flight), Formed s.dev →
      (Served s.dev 0x00 q seq f → exec (.nop q seq) s = .next (s.on (finish q seq 0 0 0 s.dev))) ∧
      (Served s.dev 0x02 q seq f →
        (f.aux = 1 → exec (.tickwait q seq) s = .next (s.on (finish q seq 0x04 0 0 s.dev))) ∧
        (f.aux ≠ 1 → f.frame < frameNum s.dev ∨ (f.frame = frameNum s.dev ∧ s.dev.clk.mode ≠ .waiting ∧
            s.dev.clk.cyc0 + pbytes f.head 12 4 ≤ s.dev.clk.cyc) →
          exec (.tickwait q seq) s = .next (s.on (finish q seq 0 0 (Nat.min 0xFFFFFFFF (s.dev.clk.cyc - f.issued)) s.dev))) ∧
        (f.aux ≠ 1 → frameNum s.dev < f.frame ∨ (f.frame = frameNum s.dev ∧ s.dev.clk.cyc < s.dev.clk.cyc0 + pbytes f.head 12 4) →
          exec (.tickwait q seq) s = .next s)) ∧
      (Served s.dev 0x01 q seq f → pbytes f.head 10 1 = 0 →
        (qRetire s.dev q = seq → exec (.fence q seq) s = .next (s.on (finish q seq 0 0 0 s.dev))) ∧
        (qRetire s.dev q ≠ seq → exec (.fence q seq) s = .next s))) ∧
  (∀ (s : State) (q seq : Nat) (f : Flight), Formed s.dev → Served s.dev 0x01 q seq f → pbytes f.head 10 1 = 1 → f.prog = 1 →
      qRetire s.dev q = seq →
      (∀ n v, (queueAt s.dev q).dests.find? (fun e => s.dev.fab.lost.contains e.1) = some (n, v) →
        ∃ t k, exec (.fence q seq) s = .next t ∧ t.pending = s.pending ∧ findFlight t.dev q seq = some (f.finish 0x06 n k) ∧
          RegsKept (fun _ => False) s.dev t.dev ∧ MemKept (fun _ => False) s.dev t.dev) ∧
      ((queueAt s.dev q).dests.find? (fun e => s.dev.fab.lost.contains e.1) = none →
        (queueAt s.dev q).dests.all (fun e => ackedTo s.dev e.1 e.2) = true → (queueAt s.dev q).mcasts = [] →
        (queueAt s.dev q).refusal = none →
        ∃ t, exec (.fence q seq) s = .next t ∧ t.pending = s.pending ∧
          findFlight t.dev q seq = some (f.finish 0 0 (queueAt s.dev q).dests.length) ∧
          RegsKept (fun _ => False) s.dev t.dev ∧ MemKept (fun _ => False) s.dev t.dev) ∧
      ((queueAt s.dev q).dests.find? (fun e => s.dev.fab.lost.contains e.1) = none →
        (queueAt s.dev q).dests.all (fun e => ackedTo s.dev e.1 e.2) = false → exec (.fence q seq) s = .next s))

/-- R92: SIGNAL to this node adds its value to the semaphore, modulo 2^64, once every earlier packet has its reply, and waits until then;
a semaphore beyond the rack domain answers NOT_PERMITTED detail 2. Every byte beside the semaphore stays. R93: WAITSEM on a word that can
be read answers OK with count 1 where the word meets its mode (GE and GE_SUB by signed comparison, EQ), GE_SUB subtracting its operand
modulo 2^64; where it does not, the command watches the word's line while one of the tile's 64 watches is free. A write to a watched line
tests again, and at its timeout it answers ABORTED detail 2. -/
def Obligations.SignalAndWaitsem : Prop :=
  (∀ (s : State) (q seq : Nat) (f : Flight), Formed s.dev → Served s.dev 0x03 q seq f → f.prog = 0 →
      (qRetire s.dev q ≠ seq → exec (.signal q seq) s = .next s) ∧
      (qRetire s.dev q = seq → inRack s.dev (gNode (pbytes f.head 16 8)) = false →
        exec (.signal q seq) s = .next (s.on (finish q seq 0x0E 0x0002 0 s.dev))) ∧
      (∀ a, qRetire s.dev q = seq → s.dev.weak = [] → gNode (pbytes f.head 16 8) = myNode s.dev →
        gOff (pbytes f.head 16 8) = a → badRange s.dev true a 8 = none → writeErr s.dev a 8 = none → NoHolds s.dev →
        ∃ t, exec (.signal q seq) s = .next t ∧ t.pending = s.pending ∧ findFlight t.dev q seq = some (f.finish 0 0 1) ∧
          ldBytes t.dev a 8 = bytesOf 8 ((ld s.dev a 8 + pbytes f.head 24 8) % 2 ^ 64) ∧
          RegsKept (fun _ => False) s.dev t.dev ∧ MemKept (fun x => a ≤ x ∧ x < a + 8) s.dev t.dev)) ∧
  (∀ (s : State) (q seq : Nat) (f : Flight) (a v x : Nat), Formed s.dev → Served s.dev 0x04 q seq f →
      bits (pbytes f.head 16 8) 0 48 = a → pbytes f.head 24 8 = x → ld s.dev a 8 = v → s.dev.weak = [] → NoHolds s.dev →
      badRange s.dev (pbytes f.head 10 1 == 2) a 8 = none → readErr s.dev a 8 = none →
      (pbytes f.head 10 1 = 0 → sext 64 x ≤ sext 64 v → exec (.waitsem q seq) s = .next (s.on (finish q seq 0 0 1 s.dev))) ∧
      (pbytes f.head 10 1 = 1 → v = x → exec (.waitsem q seq) s = .next (s.on (finish q seq 0 0 1 s.dev))) ∧
      (pbytes f.head 10 1 = 2 → sext 64 x ≤ sext 64 v →
        ∃ t, exec (.waitsem q seq) s = .next t ∧ t.pending = s.pending ∧ findFlight t.dev q seq = some (f.finish 0 0 1) ∧
          ldBytes t.dev a 8 = bytesOf 8 ((v + 2 ^ 64 - x) % 2 ^ 64) ∧
          RegsKept (fun _ => False) s.dev t.dev ∧ MemKept (fun y => a ≤ y ∧ y < a + 8) s.dev t.dev) ∧
      ((pbytes f.head 10 1 = 0 ∨ pbytes f.head 10 1 = 2) ∧ sext 64 v < sext 64 x ∨ pbytes f.head 10 1 = 1 ∧ v ≠ x →
        ((watched s.dev (qTile q)).length < 64 →
          exec (.waitsem q seq) s = .next (s.on (modFlight q seq (fun y => { y with prog := 1 }) s.dev))) ∧
        (64 ≤ (watched s.dev (qTile q)).length → (watched s.dev (qTile q)).contains (lineOf a) = false →
          exec (.waitsem q seq) s = .next s) ∧
        (pbytes f.head 12 4 ≠ 0 → f.aux + 24 * pbytes f.head 12 4 ≤ mono s.dev →
          exec (.waitsemTimeout q seq) s = .next (s.on (finish q seq 0x02 0x0002 0 s.dev)))) ∧
      (pbytes f.head 10 1 = 1 → v = x → f.prog = 1 → s.dev.flights = [f] →
        exec (.waitsemWake a) s = .next (s.on (finish q seq 0 0 1 s.dev))))

/-- R99, R100, R103, R105, R106: writing the value of any code that is not a NaN back into its format gives the code again and raises
nothing, under every rounding mode, in FP64, FP32, ZH16, ZQ8 and ZQ8W; a NaN gives the format's one NaN. A value beyond a byte format's
range becomes its largest value, with sat and nx. R116, R119: ZQ8 and ZQ8W codes that are not NaN are multiples of 2^-17, and an MMA's
accumulator over such elements is the exact sum of their products, over all its chunks: nothing is rounded and no order matters. -/
def Obligations.FormatsAndExactSums : Prop :=
  (∀ (k rnd c : Nat) (z : Bool), k ≤ 4 → rnd ≤ 4 → c < 2 ^ (fmtF k).w →
      ((decodeF (fmtF k) c).isNan = false → encodeF (fmtF k) rnd z (decodeF (fmtF k) c) = (c, 0)) ∧
      ((decodeF (fmtF k) c).isNan = true → (encodeF (fmtF k) rnd z (decodeF (fmtF k) c)).1 = canonNan (fmtF k)) ∧
      (3 ≤ k → ∀ g m (e : Int), 0 ≤ e → 2 ^ 16 ≤ m * 2 ^ e.toNat →
        encodeF (fmtF k) rnd z (.fin g m e) = (if g then 0xFF else 0x7F, flSAT ||| flNX))) ∧
  (let val : Machine.Num → Int := fun a => match a with
      | .fin g m e => (if g then -1 else 1) * ((m * 2 ^ (e + 17).toNat : Nat) : Int)
      | _ => 0
    let whole : Machine.Num → Prop := fun a => ∃ g m e, a = .fin g m e ∧ -17 ≤ e
    (∀ k c, k = 3 ∨ k = 4 → c < 256 → c ≠ 0x80 → whole (decodeF (fmtF k) c)) ∧
    (∀ (d : Dev) (x : Mma) (first : Option Slab) (as : List (List Machine.Num)) (n : Nat), x.afmt = 3 ∨ x.afmt = 4 →
      (∀ r ∈ as, ∀ a ∈ r, whole a) → (∀ kc, kc < as.length → ∀ b ∈ x.bCol d first n kc, whole b) →
      ∃ g m e, x.accum d first as n = (.fin g m e, 0, false) ∧ -34 ≤ e ∧
        (if g then -1 else 1) * ((m * 2 ^ (e + 34).toNat : Nat) : Int) =
          ((as.zipIdx.flatMap fun p => p.1.zip (x.bCol d first n p.2)).map fun p => val p.1 * val p.2).foldl (· + ·) 0))

/-- R110: discarding bits of an integer by the four fixed-point codes: 0 nearest with halves up, 1 nearest with halves to even, 2 toward
minus infinity, 3 odd wherever a bit is lost. -/
def Obligations.FixedPointRounding : Prop :=
  ∀ (x : Int) (k : Nat),
    shiftRound 0 x (k + 1) = (x + 2 ^ k) / 2 ^ (k + 1) ∧
    shiftRound 2 x k = x / 2 ^ k ∧
    (2 * (x - 2 ^ k * shiftRound 1 x k)).natAbs ≤ 2 ^ k ∧
    ((2 * (x - 2 ^ k * shiftRound 1 x k)).natAbs = 2 ^ k → 0 < k → shiftRound 1 x k % 2 = 0) ∧
    (x % 2 ^ k = 0 → shiftRound 3 x k = x / 2 ^ k) ∧
    (x % 2 ^ k ≠ 0 → shiftRound 3 x k % 2 = 1 ∧ (shiftRound 3 x k = x / 2 ^ k ∨ shiftRound 3 x k = x / 2 ^ k + 1))

/-- R143, R150, R119, R120: an MMA without a fused chain whose passes meet no bad line writes to every C element the accumulator of its
row of A and its row of B, of any chunks, rounded once into C's format, from the operands as they stood (or the loaded slab that carries
its tag); it leaves every other byte and every register but the tile's sticky exception flags, and answers OK, or ARITH_EXCEPTION where a
saturation is reported, with the number of elements. -/
def Obligations.MmaComputes : Prop :=
  ∀ (s : State) (q seq : Nat) (f : Flight) (x : Mma) (w : StageW) (v : Env) (dn : StageW → Machine.Num × Machine.Num × Nat × Bool),
    Formed s.dev → Served s.dev 0x20 q seq f → f.stop = 0 → mmaOf q f.head f.cont = x → x.fused = false → x.epi = [w] → w.fmt ≤ 4 →
    x.afmt ≤ 5 → x.bfmt ≤ 5 → 0 < x.K → x.N * esz w.fmt ≤ x.ldc → NoHolds s.dev → badRange s.dev true x.c (x.M * x.ldc) = none →
    x.goodPasses s.dev (x.loaded s.dev).isSome (x.nBlocks * x.mBlocks * x.chunks) 0 = (x.nBlocks * x.mBlocks * x.chunks, none) →
    rowBytes x.afmt x.K ≤ x.lda → rowBytes x.bfmt x.K ≤ x.ldb → (x.afmt = 5 ∨ x.bfmt = 5 → x.K % 16 = 0) →
    s.dev.weak = [] → x.c + x.M * x.ldc ≤ x.a ∨ x.a + x.aLen ≤ x.c → x.c + x.M * x.ldc ≤ x.b ∨ x.b + x.bLen ≤ x.c →
    ∃ t st, exec (.mma q seq) s = .next t ∧ t.pending = s.pending ∧
      findFlight t.dev q seq = some (f.finish st (b2n (x.wpre && (x.loaded s.dev).isNone)) (x.M * x.N)) ∧
      (st = 0 ∨ st = 8 ∧ (x.satRep = true ∨ x.afmt = 5)) ∧
      (∀ m n, m < x.M → n < x.N →
        ldBytes t.dev (x.c + m * x.ldc + n * esz w.fmt) (esz w.fmt) = bytesOf (esz w.fmt)
          (encodeF (fmtF w.fmt) w.rnd w.zsat (x.accum s.dev (if m < x.mb then x.loaded s.dev else none)
            ((upto x.chunks).map fun kc => (x.aRow s.dev v dn m (kc * x.kb) (x.lenOf kc)).1) n).1).1) ∧
      (∃ y, (tileAt t.dev (qTile q)).slab = some y) ∧ (∀ i, rb s.dev (aFpXcpt (qTile q)) i = true → rb t.dev (aFpXcpt (qTile q)) i = true) ∧
      RegsKept (· = aFpXcpt (qTile q)) s.dev t.dev ∧ MemKept (fun a => x.c ≤ a ∧ a < x.c + x.M * x.ldc) s.dev t.dev

/-- R138, R139, R140: WLOAD of good lines loads the first slab, whose tag is then the tile's, and answers OK with the bytes loaded; one
that meets a bad line answers its status with count 0 and leaves the tile without a slab. R150, R140: an MMA that meets a bad line in a
pass ends with the elements of C of the whole blocks before it, its line's status, and the tile without a slab; one whose C may not be
written answers at once and changes nothing. -/
def Obligations.WloadAndMmaStops : Prop :=
  (∀ (s : State) (q seq : Nat) (f : Flight) (x : Mma), Formed s.dev → Served s.dev 0x21 q seq f → mmaOf q f.head [] = x →
      let kk := Nat.min x.K x.kb
      let nn := Nat.min x.N x.nb
      (s.dev.weak = [] → (∀ n, n < nn → readErr s.dev (x.b + n * x.ldb) (if x.bfmt = 5 then kk / 2 else kk * esz x.bfmt) = none ∧
          (x.bfmt = 5 → readErr s.dev (x.b + x.N * x.ldb + n * (x.ldb / 8)) (cdiv kk 16) = none)) →
        exec (.wload q seq) s = .next (s.on (finish q seq 0 0 (nn * slabRow x.bfmt kk)
          (modTile (qTile q) (fun t => { t with slab := some ⟨x.bfmt, x.shape, x.b, x.ldb, kk, nn, x.slabVals s.dev 0 nn 0 kk⟩ }) s.dev)))) ∧
      (∀ l e, 0 < nn → readErr s.dev x.b (if x.bfmt = 5 then kk / 2 else kk * esz x.bfmt) = some (l, e) →
        ∃ t, exec (.wload q seq) s = .next t ∧ t.pending = s.pending ∧ (tileAt t.dev (qTile q)).slab = none ∧
          findFlight t.dev q seq = some (f.finish (errStatus e) 0 0))) ∧
  (∀ (s : State) (q seq : Nat) (f : Flight) (x : Mma), Formed s.dev → Served s.dev 0x20 q seq f → f.stop = 0 →
      mmaOf q f.head f.cont = x →
      (∀ st det, badRange s.dev true x.c (x.M * x.ldc) = some (st, det) →
        exec (.mma q seq) s = .next (s.on (finish q seq st det 0 s.dev))) ∧
      (∀ p l e w, badRange s.dev true x.c (x.M * x.ldc) = none →
        x.goodPasses s.dev (x.loaded s.dev).isSome (x.nBlocks * x.mBlocks * x.chunks) 0 = (p, some ((l, e), w)) →
        ∃ t, exec (.mma q seq) s = .next t ∧ t.pending = s.pending ∧ (tileAt t.dev (qTile q)).slab = none ∧
          findFlight t.dev q seq = some (f.finish (errStatus e) (b2n (x.wpre && (x.loaded s.dev).isNone))
            (sumUp x.blockElems (p / x.chunks) 0))))

/-- R176, R180: a VCHAIN of stages with immediate operands, whose groups meet no bad line, writes to every destination element what its
stages make of the source element, in order, each rounded into its own format; it leaves every other byte and every register but the
tile's sticky exception flags, and answers OK, or ARITH_EXCEPTION where saturation is reported, with the number of elements. The source is
the destination, element for element, or apart from it. R104, R114, R180: what a stage with an immediate operand computes on a real value,
rounded once into its format by its own rounding mode: MUL, ADD, MAX, MIN, NEG and ABS. -/
def Obligations.VchainComputes : Prop :=
  (∀ (s : State) (q seq : Nat) (f : Flight) (x : VChain), Formed s.dev → Served s.dev 0x30 q seq f → f.stop = 0 →
      vchainOf q f.head f.cont = x → (∀ w ∈ x.sts, w.use = false ∧ w.op ∉ [0x01, 0x02, 0x12, 0x15, 0x16]) → x.blocky = false →
      rowBytes x.ifmt x.L ≤ x.lds → x.L * esz x.ofmt ≤ x.ldd → (x.ifmt = 5 → x.L % 16 = 0) → (x.ifmt = 0xC → x.L % 256 = 0) →
      NoHolds s.dev → s.dev.weak = [] → badRange s.dev true x.dst (matLen x.ofmt x.rows x.ldd) = none →
      x.goodGroups s.dev (x.rows * x.groups) 0 = (x.rows * x.groups, none) →
      x.src + matLen x.ifmt x.rows x.lds ≤ x.dst ∨ x.dst + x.rows * x.ldd ≤ x.src ∨
        (x.src = x.dst ∧ x.lds = x.ldd ∧ esz x.ifmt = esz x.ofmt ∧ x.ifmt ≠ 5 ∧ x.ifmt ≠ 0xC) →
      ∃ t st, exec (.vchain q seq) s = .next t ∧ t.pending = s.pending ∧
        findFlight t.dev q seq = some (f.finish st 0 (x.rows * x.L)) ∧ (st = 0 ∨ st = 8 ∧ x.satRep = true) ∧
        (∀ m n v dn, m < x.rows → n < x.L → v.rev = revOf s.dev f (qTile q) → v.fpref = ef s.dev mNumCfg 0 1 →
          ldBytes t.dev (x.dst + m * x.ldd + n * esz x.ofmt) (esz x.ofmt) = bytesOf (esz x.ofmt)
            (runStages s.dev v dn m n x.sts (elemAt s.dev x.ifmt x.ifx x.src x.lds x.rows m n) x.ifmt 0 0).code) ∧
        (∀ i, rb s.dev (aFpXcpt (qTile q)) i = true → rb t.dev (aFpXcpt (qTile q)) i = true) ∧
        RegsKept (· = aFpXcpt (qTile q)) s.dev t.dev ∧ MemKept (fun a => x.dst ≤ a ∧ a < x.dst + x.rows * x.ldd) s.dev t.dev) ∧
  (∀ (d : Dev) (v : Env) (dn : StageW → Machine.Num × Machine.Num × Nat × Bool) (m n fl : Nat) (a : Machine.Num) (w : StageW), w.use = false → w.fmt ≤ 4 →
      let imm := decodeF fp32 w.imm
      let out (o : Flagged Machine.Num) : EOut → Prop := fun e =>
        e.code = (encodeF (fmtF w.fmt) w.rnd w.zsat o.1).1 ∧ e.fmt = w.fmt ∧
        e.fl = (fl ||| (o.2 ||| (encodeF (fmtF w.fmt) w.rnd w.zsat o.1).2)) ∧ e.v = valOf w.fmt 0 e.code
      let e := runStage d v dn m n ⟨0, 0, .f a, fl, none, [], []⟩ w
      (w.op = 0x10 → out (mulN a imm) e) ∧ (w.op = 0x11 → out (addN w.rnd a imm) e) ∧ (w.op = 0x20 → out (addN w.rnd a imm.negate) e) ∧
      (w.op = 0x23 → out (maxN a imm) e) ∧ (w.op = 0x24 → out (minN a imm) e) ∧ (w.op = 0x25 → out (a.abs, 0) e) ∧
      (w.op = 0x26 → out (a.negate, 0) e) ∧ (w.op = 0x14 → out (a, 0) e))

/-- R189 to R191: a COMPRESS of at most 64 elements packs the elements whose mask byte is not zero, in order, writes how many to its
tally, and answers OK with n; EXPAND is its inverse: it writes the packed elements back to those places and, without fill, leaves the
others. Nothing else changes. R125, R127, R128: HISTO op 2 clears, op 3 sets the base, op 0 writes the 320-byte record and leaves the
histogram, op 1 clears it after; each answers OK with its bytes. -/
def Obligations.PackAndHisto : Prop :=
  (∀ (s : State) (q seq : Nat) (f : Flight) (x : Pack) (c : Bool), Formed s.dev →
      Served s.dev (if c then 0x31 else 0x32) q seq f → f.stop = 0 → packOf q f.head = x → 0 < x.n → x.n ≤ 64 → x.opt = false →
      NoHolds s.dev → GoodLines s.dev → s.dev.weak = [] → (∀ r ∈ x.regions c, badRange s.dev true r.1 r.2 = none) → apart (x.regions c) = true →
      let act := (upto x.n).filter fun j => byteAt s.dev (x.mask + j) != 0
      act.length ≤ x.lim →
      ∃ t, exec (if c then .compress q seq else .expand q seq) s = .next t ∧ t.pending = s.pending ∧
        findFlight t.dev q seq = some (f.finish 0 0 x.n) ∧ ld t.dev x.tally 8 = act.length ∧
        (c = true → ∀ i, i < act.length →
          ldBytes t.dev (x.dst + i * x.es) x.es = ldBytes s.dev (x.src + act.getD i 0 * x.es) x.es) ∧
        (c = false → ∀ i, i < act.length →
          ldBytes t.dev (x.dst + act.getD i 0 * x.es) x.es = ldBytes s.dev (x.src + i * x.es) x.es) ∧
        RegsKept (fun _ => False) s.dev t.dev ∧
        MemKept (fun a => (x.tally ≤ a ∧ a < x.tally + 8) ∨
          (c = true ∧ x.dst ≤ a ∧ a < x.dst + act.length * x.es) ∨
          (c = false ∧ ∃ j, j ∈ act ∧ x.dst + j * x.es ≤ a ∧ a < x.dst + (j + 1) * x.es)) s.dev t.dev) ∧
  (∀ (s : State) (q seq : Nat) (f : Flight) (sel : Nat), Formed s.dev → Served s.dev 0x33 q seq f → pbytes f.head 10 1 = sel →
      let get : Dev → Hist := fun d => if sel = 0 then (tileAt d (qTile q)).h0 else (tileAt d (qTile q)).h1
      let put : Hist → Dev := fun h =>
        modTile (qTile q) (fun t => if sel = 0 then { t with h0 := h } else { t with h1 := h }) s.dev
      (pbytes f.head 11 1 = 2 →
        exec (.histo q seq) s = .next (s.on (finish q seq 0 0 0 (put ⟨[], 0, 0, (get s.dev).base⟩)))) ∧
      (pbytes f.head 11 1 = 3 →
        exec (.histo q seq) s = .next (s.on (finish q seq 0 0 0 (put ⟨[], 0, 0, sext 16 (pbytes f.head 12 2)⟩)))) ∧
      (∀ a, pbytes f.head 11 1 ≤ 1 → pbytes f.head 16 8 = a → badRange s.dev true a 320 = none → writeErr s.dev a 320 = none →
        NoHolds s.dev →
        ∃ t, exec (.histo q seq) s = .next t ∧ t.pending = s.pending ∧ findFlight t.dev q seq = some (f.finish 0 0 320) ∧
          ldBytes t.dev a 320 = histBytes (get s.dev) sel (podNs s.dev % 2 ^ 32) ∧
          get t.dev = (if pbytes f.head 11 1 = 1 then ⟨[], 0, 0, (get s.dev).base⟩ else get s.dev) ∧
          RegsKept (fun _ => False) s.dev t.dev ∧ MemKept (fun b => a ≤ b ∧ b < a + 320) s.dev t.dev))

/-- R126: the bin of a value follows e = floor(log2 |x|), taken exactly: bin 0 holds zeros, 1 values with e below base, 2 to 61 those with
e = base + (bin − 2), 62 those above base + 59 and infinities, 63 NaNs; a saturation counts beside the bin. -/
def Obligations.HistogramBins : Prop :=
  (∀ (b : Int) (g : Bool) (m : Nat) (e k : Int), 2 ^ (k + 2048).toNat ≤ m * 2 ^ (e + 2048).toNat →
    m * 2 ^ (e + 2048).toNat < 2 ^ (k + 2049).toNat → -2048 ≤ e → -2048 ≤ k →
    binOf b (.fin g m e) = (if k < b then 1 else if k ≤ b + 59 then (k - b + 2).toNat else 62)) ∧
  (∀ (b : Int) (g : Bool) (e : Int), binOf b (.fin g 0 e) = 0) ∧ (∀ (b : Int) (x : Machine.Num), x.isNan = true → binOf b x = 63) ∧
  (∀ (b : Int) (g : Bool), binOf b (.inf g) = 62) ∧
  (∀ (h : Hist) (x : Machine.Num) (sat : Bool), tabWf (fun _ => 0) h.bins = true → (∀ b, tabGet (fun _ => 0) h.bins b < 0xFFFFFFFF) →
    (∀ b, tabGet (fun _ => 0) (histAdd x sat h).bins b =
      tabGet (fun _ => 0) h.bins b + (if b = binOf h.base x then 1 else 0)) ∧
    (histAdd x sat h).total = (h.total + 1) % 2 ^ 64 ∧ (histAdd x sat h).base = h.base ∧
    (histAdd x sat h).sat = (if sat then Nat.min 0xFFFFFFFF (h.sat + 1) else h.sat))

/-- R193 to R196: staging a table set sets its revision and, if its digest is right, the staged bit; M_CHTABAPPLY is armed by Myeles at
least three frames ahead, and shows apply_err in every tile otherwise; at the armed frame every mapped tile switches to the common staged
revision, which M_TOUCHMARK then names, or none does. -/
def Obligations.TableSets : Prop :=
  ∀ (s : State), Formed s.dev → running s.dev = true →
    (∀ t rev addr len, t < 64 → tileAbsent s.dev t = false →
      exec (.tableSetStage t rev addr len) s = .next (s.on (setB (setF s.dev (aChTab t) 16 16 rev) (aChTab t) 32
        (decide (32 ≤ len) && shake256 32 ((flashBytes s.dev addr len).drop 32) == (flashBytes s.dev addr len).take 32)))) ∧
    (∀ (v : Word) (by' : Agent), by' ≠ .job →
      (frameNum s.dev + 3 ≤ v.toNat → exec (.chtabapplyWrite v by') s = .next (s.on (setReg s.dev mChtabApply v))) ∧
      (v.toNat < frameNum s.dev + 3 →
        ∃ u, exec (.chtabapplyWrite v by') s = .next u ∧ u.pending = s.pending ∧ OnlyRegs s.dev u.dev ∧
          RegsKept (fun o => ∃ t, t < 64 ∧ tileAbsent s.dev t = false ∧ o = aChTab t) s.dev u.dev ∧
          ∀ t, t < 64 → tileAbsent s.dev t = false → rb u.dev (aChTab t) 33 = true)) ∧
    (frameNum s.dev ≠ 0 → (rg s.dev mChtabApply).toNat = frameNum s.dev →
      (s.dev.tables.snap = none →
        ∃ u, exec .chtabSwitch s = .next u ∧ u.pending = s.pending ∧ rg u.dev mChtabApply = 0 ∧
          ∀ t, t < 64 → tileAbsent s.dev t = false → rb u.dev (aChTab t) 33 = true ∧
            rf u.dev (aChTab t) 0 16 = rf s.dev (aChTab t) 0 16) ∧
      (∀ rev, s.dev.tables.snap = some rev → rev < 65536 →
        ∃ u, exec .chtabSwitch s = .next u ∧ u.pending = s.pending ∧ rg u.dev mChtabApply = 0 ∧
          rf u.dev mTouchmark 0 16 = rev ∧
          ∀ t, t < 64 → tileAbsent s.dev t = false → rf u.dev (aChTab t) 0 16 = rev ∧ rb u.dev (aChTab t) 32 = false))

/-- R211, R214, R217, R208, R207: a SOLVE, FACTOR or ITERATE that may touch its regions, meets no bad line and is not stopped runs all its
systems, matrices or iterations and answers that count with OK, REGULARISED or SATURATED; it writes only its results and its info entries,
and raises no exception flag: no register changes. R202, R204, R205: an assignment f(e) rounds once, within one unit of point f, or
saturates and notes it; a pivot below the threshold in magnitude is replaced by τ with its sign, by +τ for Cholesky and CG, and counted;
the first index is kept. -/
def Obligations.AnvilCompletes : Prop :=
  (∀ (s : State) (q seq : Nat) (f : Flight), Formed s.dev → f.stop = 0 → NoHolds s.dev → GoodLines s.dev → s.dev.weak = [] →
      let ends : Instr → Nat → (Nat → Prop) → Prop := fun c n M =>
        ∃ t st, exec c s = .next t ∧ t.pending = s.pending ∧ findFlight t.dev q seq = some (f.finish st 0 n) ∧
          (st = 0 ∨ st = 7 ∨ st = 8) ∧ RegsKept (fun _ => False) s.dev t.dev ∧ MemKept M s.dev t.dev
      (∀ x, Served s.dev 0x40 q seq f → slvOf q f.head f.cont = x → (∀ r ∈ x.regions 0x40, badRange s.dev true r.1 r.2 = none) →
        ends (.solve q seq) x.nsys fun a => (∃ i, i < x.nsys ∧ x.x + i * x.sv ≤ a ∧ a < x.x + i * x.sv + x.n * esz x.ofmt) ∨
          (x.info ≤ a ∧ a < x.info + 8 * x.nsys)) ∧
      (∀ x, Served s.dev 0x42 q seq f → slvOf q f.head f.cont = x → (∀ r ∈ x.regions 0x42, badRange s.dev true r.1 r.2 = none) →
        x.opt6 = false → x.method < 2 →
        ends (.iterate q seq) x.iters fun a => (∃ i, i < x.nsys ∧ x.x + i * x.sv ≤ a ∧ a < x.x + i * x.sv + x.n * esz x.ofmt) ∨
          (x.info ≤ a ∧ a < x.info + 8 * x.nsys)) ∧
      (∀ x, Served s.dev 0x41 q seq f → facOf q f.head f.cont = x → (∀ r ∈ x.regions, badRange s.dev true r.1 r.2 = none) →
        ends (.factor q seq) x.nmat fun a =>
          (∃ i j, i < x.nmat ∧ j < x.n ∧ x.f + i * x.sm + j * x.lda ≤ a ∧ a < x.f + i * x.sm + j * x.lda + x.cols j * esz x.ofmt) ∨
          (∃ i v, i < x.nmat ∧ v < x.nrhs ∧ x.x + i * x.sv + v * x.rowv (esz x.ofmt) ≤ a ∧
            a < x.x + i * x.sv + v * x.rowv (esz x.ofmt) + x.n * esz x.ofmt) ∨
          (x.info ≤ a ∧ a < x.info + 8 * x.nmat))) ∧
  ((∀ (c : Cert) (f : Nat) (x : Dy) (i : Info), ∃ v, (fxp c f x).run i = (⟨v, f⟩, { i with sat := i.sat || (v != (rePoint c.xrnd x.v x.p f).1) }) ∧
      -(2 ^ 63 : Int) ≤ v ∧ v < 2 ^ 63 ∧
      (-(2 ^ 62 : Int) * 2 ^ x.p ≤ x.v * 2 ^ f → x.v * 2 ^ f ≤ (2 ^ 62 : Int) * 2 ^ x.p →
        (v * 2 ^ x.p - x.v * 2 ^ f).natAbs < 2 ^ x.p)) ∧
    (∀ (c : Cert) (k : Nat) (v : Int) (i : Info), c.tau.p = c.fu → 0 < c.tau.v →
      let i' := { i with cnt := i.cnt + 1, first := some (i.first.getD k) }
      (c.tau.v ≤ v → (reg c false true k ⟨v, c.fu⟩).run i = (⟨v, c.fu⟩, i) ∧ (reg c true true k ⟨v, c.fu⟩).run i = (⟨v, c.fu⟩, i)) ∧
      (v ≤ -c.tau.v → (reg c false true k ⟨v, c.fu⟩).run i = (⟨v, c.fu⟩, i) ∧ (reg c true true k ⟨v, c.fu⟩).run i = (c.tau, i')) ∧
      (-c.tau.v < v → v < 0 → (reg c false true k ⟨v, c.fu⟩).run i = (⟨-c.tau.v, c.fu⟩, i') ∧
        (reg c true true k ⟨v, c.fu⟩).run i = (c.tau, i')) ∧
      (0 ≤ v → v < c.tau.v → (reg c false true k ⟨v, c.fu⟩).run i = (c.tau, i') ∧ (reg c true true k ⟨v, c.fu⟩).run i = (c.tau, i'))))

/-- R225, R227, R235, R236, R242: scalar loads, stores, LR, SC and read-modify-write operations on memory of this package; an access that
may not be misaligned raises its exception; a FENCE and a scalar F or D write change their hart alone. A hart that is not free does
nothing. An access of a device window stops the model. -/
def Obligations.ScalarAccesses : Prop :=
  ∀ (s : State) (h : Nat) (m : ScalarMem), Formed s.dev →
    (hartFree s.dev h = false → exec (.scalarLoadStore h m) s = .next s ∧ ∀ b, exec (.riscvFence h b) s = .next s) ∧
    (hartFree s.dev h = true →
      let d := s.dev
      let H := hartAt d h
      let n := 2 ^ m.size.toNat
      let va := scalarVa h m d
      let rd := m.rd.toNat
      let x2 := xReg d h m.rs2.toNat % 2 ^ (8 * n)
      let quiet : State → Prop := fun t => t.pending = s.pending ∧ RegsKept (fun _ => False) d t.dev
      let same : State → Prop := fun t => MemKept (fun _ => False) d t.dev ∧ ∀ j, j ≠ h → hartAt t.dev j = hartAt d j
      let put : State → Nat → Prop := fun t z => ldBytes t.dev va n = bytesOf n z ∧ MemKept (fun a => va ≤ a ∧ a < va + n) d t.dev
      let xset : State → Nat → Prop := fun t z => (rd ≠ 0 → xReg t.dev h rd = z) ∧ ∀ r, r ≠ rd → xReg t.dev h r = xReg d h r
      (Bare d h → va % n = 0 → roomFor d (hartQ h) n = true → GoodLines d → NoHolds d → d.weak = [] →
        (MemAt d false va n →
          (m.op = .load → ∃ t, exec (.scalarLoadStore h m) s = .next t ∧ quiet t ∧ same t ∧
            xset t (wrapBits 64 (sext (8 * n) (ld d va n)))) ∧
          (m.op = .loadU → n ≠ 8 → ∃ t, exec (.scalarLoadStore h m) s = .next t ∧ quiet t ∧ same t ∧ xset t (ld d va n)) ∧
          (m.op = .fload → 4 ≤ n → ∃ t, exec (.scalarLoadStore h m) s = .next t ∧ quiet t ∧ same t ∧
            fReg t.dev h rd = (if n = 4 then boxed (ld d va n) else ld d va n)) ∧
          (m.op = .lr → 4 ≤ n → ∃ t, exec (.scalarLoadStore h m) s = .next t ∧ quiet t ∧ same t ∧
            xset t (wrapBits 64 (sext (8 * n) (ld d va n))) ∧ (hartAt t.dev h).resv = some (lineOf va))) ∧
        (MemAt d true va n →
          (m.op = .store → ∃ t, exec (.scalarLoadStore h m) s = .next t ∧ quiet t ∧ put t x2 ∧ ∀ r, xReg t.dev h r = xReg d h r) ∧
          (m.op = .fstore → 4 ≤ n → ∃ t, exec (.scalarLoadStore h m) s = .next t ∧ quiet t ∧ put t (fReg d h m.rs2.toNat % 2 ^ (8 * n))) ∧
          (m.op = .sc → 4 ≤ n → MemAt d false va n →
            (H.resv = some (lineOf va) → ∃ t, exec (.scalarLoadStore h m) s = .next t ∧ quiet t ∧ put t x2 ∧ xset t 0 ∧
              (hartAt t.dev h).resv = none) ∧
            (H.resv ≠ some (lineOf va) → ∃ t, exec (.scalarLoadStore h m) s = .next t ∧ quiet t ∧ same t ∧ xset t 1 ∧
              (hartAt t.dev h).resv = none)) ∧
          (m.op = .add → n = 8 → MemAt d false va n → ∃ t, exec (.scalarLoadStore h m) s = .next t ∧ quiet t ∧
            put t ((ld d va 8 + x2) % 2 ^ 64) ∧ xset t (ld d va 8)) ∧
          (m.op = .swap → 4 ≤ n → MemAt d false va n → ∃ t, exec (.scalarLoadStore h m) s = .next t ∧ quiet t ∧ put t x2 ∧
            xset t (wrapBits 64 (sext (8 * n) (ld d va n)))))) ∧
      (m.op = .load ∨ m.op = .store ∨ m.op = .add ∧ 4 ≤ n →
        va % n ≠ 0 → m.op = .add ∨ 4096 < va % 4096 + n → touchesDevice h (!loadOp m.op) n (unfenced h d) [va] = false →
        exec (.scalarLoadStore h m) s = .next (s.on (trap h (if m.op = .load then 4 else 6) va (unfenced h d)))) ∧
      (touchesDevice h (!loadOp m.op) n (unfenced h d) [scalarVa h m (unfenced h d)] = true →
        exec (.scalarLoadStore h m) s = .fault .deviceWindow) ∧
      (∀ b, exec (.riscvFence h b) s = .next (s.on (modHart h (fun t => { t with fence := b }) d))) ∧
      (∀ r z sg, ∃ t, exec (.scalarFDWrite h r z sg) s = .next t ∧ quiet t ∧ same t ∧
        fReg t.dev h (r % 32) = (if sg then (2 ^ 32 - 1) * 2 ^ 32 + z.toNat % 2 ^ 32 else z.toNat) ∧
        ∀ k, k ≠ r % 32 → fReg t.dev h k = fReg d h k))

/-- R246 to R248, R251, R256, R109, R111: an element-wise HLV instruction that passes its checks writes every active element of vd with
its operation on the elements as they stood, leaves the other elements and registers, and accrues flags: integer widths wrap, the
fixed-point forms saturate or round by hlvxrm, floating-point widths round once by frm. No other hart, no register of the window and no
byte changes. -/
def Obligations.HlvElementwise : Prop :=
  ∀ (s : State) (h : Nat) (v : VOp), Formed s.dev → hartFree s.dev h = true → hlvOn s.dev h = true → vEs v ≠ 0 →
    grp s.dev h v.vd = true → grp s.dev h v.vs2 = true → v.scalar = true ∨ grp s.dev h v.vs1 = true →
    let d := s.dev
    let H := hartAt d h
    let es := vEs v
    let w := vBits v
    let act := active d h v.pg.toNat es
    let I := sext w
    let wrap := wrapBits w
    let sat : Int → Flagged Nat := fun z =>
      (wrap (max (-2 ^ (w - 1)) (min z (2 ^ (w - 1) - 1))), if z < -2 ^ (w - 1) ∨ 2 ^ (w - 1) ≤ z then flSAT else 0)
    let F := decodeF (vFmt v)
    let E : Flagged Machine.Num → Flagged Nat := encodeX (vFmt v) H.frm false
    let good : Instr → (Nat → Nat → Nat → Flagged Nat) → Prop := fun c op =>
      let res := fun i => op (vSrc1 v d h i) (vSrc2 v d h i) (vElem d h v.vd.toNat es i)
      let fl := act.foldl (fun m i => m ||| (res i).2) 0
      ∃ t, exec c s = .next t ∧ t.pending = s.pending ∧
        (∀ i, i < vlmax d h es → vElem t.dev h v.vd.toNat es i = if i ∈ act then (res i).1 % 2 ^ w else vElem d h v.vd.toNat es i) ∧
        (∀ r, r < v.vd.toNat ∨ v.vd.toNat + groupOf d h ≤ r → vReg t.dev h r = vReg d h r) ∧
        hartAt t.dev h = { H with fence := false, v := (hartAt t.dev h).v, hlvstart := 0, shlvctl := 3, fflags := H.fflags ||| fl % 32,
                                  hlvstat := H.hlvstat ||| fl / 32 % 2 } ∧
        (∀ k, k ≠ h → hartAt t.dev k = hartAt d k) ∧ RegsKept (fun _ => False) d t.dev ∧ MemKept (fun _ => False) d t.dev
    (vFp v = false →
      good (.vadd h v) (fun a b _ => (wrap (I a + I b), 0)) ∧ good (.vsub h v) (fun a b _ => (wrap (I a - I b), 0)) ∧
      good (.vmul h v) (fun a b _ => (wrap (I a * I b), 0)) ∧ good (.vmin h v) (fun a b _ => (wrap (min (I a) (I b)), 0)) ∧
      good (.vmax h v) (fun a b _ => (wrap (max (I a) (I b)), 0)) ∧ good (.vand h v) (fun a b _ => (a &&& b, 0)) ∧
      good (.vor h v) (fun a b _ => (a ||| b, 0)) ∧ good (.vxor h v) (fun a b _ => (a ^^^ b, 0)) ∧
      good (.vshl h v) (fun a b _ => (wrap (I a * 2 ^ (b % 256)), 0)) ∧ good (.vsra h v) (fun a b _ => (wrap (I a / 2 ^ (b % 256)), 0)) ∧
      (v.scalar = false →
        good (.sadd h v) (fun a b _ => sat (I a + I b)) ∧ good (.ssub h v) (fun a b _ => sat (I a - I b)) ∧
        good (.smulr h v) (fun a b _ => sat (shiftRound H.hlvxrm (I a * I b) (w - 1))) ∧
        good (.rshr h v) (fun a b _ => (wrap (shiftRound H.hlvxrm (I a) (b % 256)), 0)) ∧
        good (.sshl h v) (fun a b _ => sat (I a * 2 ^ (b % 256))))) ∧
    (vFp v = true →
      good (.vmin h v) (fun a b _ => encodeX (vFmt v) 0 false (minN (F a) (F b))) ∧
      good (.vmax h v) (fun a b _ => encodeX (vFmt v) 0 false (maxN (F a) (F b))) ∧
      (H.frm ≤ 4 →
        good (.vadd h v) (fun a b _ => E (addN H.frm (F a) (F b))) ∧ good (.vsub h v) (fun a b _ => E (addN H.frm (F a) (F b).negate)) ∧
        good (.vmul h v) (fun a b _ => E (mulN (F a) (F b))) ∧ good (.vdiv h v) (fun a b _ => E (divN (F a) (F b))) ∧
        good (.vfma h v) (fun a b c => E (fmaN H.frm (F a) (F b) (F c))) ∧
        good (.vnfma h v) (fun a b c => E (fmaN H.frm (F a).negate (F b) (F c))) ∧
        (v.vs1 = 0#5 → good (.vsqrt h v) (fun _ b _ => E (sqrtN (F b)))))) ∧
    (v.scalar = false → good (.vperm h v) (fun _ b _ => (if vlmax d h es ≤ b then 0 else vElem d h v.vs1.toNat es b, 0)))

/-- R249 to R251, R256, R240 to R243, R257: VSETL sets hlvl and x[rd] to the lower of x[rs1] and VLMAX; VCMP sets the bits of the active
elements that compare, and clears all others; PLOGIC combines two predicates; a reduction folds the active elements onto vs2[0]; CVT
converts the active elements. A change of the overlay clears the vector, predicate and f registers. With the HLV state Off, a reserved
width, or a misaligned group, the instruction is illegal and changes nothing but the hart's cause. -/
def Obligations.HlvOther : Prop :=
  ∀ (s : State) (h : Nat) (v : VOp), Formed s.dev → hartFree s.dev h = true →
    let d := s.dev
    let H := hartAt d h
    let es := vEs v
    let w := vBits v
    let act := active d h v.pg.toNat es
    let I := sext w
    let x1 := fun i => vElem d h v.vs1.toNat es i
    let x2 := fun i => vElem d h v.vs2.toNat es i
    let runs : Instr → (State → Prop) → Prop := fun c P => ∃ t, exec c s = .next t ∧ t.pending = s.pending ∧ P t ∧
      (∀ k, k ≠ h → hartAt t.dev k = hartAt d k) ∧ RegsKept (fun _ => False) d t.dev ∧ MemKept (fun _ => False) d t.dev
    (hlvOn s.dev h = true → es ≠ 0 → grp s.dev h v.vs1 = true →
      (v.vs2 = 0#5 → v.pg = 0#3 → runs (.vsetl h v) fun t =>
        let n := Nat.min (xReg d h v.vs1.toNat) (vlmax d h es)
        (hartAt t.dev h).hlvl = n ∧ (v.vd ≠ 0#5 → xReg t.dev h v.vd.toNat = n) ∧
        (∀ r, r ≠ v.vd.toNat → xReg t.dev h r = xReg d h r) ∧ (hartAt t.dev h).v = H.v ∧ (hartAt t.dev h).p = H.p) ∧
      (grp s.dev h v.vs2 = true →
        (v.vd.toNat % 8 ≠ 0 → runs (.vcmp h v) fun t =>
          (∀ i, i < 2048 → (bitAt (pReg t.dev h (v.vd.toNat % 8)) i = true ↔ i ∈ act ∧
            (vFp v = false → (v.vd.toNat / 8 = 0 ∧ I (x1 i) = I (x2 i)) ∨ (v.vd.toNat / 8 = 1 ∧ I (x1 i) ≠ I (x2 i)) ∨
              (v.vd.toNat / 8 = 2 ∧ I (x1 i) < I (x2 i)) ∨ (v.vd.toNat / 8 = 3 ∧ I (x1 i) ≤ I (x2 i))) ∧
            (vFp v = true → (vcmpE v (v.vd.toNat / 8) (x1 i) (x2 i)).1 = true))) ∧
          (∀ p, p ≠ v.vd.toNat % 8 → pReg t.dev h p = pReg d h p) ∧ (hartAt t.dev h).v = H.v ∧ (hartAt t.dev h).x = H.x) ∧
        (vFp v = true → ∀ a b, ((decodeF (vFmt v) a).isNan = true ∨ (decodeF (vFmt v) b).isNan = true) →
          ((vcmpE v 0 a b).1 = false ∧ (vcmpE v 1 a b).1 = true ∧ (vcmpE v 2 a b).1 = false ∧ (vcmpE v 3 a b).1 = false)) ∧
        (grp s.dev h v.vd = true →
          let folds : Instr → (Nat → Nat → Nat) → Prop := fun c f => runs c fun t =>
            vElem t.dev h v.vd.toNat es 0 = (act.foldl (fun a i => f a (x1 i)) (x2 0)) % 2 ^ w ∧
            (∀ i, 0 < i → i < vlmax d h es → vElem t.dev h v.vd.toNat es i = vElem d h v.vd.toNat es i) ∧ (hartAt t.dev h).p = H.p ∧
            (hartAt t.dev h).x = H.x
          (vFp v = false → folds (.redsum h v) (fun a b => (a + b) % 2 ^ w) ∧
            folds (.redmax h v) (fun a b => wrapBits w (max (I a) (I b))) ∧ folds (.redmin h v) (fun a b => wrapBits w (min (I a) (I b)))) ∧
          (vFp v = true → H.frm ≤ 4 → folds (.redsum h v) (fun a b => (vaddE v H.frm a b).1)) ∧
          (vFp v = true → folds (.redmax h v) (fun a b => (vmaxE v a b).1) ∧ folds (.redmin h v) (fun a b => (vminE v a b).1)))) ∧
      (∀ f src dst, v.vs2.toNat % 16 = f → isFl f = true ∨ isIn f = true →
        (src, dst) = (if bitAt v.vs2.toNat 4 then (vCode v, f) else (f, vCode v)) → grp s.dev h v.vd = true → H.frm ≤ 4 →
        runs (.vcvt h v) fun t =>
          let a := active d h v.pg.toNat (Nat.max (esz src) (esz dst))
          (∀ i, i < vlmax d h (esz dst) → vElem t.dev h v.vd.toNat (esz dst) i =
            if i ∈ a then (cvtElem src dst H.frm (vElem d h v.vs1.toNat (esz src) i)).1 % 2 ^ (8 * esz dst)
            else vElem d h v.vd.toNat (esz dst) i) ∧ (hartAt t.dev h).p = H.p ∧ (hartAt t.dev h).x = H.x)) ∧
    (hlvOn s.dev h = true → v.w = 0#3 → v.pg = 0#3 → v.vs1.toNat < 8 → v.vs2.toNat < 8 → v.vd.toNat % 8 ≠ 0 →
      runs (.plogic h v) fun t =>
        let a := pReg d h v.vs1.toNat
        let b := pReg d h v.vs2.toNat
        pReg t.dev h (v.vd.toNat % 8) = (match v.vd.toNat / 8 with
          | 0 => a &&& b | 1 => a ||| b | 2 => a &&& (2 ^ 2048 - 1 - b) | _ => a ^^^ b) % 2 ^ 2048 ∧
        (∀ p, p ≠ v.vd.toNat % 8 → pReg t.dev h p = pReg d h p)) ∧
    (∀ n : Word, H.shlvctl ≠ 0 → bitAt n.toNat 0 = false ∨ bits n.toNat 1 2 = 0 →
      runs (.hlvcfgWrite h n) fun t => (hartAt t.dev h).hlvcfg = (if bitAt n.toNat 0 = bitAt H.hlvcfg 0 ∧ bits n.toNat 1 2 = bits H.hlvcfg 1 2
          then H.hlvcfg else n.toNat % 8) ∧ (hartAt t.dev h).shlvctl = 3 ∧
        (bitAt n.toNat 0 ≠ bitAt H.hlvcfg 0 → ∀ r, vReg t.dev h r = 0 ∧ fReg t.dev h r = 0 ∧ (r ≠ 0 → pReg t.dev h r = 0)) ∧
        (bits n.toNat 1 2 ≠ bits H.hlvcfg 1 2 → (hartAt t.dev h).hlvl = 0)) ∧
    (∀ c, c ∈ [Instr.vadd h v, .vsub h v, .vmul h v, .vmin h v, .vmax h v, .vand h v, .vor h v, .vxor h v, .vshl h v, .vsra h v, .vfma h v,
        .vnfma h v, .vdiv h v, .vsqrt h v, .sadd h v, .ssub h v, .smulr h v, .rshr h v, .sshl h v, .vcvt h v, .vperm h v, .redsum h v,
        .redmax h v, .redmin h v, .vcmp h v, .vsetl h v, .vld h v, .vst h v, .vlds h v, .vsts h v, .vgather h v, .vscatter h v, .vldff h v,
        .vgatherff h v] →
      hlvOn s.dev h = false ∨ es = 0 → exec c s = .next (s.on (illegal h (unfenced h s.dev)))) ∧
    (hlvOn s.dev h = true → grp s.dev h v.vd = false → ∀ c, c ∈ [Instr.vadd h v, .sadd h v, .redsum h v, .vcvt h v, .vld h v, .vst h v] →
      exec c s = .next (s.on (illegal h (unfenced h s.dev))))

/-- R252 to R256: a load form that reaches memory of this package, naturally aligned, reads every active element, a store form writes
every active element from hlvstart on; hlvstart is then 0. PLD and PST move 256 bytes. A misaligned element stops a load with nothing
written, a store with its index in hlvstart and the elements before it written; a first-fault form writes the elements before it, their
bits in pd, and hlvff. -/
def Obligations.HlvMemory : Prop :=
  ∀ (s : State) (h k : Nat) (v : VOp), Formed s.dev → hartFree s.dev h = true → hlvOn s.dev h = true → Bare s.dev h → k < 3 →
    GoodLines s.dev → NoHolds s.dev → s.dev.weak = [] →
    let d := s.dev
    let H := hartAt d h
    let es := vEs v
    let A := fun i => vAddr v k d h i
    let vd := v.vd.toNat
    let act := active d h v.pg.toNat es
    let all := upto (Nat.min H.hlvl (vlmax d h es))
    (memOk h v k d = true →
      (∀ c, c = [Instr.vld h v, .vlds h v, .vgather h v].getD k (.vld h v) → vecRoom d h act.length = true →
        ((∀ i ∈ act, A i % es = 0 ∧ MemAt d false (A i) es) →
          ∃ t, exec c s = .next t ∧ t.pending = s.pending ∧
            (∀ i, i < vlmax d h es → vElem t.dev h vd es i = if i ∈ act then ld d (A i) es else vElem d h vd es i) ∧
            hartAt t.dev h = { H with fence := false, v := (hartAt t.dev h).v, hlvstart := 0, shlvctl := 3 } ∧
            (∀ j, j ≠ h → hartAt t.dev j = hartAt d j) ∧ RegsKept (fun _ => False) d t.dev ∧ MemKept (fun _ => False) d t.dev) ∧
        (∀ pre i post, act = pre ++ i :: post → (∀ j ∈ pre, A j % es = 0 ∧ MemAt d false (A j) es) → A i % es ≠ 0 →
          ∃ t, exec c s = .next t ∧ t.pending = s.pending ∧
            hartAt t.dev h = { H with fence := false, cause := some 4, tval := A i } ∧ RegsKept (fun _ => False) d t.dev ∧
            MemKept (fun _ => False) d t.dev)) ∧
      (∀ c, c = [Instr.vst h v, .vsts h v, .vscatter h v].getD k (.vst h v) → H.hlvstart = 0 → vecRoom d h act.length = true →
        (∀ i ∈ act, ∀ j ∈ act, i ≠ j → A i + es ≤ A j ∨ A j + es ≤ A i) →
        ((∀ i ∈ act, A i % es = 0 ∧ MemAt d true (A i) es) →
          ∃ t, exec c s = .next t ∧ t.pending = s.pending ∧ (∀ i ∈ act, ldBytes t.dev (A i) es = bytesOf es (vElem d h vd es i)) ∧
            (∀ j, (hartAt t.dev j).v = (hartAt d j).v ∧ (hartAt t.dev j).x = (hartAt d j).x ∧ (hartAt t.dev j).p = (hartAt d j).p) ∧
            (hartAt t.dev h).hlvstart = 0 ∧ RegsKept (fun _ => False) d t.dev ∧
            MemKept (fun a => ∃ i ∈ act, A i ≤ a ∧ a < A i + es) d t.dev) ∧
        (∀ pre i post, act = pre ++ i :: post → (∀ j ∈ pre, A j % es = 0 ∧ MemAt d true (A j) es) → A i % es ≠ 0 →
          ∃ t, exec c s = .next t ∧ t.pending = s.pending ∧ (hartAt t.dev h).cause = some 6 ∧ (hartAt t.dev h).tval = A i ∧
            (hartAt t.dev h).hlvstart = i ∧ (∀ j ∈ pre, ldBytes t.dev (A j) es = bytesOf es (vElem d h vd es j)) ∧
            MemKept (fun a => ∃ j ∈ pre, A j ≤ a ∧ a < A j + es) d t.dev)) ∧
      (∀ c, c = [Instr.vldff h v, .vldff h v, .vgatherff h v].getD k (.vldff h v) → k ≠ 1 → v.pg ≠ 0#3 → vecRoom d h all.length = true →
        ∀ n, n ≤ all.length → (∀ i, i < n → A i % es = 0 ∧ MemAt d false (A i) es) →
        (n = all.length ∨ 0 < n ∧ A n % es ≠ 0) →
        ∃ t, exec c s = .next t ∧ t.pending = s.pending ∧
          (∀ i, i < vlmax d h es → vElem t.dev h vd es i = if i < n then ld d (A i) es else vElem d h vd es i) ∧
          pReg t.dev h v.pg.toNat = (2 ^ n - 1) % 2 ^ 2048 ∧
          (n < all.length → (hartAt t.dev h).hlvff = n + 4 * 2 ^ 16 + 2 ^ 24 ∧ (hartAt t.dev h).hlvffaddr = A n) ∧
          (n = all.length → (hartAt t.dev h).hlvff = H.hlvff) ∧ RegsKept (fun _ => False) d t.dev ∧ MemKept (fun _ => False) d t.dev)) ∧
    (pmemOk v = true → vecRoom d h 256 = true → ∀ base, xReg d h v.vs1.toNat = base → base + 256 ≤ 2 ^ 64 →
      ((∀ i, i < 256 → MemAt d false (base + i) 1) → vd ≠ 0 →
        ∃ t, exec (.pld h v) s = .next t ∧ t.pending = s.pending ∧
          (∀ i, i < 256 → bits (pReg t.dev h vd) (8 * i) 8 = ld d (base + i) 1) ∧ (∀ p, p ≠ vd → pReg t.dev h p = pReg d h p) ∧
          (hartAt t.dev h).v = H.v ∧ RegsKept (fun _ => False) d t.dev ∧ MemKept (fun _ => False) d t.dev) ∧
      ((∀ i, i < 256 → MemAt d true (base + i) 1) → H.hlvstart = 0 →
        ∃ t, exec (.pst h v) s = .next t ∧ t.pending = s.pending ∧
          (∀ i, i < 256 → byteAt t.dev (base + i) = BitVec.ofNat 8 (bits (pReg d h vd) (8 * i) 8)) ∧
          (∀ p, pReg t.dev h p = pReg d h p) ∧ RegsKept (fun _ => False) d t.dev ∧
          MemKept (fun a => base ≤ a ∧ a < base + 256) d t.dev))

/-- R286, R287, R262, R273, R482: MARGIN_START of a stack that is retired, or before frames run, begins a run; of one in use, with a run
going, or of a reserved lane or mode it sets the error bit. Its end writes nothing but the eye maps. A parked stack below 90 degrees, or a
retired one, is ready when retrained; a written A_MEMCFG comes into force with no copy session open, the window then reading zero. A
far-tier wipe ends. R407, R408: DRAIN_DONE in tether mode with no replica session open shows the drain done and powers every stack down;
with one open, or outside tether mode, nothing happens; what waited for the drain follows it: a package reset, or power off. -/
def Obligations.StackMaintenance : Prop :=
  (∀ (s : State) (a : Nat) (v : Word) (by' : Agent), Formed s.dev → running s.dev = true → a < 8 → by' ≠ .job →
      exec (.marginStart a v .job) s = .next s ∧
      (rb s.dev (aMargCtl a) 15 = true → exec (.marginStart a v by') s = .next (s.on (setB s.dev (aMargCtl a) 16 true))) ∧
      (rb s.dev (aMargCtl a) 15 = false → ∃ t, exec (.marginStart a v by') s = .next t ∧ t.pending = s.pending ∧
        (rb t.dev (aMargCtl a) 15 = true ↔ (s.dev.clk.ticked = false ∨ s.dev.clk.mode = .waiting ∨ retired s.dev (2 * a + wbits v 1 1) = true) ∧
          wbits v 13 2 ≠ 3 ∧ (wbits v 6 7 < 64 ∨ wbits v 6 7 = 127)) ∧
        (rb t.dev (aMargCtl a) 15 = false → rb t.dev (aMargCtl a) 16 = true) ∧ rf t.dev (aMargCtl a) 17 42 = wbits v 17 42 ∧
        RegsKept (· = aMargCtl a) s.dev t.dev ∧ MemKept (fun _ => False) s.dev t.dev) ∧
      (rb s.dev (aMargCtl a) 15 = false → exec (.marginDone a) s = .next s) ∧
      (rb s.dev (aMargCtl a) 15 = true → ∃ t, exec (.marginDone a) s = .next t ∧ t.pending = s.pending ∧ rb t.dev (aMargCtl a) 15 = false ∧
        RegsKept (· = aMargCtl a) s.dev t.dev ∧
        MemKept (fun x => ∃ l, (l < 64 ∧ rf s.dev (aMargCtl a) 6 7 = 127 ∨ rf s.dev (aMargCtl a) 6 7 = l) ∧
          rf s.dev (aMargCtl a) 17 42 * 64 + 4096 * l ≤ x ∧ x < rf s.dev (aMargCtl a) 17 42 * 64 + 4096 * l + 4096) s.dev t.dev) ∧
      (∀ st, st < 16 → inTether s.dev = false →
        ((stackAt s.dev st).parked = true ∧ rf s.dev (aStackTherm st) 0 8 < 90 ∨ retired s.dev st = true →
          exec (.stackRetrainDone st) s = .next (s.on (modStack st (fun x => { x with retrained := true, pcs := [] }) s.dev))) ∧
        (retired s.dev st = false → (stackAt s.dev st).parked = false ∨ 90 ≤ rf s.dev (aStackTherm st) 0 8 →
          exec (.stackRetrainDone st) s = .next s)) ∧
      ((trackerAt s.dev a).s0 ≠ none ∨ (trackerAt s.dev a).s1 ≠ none ∨ rf s.dev (aMemCfg a) 0 2 = ef s.dev (aMemCfg a) 0 2 →
        exec (.memcfgApply a) s = .next s) ∧
      ((trackerAt s.dev a).s0 = none → (trackerAt s.dev a).s1 = none → rf s.dev (aMemCfg a) 0 2 ≠ ef s.dev (aMemCfg a) 0 2 →
        (∀ j, j < 2 → ef s.dev (aMemCfg a) j 1 = 1 → rb s.dev (aMemCfg a) j = false → (stackAt s.dev (2 * a + j)).retrained = true) →
        ∃ t, exec (.memcfgApply a) s = .next t ∧ t.pending = s.pending ∧ (∀ lo n, ef t.dev (aMemCfg a) lo n = rf s.dev (aMemCfg a) lo n) ∧
          (∀ x, a * stackSpan ≤ x → x < (a + 1) * stackSpan → byteAt t.dev x = 0) ∧ RegsKept (· = mTrcCfg) s.dev t.dev ∧
          MemKept (fun x => a * stackSpan ≤ x ∧ x < (a + 1) * stackSpan) s.dev t.dev) ∧
      exec (.backgroundWipeDone .far) s = .next (s.on (setB s.dev mFarStat 56 false)) ∧
      (∀ st, exec (.backgroundWipeDone (.window st)) s = .next s ∧ exec (.backgroundWipeDone (.stack st)) s = .next s)) ∧
  (∀ (s : State), Formed s.dev →
      (inTether s.dev = false → rb s.dev mTether 6 = false → exec .drainDone s = .next s) ∧
      ((findIngot s.dev replicaOwner).isSome = true → rb s.dev mTether 6 = false → exec .drainDone s = .next s) ∧
      (inTether s.dev = true → findIngot s.dev replicaOwner = none →
        (s.dev.firm.after = 0 → ∃ t, exec .drainDone s = .next t ∧ t.pending = s.pending ∧ rb t.dev mTether 6 = true ∧
          (∀ st, st < 16 → (stackAt t.dev st).parked = true) ∧ RegsKept (· = mTether) s.dev t.dev ∧ MemKept (fun _ => False) s.dev t.dev) ∧
        (s.dev.firm.after = 2 → ∃ t, exec .drainDone s = .next t ∧ t.pending = s.pending ∧ t.dev.phase = .off ∧ t.dev.mem = [] ∧
          t.dev.flights = []) ∧
        (s.dev.firm.after = 1 → s.dev.phase ≠ .off → ∃ t, exec .drainDone s = .next t ∧ t.pending = s.pending ∧
          (t.dev.phase = .rom ∨ t.dev.phase = .testHold) ∧ rb t.dev mPwrStat 0 = true ∧ t.dev.mem = [] ∧ t.dev.flights = [])))

/-- R275, R276: a COPY within the package between ranges of memory that may be touched, with no failing line, no copy session and nothing
in the tile's read cache, makes the destination hold the source's bytes, leaves every other byte and every register, and answers OK with
the length; one that may not begin answers its refusal with count 0; one toward another node answers OK once every byte has left. R279,
R280: a granule an open session owes, with a staging slot free and no bad line in it, is staged as it stands; then the one write held for
it is performed, and the session keeps the bytes as they were. A_CBWSTAT shows the session with one granule less. -/
def Obligations.CopyAndHeldWrites : Prop :=
  (∀ (s : State) (q seq : Nat) (f : Flight), Formed s.dev → Served s.dev 0x10 q seq f → f.stop = 0 →
      (∀ st det, f.prog = 0 → copyRefusal s.dev (copyOf q f.head) = some (st, det) →
        exec (.copy q seq) s = .next (s.on (finish q seq st det 0 s.dev))) ∧
      (∀ src dst len, copyOf q f.head = ⟨qTile q, src, myNode s.dev, dst, myNode s.dev, len⟩ → f.prog = 0 →
        copyRefusal s.dev (copyOf q f.head) = none → inCtrl src = false → inCtrl dst = false → src + len ≤ dst ∨ dst + len ≤ src →
        s.dev.weak = [] → readErr s.dev src len = none → writeErr s.dev dst len = none → NoHolds s.dev →
        (tileAt s.dev (qTile q)).rcache = [] →
        ∃ t, exec (.copy q seq) s = .next t ∧ t.pending = s.pending ∧ findFlight t.dev q seq = some (f.finish 0 0 len) ∧
          ldBytes t.dev dst len = ldBytes s.dev src len ∧
          RegsKept (fun _ => False) s.dev t.dev ∧ MemKept (fun x => dst ≤ x ∧ x < dst + len) s.dev t.dev) ∧
      (∀ src dst node len, copyOf q f.head = ⟨qTile q, src, myNode s.dev, dst, node, len⟩ → node ≠ myNode s.dev → 0 < len →
        f.prog = len → hasLeft s.dev node f.aux = true → exec (.copy q seq) s = .next (s.on (finish q seq 0 0 len s.dev)))) ∧
  (∀ (s : State) (a g : Nat) (x : Session) (h : Held), Formed s.dev → a < 8 → g < 0x30000 →
      trackerAt s.dev a = ⟨some x, none, [h]⟩ → owesGranule g (some x) = true → s.dev.weak = [] → slotFree s.dev x = true → x.snapBytes = [] →
      (∀ i, i < 4096 → lineErr s.dev (a * stackSpan + g * 0x40000 + 64 * i) = none) →
      a * stackSpan + g * 0x40000 ≤ h.addr → h.addr + h.data.length ≤ a * stackSpan + g * 0x40000 + 0x40000 → x.hi ≤ 0x30000 →
      ∃ t y, exec (.granuleTaken a 0 g) s = .next t ∧ t.pending = s.pending ∧ trackerAt t.dev a = ⟨some y, none, []⟩ ∧
        g ∈ y.taken ∧ y.owner = x.owner ∧ y.lo = x.lo ∧ y.hi = x.hi ∧ y.slots = x.slots ++ [(freeSlot s.dev, g)] ∧
        (∀ b, a * stackSpan + g * 0x40000 ≤ b → b < a * stackSpan + g * 0x40000 + 0x40000 →
          tabGet memRest y.snapBytes b = byteAt s.dev b) ∧
        ldBytes t.dev h.addr h.data.length = h.data ∧
        rb t.dev (aCbwStat a) 0 = true ∧ rf t.dev (aCbwStat a) 2 18 = leftOf (some y) % 2 ^ 18 ∧
        RegsKept (· = aCbwStat a) s.dev t.dev ∧ MemKept (fun b => h.addr ≤ b ∧ b < h.addr + h.data.length) s.dev t.dev)

/-- R98: a GATHER within the package in which no element faults or lies in the control window writes element j to dest + j × size, for
every j, leaves every other byte and every register, and answers OK with count n. The destination lies apart from the index list and the
elements. R98: a SCATTER within the package in which no element faults or lies in the control window writes its j-th packed element to the
j-th address, for every j, leaves every other byte and every register, and answers OK with count n. The addresses lie apart from each
other, from the index list and from the packed elements. R98: a GATHER or SCATTER whose first element faults (no memory line being at
fault) answers the fault's own code and detail with count 0, whether or not first_fault is set, and changes nothing else; an index list or
packed elements that may not be touched answer before any element. -/
def Obligations.GatherAndScatter : Prop :=
  (∀ (s : State) (q seq : Nat) (f : Flight) (x : GathP), Formed s.dev → Served s.dev 0x11 q seq f → gathOf q f.head = x →
      f.prog = 0 → f.stop = 0 → x.node = myNode s.dev → badRange s.dev false x.index (x.n * x.iw) = none →
      badRange s.dev true x.dest (x.n * x.es) = none → s.dev.weak = [] → NoHolds s.dev → (tileAt s.dev (qTile q)).rcache = [] →
      (∀ j, j < x.n → x.fault s.dev false j = none ∧ inCtrl (x.elem s.dev j) = false) →
      x.index + x.n * x.iw ≤ x.dest ∨ x.dest + x.n * x.es ≤ x.index →
      (∀ j, j < x.n → x.elem s.dev j + x.es ≤ x.dest ∨ x.dest + x.n * x.es ≤ x.elem s.dev j) →
      ∃ t, exec (.gather q seq) s = .next t ∧ t.pending = s.pending ∧ findFlight t.dev q seq = some (f.finish 0 0 x.n) ∧
        (∀ j, j < x.n → ldBytes t.dev (x.dest + j * x.es) x.es = ldBytes s.dev (x.elem s.dev j) x.es) ∧
        RegsKept (fun _ => False) s.dev t.dev ∧ MemKept (fun a => x.dest ≤ a ∧ a < x.dest + x.n * x.es) s.dev t.dev) ∧
  (∀ (s : State) (q seq : Nat) (f : Flight) (x : GathP), Formed s.dev → Served s.dev 0x12 q seq f → gathOf q f.head = x →
      f.prog = 0 → f.stop = 0 → x.node = myNode s.dev → badRange s.dev false x.index (x.n * x.iw) = none →
      badRange s.dev false x.dest (x.n * x.es) = none → s.dev.weak = [] → NoHolds s.dev →
      (∀ j, j < x.n → x.fault s.dev true j = none ∧ inCtrl (x.elem s.dev j) = false) →
      (∀ j, j < x.n → (x.elem s.dev j + x.es ≤ x.dest ∨ x.dest + x.n * x.es ≤ x.elem s.dev j) ∧
        (x.elem s.dev j + x.es ≤ x.index ∨ x.index + x.n * x.iw ≤ x.elem s.dev j) ∧
        ∀ k, k < x.n → k ≠ j → x.elem s.dev j + x.es ≤ x.elem s.dev k ∨ x.elem s.dev k + x.es ≤ x.elem s.dev j) →
      ∃ t, exec (.scatter q seq) s = .next t ∧ t.pending = s.pending ∧ findFlight t.dev q seq = some (f.finish 0 0 x.n) ∧
        (∀ j, j < x.n → ldBytes t.dev (x.elem s.dev j) x.es = ldBytes s.dev (x.dest + j * x.es) x.es) ∧
        RegsKept (fun _ => False) s.dev t.dev ∧
        MemKept (fun a => ∃ j, j < x.n ∧ x.elem s.dev j ≤ a ∧ a < x.elem s.dev j + x.es) s.dev t.dev) ∧
  (∀ (s : State) (q seq : Nat) (f : Flight) (x : GathP) (sc : Bool) (st det : Nat), Formed s.dev →
      Served s.dev (if sc then 0x12 else 0x11) q seq f → gathOf q f.head = x → f.prog = 0 → f.stop = 0 →
      (busRange s.dev false x.index (x.n * x.iw) x.iw = some (st, det) →
        exec (if sc then .scatter q seq else .gather q seq) s = .next (s.on (finish q seq st det 0 s.dev))) ∧
      (badRange s.dev false x.index (x.n * x.iw) = none → badRange s.dev (!sc) x.dest (x.n * x.es) = none → 0 < x.n →
        x.node = myNode s.dev → x.fault s.dev sc 0 = some (st, det, none) →
        exec (if sc then .scatter q seq else .gather q seq) s = .next (s.on (finish q seq st det 0 s.dev))))

/-- R321 to R323: a PUT or a GET within the package copies its bytes; a PUT with sig then adds sigval to the word at sig; each answers OK
with its length and changes nothing else. A PUT toward another node answers OK once its last message has left. R72, R259, R525: commands
reach the control window in aligned words. A PUT of one word to a doorbell of a tile that is there rings it as DOORBELL_WRITE does and
answers OK with count 8; one to a populated range in other sizes or places answers BAD_PACKET detail 6, one to a range that is not there
NOT_PERMITTED detail 2; a GET of a register's word writes what the register reads. R320: INVAL of the whole read cache empties it and
answers OK with the lines dropped; INVAL of a range of this package drops the lines that lie in it and keeps the others. No register and
no byte changes. -/
def Obligations.PutGetInval : Prop :=
  (∀ (s : State) (q seq : Nat) (f : Flight) (src dst len : Nat), Formed s.dev → f.stop = 0 →
      bits (pbytes f.head 32 6) 0 40 = len →
      (f.prog = 0 → badRange s.dev false src len = none → badRange s.dev true dst len = none → GoodLines s.dev → NoHolds s.dev →
        s.dev.weak = [] → src + len ≤ dst ∨ dst + len ≤ src →
        (Served s.dev 0x51 q seq f → gNode (pbytes f.head 16 8) = myNode s.dev → gOff (pbytes f.head 16 8) = src →
          bits (pbytes f.head 24 8) 0 48 = dst →
          ∃ t, exec (.get q seq) s = .next t ∧ t.pending = s.pending ∧ findFlight t.dev q seq = some (f.finish 0 0 len) ∧
            ldBytes t.dev dst len = ldBytes s.dev src len ∧
            RegsKept (fun _ => False) s.dev t.dev ∧ MemKept (fun a => dst ≤ a ∧ a < dst + len) s.dev t.dev) ∧
        (Served s.dev 0x50 q seq f → gNode (pbytes f.head 24 8) = myNode s.dev → gOff (pbytes f.head 24 8) = dst →
          bits (pbytes f.head 16 8) 0 48 = src →
          (pbits f.head 10 0 1 = 0 →
            ∃ t, exec (.put q seq) s = .next t ∧ t.pending = s.pending ∧ findFlight t.dev q seq = some (f.finish 0 0 len) ∧
              ldBytes t.dev dst len = ldBytes s.dev src len ∧
              RegsKept (fun _ => False) s.dev t.dev ∧ MemKept (fun a => dst ≤ a ∧ a < dst + len) s.dev t.dev) ∧
          (∀ sa, pbits f.head 10 0 1 = 1 → gOff (pbytes f.head 40 8) = sa → badRange s.dev true sa 8 = none →
            sa + 8 ≤ dst ∨ dst + len ≤ sa →
            ∃ t, exec (.put q seq) s = .next t ∧ t.pending = s.pending ∧ findFlight t.dev q seq = some (f.finish 0 0 len) ∧
              ldBytes t.dev dst len = ldBytes s.dev src len ∧
              ldBytes t.dev sa 8 = bytesOf 8 ((ld s.dev sa 8 + pbytes f.head 48 8) % 2 ^ 64) ∧
              RegsKept (fun _ => False) s.dev t.dev ∧
              MemKept (fun a => (dst ≤ a ∧ a < dst + len) ∨ (sa ≤ a ∧ a < sa + 8)) s.dev t.dev))) ∧
      (Served s.dev 0x50 q seq f → gNode (pbytes f.head 24 8) ≠ myNode s.dev → 0 < len →
        f.prog = len + pbits f.head 10 0 1 → hasLeft s.dev (gNode (pbytes f.head 24 8)) f.aux = true →
        exec (.put q seq) s = .next (s.on (finish q seq 0 0 len s.dev)))) ∧
  (∀ (s : State) (q seq : Nat) (f : Flight) (src dst len : Nat), Formed s.dev → f.prog = 0 → f.stop = 0 → GoodLines s.dev →
      NoHolds s.dev → s.dev.weak = [] → bits (pbytes f.head 32 6) 0 40 = len →
      (Served s.dev 0x50 q seq f → gNode (pbytes f.head 24 8) = myNode s.dev → pbits f.head 10 0 1 = 0 →
        bits (pbytes f.head 16 8) 0 48 = src → gOff (pbytes f.head 24 8) = dst → badRange s.dev false src len = none →
        (∀ n, n < 65536 → tileAbsent s.dev (qTile n) = false → dst = bellBase + n / 1024 * 0x2000 + n % 1024 * 8 → len = 8 →
          ∃ t, exec (.doorbellWrite n (BitVec.ofNat 16 (ld s.dev src 2))) s = .next t ∧
            exec (.put q seq) s = .next (t.on (finish q seq 0 0 8 t.dev))) ∧
        (∀ off, dst = ctrlBase + off → off < pRegionOff → 0 < len →
          (ctrlSlot off = true → off % 8 ≠ 0 ∨ len % 8 ≠ 0 → exec (.put q seq) s = .next (s.on (finish q seq 0x0D 0x0006 0 s.dev))) ∧
          (ctrlSlot off = false → exec (.put q seq) s = .next (s.on (finish q seq 0x0E 0x0002 0 s.dev))))) ∧
      (Served s.dev 0x51 q seq f → gNode (pbytes f.head 16 8) = myNode s.dev → len = 8 → bits (pbytes f.head 24 8) 0 48 = dst →
        badRange s.dev true dst 8 = none → ∀ off, gOff (pbytes f.head 16 8) = ctrlBase + off → off % 8 = 0 → inBlock off = true →
        ∃ t, exec (.get q seq) s = .next t ∧ t.pending = s.pending ∧ findFlight t.dev q seq = some (f.finish 0 0 8) ∧
          ldBytes t.dev dst 8 = bytesOf 8 (regNow s.dev off) ∧ RegsKept (fun _ => False) s.dev t.dev ∧
          MemKept (fun a => dst ≤ a ∧ a < dst + 8) s.dev t.dev)) ∧
  (∀ (s : State) (q seq : Nat) (f : Flight), Formed s.dev → Served s.dev 0x13 q seq f →
      ∃ t, exec (.inval q seq) s = .next t ∧ t.pending = s.pending ∧
        (pbytes f.head 10 1 = 0 → (tileAt t.dev (qTile q)).rcache = [] ∧
          findFlight t.dev q seq = some (f.finish 0 0 (tileAt s.dev (qTile q)).rcache.length)) ∧
        (pbytes f.head 10 1 = 1 → gNode (pbytes f.head 16 8) = myNode s.dev → ∀ e : Nat × Nat,
          e ∈ (tileAt t.dev (qTile q)).rcache ↔ e ∈ (tileAt s.dev (qTile q)).rcache ∧
            ¬ (lineOf (gOff (pbytes f.head 16 8)) ≤ e.1 ∧ e.1 < gOff (pbytes f.head 16 8) + bits (pbytes f.head 24 8) 0 40)) ∧
        (∀ p, p ≠ qTile q → tileAt t.dev p = tileAt s.dev p) ∧
        RegsKept (fun _ => False) s.dev t.dev ∧ MemKept (fun _ => False) s.dev t.dev)

/-- R324: RRED of FP64, FP32, INT32 or INT64 elements within the package adds every source element to its destination element, floating
sums rounded to nearest even, integer sums wrapped, or saturated under isat, and answers OK with n. R326: RATOM on a word of this node
stores what its operation makes of the old word and the operand, writes the old word to ret where it is asked for, and answers OK with
count 1; toward another node without ret it ends when its message is acknowledged; a node beyond the rack domain answers NOT_PERMITTED, a
lost one UNREACHABLE. -/
def Obligations.RredAndRatom : Prop :=
  ((∀ (s : State) (q seq : Nat) (f : Flight) (fmt n src dst : Nat) (isat : Bool), Formed s.dev → Served s.dev 0x52 q seq f →
      f.prog = 0 → f.stop = 0 → pbytes f.head 10 1 = fmt → fmt ∈ [0, 1, 8, 9] → (pbits f.head 11 0 1 == 1) = isat →
      pbytes f.head 12 4 = n → bits (pbytes f.head 16 8) 0 48 = src → gNode (pbytes f.head 24 8) = myNode s.dev →
      gOff (pbytes f.head 24 8) = dst → badRange s.dev false src (n * esz fmt) = none → badRange s.dev true dst (n * esz fmt) = none →
      GoodLines s.dev → NoHolds s.dev → s.dev.weak = [] → src + n * esz fmt ≤ dst ∨ dst + n * esz fmt ≤ src →
      ∃ t, exec (.rred q seq) s = .next t ∧ t.pending = s.pending ∧ findFlight t.dev q seq = some (f.finish 0 0 n) ∧
        (∀ j, j < n → ldBytes t.dev (dst + j * esz fmt) (esz fmt) =
          bytesOf (esz fmt) (rredAdd fmt isat (ld s.dev (dst + j * esz fmt) (esz fmt)) (ld s.dev (src + j * esz fmt) (esz fmt)))) ∧
        RegsKept (fun _ => False) s.dev t.dev ∧ MemKept (fun a => dst ≤ a ∧ a < dst + n * esz fmt) s.dev t.dev) ∧
    (∀ a b, rredAdd 9 false a b = (a + b) % 2 ^ 64 ∧ rredAdd 8 false a b = (a + b) % 2 ^ 32 ∧
      sext 32 (rredAdd 8 true a b) =
        (if 2 ^ 31 ≤ sext 32 a + sext 32 b then 2 ^ 31 - 1 else if sext 32 a + sext 32 b < -2 ^ 31 then -2 ^ 31 else sext 32 a + sext 32 b) ∧
      rredAdd 1 false a b = (encodeX fp32 0 false (addN 0 (decodeF fp32 a) (decodeF fp32 b))).1)) ∧
  (∀ (s : State) (q seq : Nat) (f : Flight) (node a op v cmp : Nat), Formed s.dev → Served s.dev 0x54 q seq f → f.prog = 0 →
      gNode (pbytes f.head 16 8) = node → gOff (pbytes f.head 16 8) = a → pbytes f.head 10 1 = op → pbytes f.head 24 8 = v →
      pbytes f.head 32 8 = cmp →
      (inRack s.dev node = false → exec (.ratom q seq) s = .next (s.on (finish q seq 0x0E 0x0002 0 s.dev))) ∧
      (inRack s.dev node = true → node ≠ myNode s.dev → node ∈ s.dev.fab.lost → pbits f.head 11 0 1 = 0 →
        exec (.ratom q seq) s = .next (s.on (finish q seq 0x06 node 0 s.dev))) ∧
      (node = myNode s.dev → s.dev.weak = [] → badRange s.dev true a 8 = none → GoodLines s.dev → NoHolds s.dev →
        ∀ old, ld s.dev a 8 = old →
        let new := match op with
          | 0 => (old + v) % 2 ^ 64
          | 1 => v
          | 2 => if old = cmp then v else old
          | 3 => old &&& v
          | 4 => old ||| v
          | 5 => old ^^^ v
          | 6 => if sext 64 old < sext 64 v then v else old
          | 7 => if sext 64 v < sext 64 old then v else old
          | 8 => Nat.max old v
          | _ => Nat.min old v
        (pbits f.head 11 0 1 = 0 →
          ∃ t, exec (.ratom q seq) s = .next t ∧ t.pending = s.pending ∧ findFlight t.dev q seq = some (f.finish 0 0 1) ∧
            ldBytes t.dev a 8 = bytesOf 8 new ∧ RegsKept (fun _ => False) s.dev t.dev ∧
            MemKept (fun x => a ≤ x ∧ x < a + 8) s.dev t.dev) ∧
        (∀ r, pbits f.head 11 0 1 = 1 → bits (pbytes f.head 40 6) 0 48 = r → badRange s.dev true r 8 = none → a + 8 ≤ r ∨ r + 8 ≤ a →
          ∃ t, exec (.ratom q seq) s = .next t ∧ t.pending = s.pending ∧ findFlight t.dev q seq = some (f.finish 0 0 1) ∧
            ldBytes t.dev a 8 = bytesOf 8 new ∧ ldBytes t.dev r 8 = bytesOf 8 old ∧ RegsKept (fun _ => False) s.dev t.dev ∧
            MemKept (fun x => (a ≤ x ∧ x < a + 8) ∨ (r ≤ x ∧ x < r + 8)) s.dev t.dev)))

/-- R325: the set of an MCAST; one of at most 4 KiB whose set is this node alone writes its own copy and answers OK with its length, one
whose messages have all left answers OK; 20 µs after it was sent, an MCAST is sent again to the members missing. -/
def Obligations.McastSet : Prop :=
  (∀ base span m : Nat, base < 2 ^ 14 → span < 2 ^ 14 → m < 2 ^ 14 →
    (mcMember base span m = true ↔ ∀ k, k < 14 → bitAt span k = false → bitAt m k = bitAt base k)) ∧
  (∀ (s : State) (q seq : Nat) (f : Flight) (src dst len : Nat), Formed s.dev → Served s.dev 0x53 q seq f → f.stop = 0 →
    bits (pbytes f.head 36 6) 0 40 = len → 0 < len →
    (f.prog = len → mcLeft s.dev q = true → exec (.mcast q seq) s = .next (s.on (finish q seq 0 0 len s.dev))) ∧
    (f.prog = 0 → bits (pbytes f.head 16 8) 0 48 = src → bits (pbytes f.head 24 6) 0 48 = dst →
      pbytes f.head 32 2 % 2 ^ 14 = myNode s.dev → pbytes f.head 34 2 % 2 ^ 14 = 0 → (queueAt s.dev q).mcasts = [] →
      badRange s.dev false src len = none → badRange s.dev true dst len = none → GoodLines s.dev → NoHolds s.dev → s.dev.weak = [] →
      mcRoom s.dev q = true → src + len ≤ dst ∨ dst + len ≤ src → dst % 4096 + len ≤ 4096 →
      (mcMembers s.dev (myNode s.dev) 0).filter (fun n => n != myNode s.dev) = [] →
      ∃ t, exec (.mcast q seq) s = .next t ∧ t.pending = s.pending ∧
        (findFlight t.dev q seq).map Flight.stage = some (.done 0 0 len) ∧
        ldBytes t.dev dst len = ldBytes s.dev src len ∧
        RegsKept (fun _ => False) s.dev t.dev ∧ MemKept (fun a => dst ≤ a ∧ a < dst + len) s.dev t.dev)) ∧
  (∀ (s : State) (m : McOut), s.dev.fab.mcout = [m] →
    exec (.mcastResend m.ident) s = .next (s.on (canonDev (m.missing.foldl
      (fun d n => mcCopy (myNode d) n m.cls 0 m.msg d)
      (let d := passMono (m.since + 480000) s.dev
       { d with fab := { d.fab with mcout := [{ m with since := mono d }] } })))))

/-- R328: a RECV takes the oldest announcement for its queue and path whose masked tag is its own; where the SEND waits in this package
its bytes move at once, the info record is written, and both answer OK with len, or PARTIAL with cap where cap is shorter. With no such
announcement the RECV waits, and so does a SEND that has announced itself; one stopped before its match answers ABORTED. -/
def Obligations.SendRecvMatch : Prop :=
  ∀ (s : State) (q seq : Nat) (f : Flight), Formed s.dev →
    (Served s.dev 0x56 q seq f → f.prog = 0 → ∀ buf cap info : Nat,
      bits (pbytes f.head 24 6) 0 48 = buf → bits (pbytes f.head 32 6) 0 32 = cap → bits (pbytes f.head 40 6) 0 48 = info →
      badRange s.dev true buf cap = none → badRange s.dev true info 16 = none →
      let hit := fun a : Ann => a.queue == q && a.path == pbytes f.head 10 1 &&
        (a.mtag &&& pbytes f.head 16 4) == (pbytes f.head 12 4 &&& pbytes f.head 16 4)
      (s.dev.fab.anns.find? hit = none → exec (.recv q seq) s = .next s) ∧
      (∀ (a : Ann) (g : Flight) (src len : Nat), s.dev.fab.anns.find? hit = some a → a.src = myNode s.dev → a.len = len → 0 < len →
        0 < cap → (a.id / 65536, a.id % 65536) ≠ (q, seq) → findFlight s.dev (a.id / 65536) (a.id % 65536) = some g → g.op = 0x55 →
        g.stage = .waiting → g.prog = 1 → g.stop = 0 → bits (pbytes g.head 16 8) 0 48 = src → bits (pbytes g.head 32 6) 0 32 = len →
        seq < 65536 → badRange s.dev false src len = none → GoodLines s.dev → NoHolds s.dev → s.dev.weak = [] →
        info + 16 ≤ buf ∨ buf + cap ≤ info → src + len ≤ buf ∨ buf + cap ≤ src →
        ∃ t, exec (.recv q seq) s = .next t ∧ t.pending = s.pending ∧
          (findFlight t.dev q seq).map Flight.stage = some (if cap < len then .done 0x01 0x0001 cap else .done 0 0 len) ∧
          (findFlight t.dev (a.id / 65536) (a.id % 65536)).map Flight.stage =
            some (if cap < len then .done 0x01 0 cap else .done 0 0 len) ∧
          t.dev.fab.anns = dropFirst hit s.dev.fab.anns ∧
          ldBytes t.dev buf (Nat.min len cap) = ldBytes s.dev src (Nat.min len cap) ∧
          ldBytes t.dev info 16 = bytesOf 4 (a.src % 2 ^ 14) ++ bytesOf 4 a.mtag ++ bytesOf 4 len ++ bytesOf 4 0 ∧
          RegsKept (fun _ => False) s.dev t.dev ∧
          MemKept (fun x => (buf ≤ x ∧ x < buf + Nat.min len cap) ∨ (info ≤ x ∧ x < info + 16)) s.dev t.dev)) ∧
    (Served s.dev 0x55 q seq f →
      (f.prog = 1 → f.stop = 0 → exec (.send q seq) s = .next s) ∧
      (f.prog = 0 → f.stop = 0 → ∀ st det, busRange s.dev false (bits (pbytes f.head 16 8) 0 48) (bits (pbytes f.head 32 6) 0 32) 8 = some (st, det) →
        exec (.send q seq) s = .next (s.on (finish q seq st det 0 s.dev))) ∧
      (f.prog = 2 → f.stop = 1 → s.dev.fab.asks = [] →
        exec (.send q seq) s = .next (s.on (finish q seq 0x02 0x0001 0 s.dev))))

/-- R328: a SEND to a queue of this node lists its announcement, and a refused one announces itself again 10 µs later; an announcement
from another node is listed while fewer than 4,096 stand there. R328: SEND_GO starts the data of a SEND that waits for its match, toward
the buffer and up to the cap it names; into a buffer of no bytes the SEND ends at once, PARTIAL with count 0. -/
def Obligations.SendAnnounces : Prop :=
  (∀ (s : State) (q seq : Nat) (f : Flight), Formed s.dev → s.dev.fab.anns.length < 4096 →
      (Served s.dev 0x55 q seq f → pbytes f.head 10 1 = 0 → bits (pbytes f.head 24 8) 16 14 = myNode s.dev →
        let a : Ann := ⟨myNode s.dev, 0, cmdId q seq, bits (pbytes f.head 24 8) 0 16, pbytes f.head 12 4, bits (pbytes f.head 32 6) 0 32⟩
        (f.prog = 0 → f.stop = 0 → badRange s.dev false (bits (pbytes f.head 16 8) 0 48) (bits (pbytes f.head 32 6) 0 32) = none →
          exec (.send q seq) s = .next (s.on (modFlight q seq (fun x => { x with prog := 1 })
            { s.dev with fab := { s.dev.fab with anns := s.dev.fab.anns ++ [a] } }))) ∧
        (f.prog = 2 → f.aux ≤ mono s.dev →
          exec (.sendAnnRetry q seq) s = .next (s.on (modFlight q seq (fun x => { x with prog := 1 })
            { s.dev with fab := { s.dev.fab with anns := s.dev.fab.anns ++ [a] } })))) ∧
      (∀ (n : Nat) (m : Msg), s.dev.fab.inbox = [(n, m)] → m.op = 6 → bitAt m.args 2 = false → n < 0x4000 →
        exec (.sendAnnounce n) s = .next (s.on { s.dev with fab := { s.dev.fab with inbox := [], anns := s.dev.fab.anns ++
          [⟨n, 0, bits m.args 16 32, m.off % 65536, bits m.args 48 32, bits m.args 80 32⟩] } }))) ∧
  (∀ (s : State) (q seq : Nat) (f : Flight) (n cap : Nat) (m : Msg), Formed s.dev → s.dev.fab.inbox = [(n, m)] → m.op = 7 →
      bits m.args 16 32 = cmdId q seq → bits m.args 48 32 = cap → findFlight s.dev q seq = some f → f.op = 0x55 →
      f.stage = .waiting → f.prog = 1 → f.stop = 0 → 0 < bits (pbytes f.head 32 6) 0 32 → n ≠ myNode s.dev →
      ∃ t, exec (.sendGo q seq) s = .next t ∧ t.pending = s.pending ∧ t.dev.fab.inbox = [] ∧
        (cap = 0 → (findFlight t.dev q seq).map Flight.stage = some (.done 0x01 0 0)) ∧
        (0 < cap → roomFor s.dev q 4096 = false →
          findFlight t.dev q seq = some { f with prog := 3, mark := [n, m.off, cap, bits m.args 80 32] }) ∧
        (cap = 0 ∨ roomFor s.dev q 4096 = false →
          RegsKept (fun _ => False) s.dev t.dev ∧ MemKept (fun _ => False) s.dev t.dev))

/-- R297: enabling a port that is down, disabled or failed starts its training with the lanes and role written, at once; DRAIN of a port
that is up makes it draining, and disables it with nothing left to send; ABORT of one that is up and has nothing to send again disables
it; either disables a port that trains; an enable of a port that is up, or a disable of one that is disabled, changes nothing. R291, R296,
R297: a port whose training ends with an identity it may take keeps what was learnt for the next tick; with a wrong identity it stays
down, miswired, and shows the peer; with fewer than half of its lanes it fails; 50 ms after its enable a port that still trains fails. -/
def Obligations.PortOperations : Prop :=
  (∀ (s : State) (p : Nat), Formed s.dev → p < 18 →
      (portState s.dev p = 0 ∨ portState s.dev p = 4 ∨ portState s.dev p = 5 → mayTrain s.dev p = true →
        ∃ t, exec (.portEnable p) s = .next t ∧ t.pending = s.pending ∧ portState t.dev p = 1 ∧
          (∀ lo n, ef t.dev (fPortCtl p) lo n = rf s.dev (fPortCtl p) lo n) ∧
          RegsKept (· = fPortStat p) s.dev t.dev ∧ MemKept (fun _ => False) s.dev t.dev) ∧
      (portState s.dev p = 1 ∨ portState s.dev p = 2 ∨ portState s.dev p = 3 → exec (.portEnable p) s = .next s) ∧
      (portState s.dev p = 4 → exec (.portDisableDrain p) s = .next s ∧ exec (.portDisableAbort p) s = .next s) ∧
      (portState s.dev p = 1 →
        exec (.portDisableDrain p) s = .next (s.on (setF (modLink p (fun _ => link0 p) s.dev) (fPortStat p) 0 3 4)) ∧
        exec (.portDisableAbort p) s = .next (s.on (setF (modLink p (fun _ => link0 p) s.dev) (fPortStat p) 0 3 4))) ∧
      (portState s.dev p = 2 →
        ∃ t, exec (.portDisableDrain p) s = .next t ∧ t.pending = s.pending ∧
          ((linkAt s.dev p).txq = [] → (linkAt s.dev p).replay = [] → portState t.dev p = 4 ∧ rf t.dev (fPortStat p) 4 16 = 0) ∧
          ((linkAt s.dev p).txq ≠ [] ∨ (linkAt s.dev p).replay ≠ [] → portState t.dev p = 3 ∧ linkAt t.dev p = linkAt s.dev p) ∧
          RegsKept (fun o => o = fPortStat p ∨ o = mTwinStat) s.dev t.dev ∧ MemKept (fun _ => False) s.dev t.dev) ∧
      (portState s.dev p = 2 ∨ portState s.dev p = 3 → (linkAt s.dev p).txq = [] → (linkAt s.dev p).replay = [] →
        ∃ t, exec (.portDisableAbort p) s = .next t ∧ t.pending = s.pending ∧ portState t.dev p = 4 ∧
          rf t.dev (fPortStat p) 4 16 = 0 ∧ linkAt t.dev p = link0 p ∧
          RegsKept (fun o => o = fPortStat p ∨ o = mTwinStat) s.dev t.dev ∧ MemKept (fun _ => False) s.dev t.dev)) ∧
  (∀ (s : State) (p up : Nat) (x : Identity), Formed s.dev → p < 18 → portState s.dev p = 1 →
      x.node < 2 ^ 14 → x.port < 32 →
      let lanes := ef s.dev (fPortCtl p) 0 16 % 2 ^ portLanes p
      ∃ t, exec (.portTrained p up x) s = .next t ∧ t.pending = s.pending ∧
        rf t.dev (fPortStat p) 20 14 = x.node ∧ rf t.dev (fPortStat p) 34 5 = x.port ∧
        (identityOk s.dev p x = false → portState t.dev p = 0 ∧ rb t.dev (fPortStat p) 3 = true) ∧
        (identityOk s.dev p x = true → up &&& lanes = 0 ∨ 2 * popCount 16 (up &&& lanes) < popCount 16 lanes →
          portState t.dev p = 5) ∧
        (identityOk s.dev p x = true → up &&& lanes ≠ 0 → popCount 16 lanes ≤ 2 * popCount 16 (up &&& lanes) →
          portState t.dev p = 1 ∧ (linkAt t.dev p).trained = some (up &&& lanes, x)) ∧
        RegsKept (· = fPortStat p) s.dev t.dev ∧
        ∃ u, exec (.portTrainTimeout p) s = .next u ∧ u.pending = s.pending ∧ portState u.dev p = 5 ∧ linkAt u.dev p = link0 p ∧
          (linkAt s.dev p).since + 1200000000 ≤ mono u.dev ∧ RegsKept (· = fPortStat p) s.dev u.dev)

/-- R296, R481: a lane fault takes the lane out of its port and records it; a port left with fewer than half of its lanes fails. One lane
at a time may be retrained where enough stay; when it is done it waits to rejoin, or its failure is recorded. R312, R297, R382: a port
that is up or draining and fails, or whose peer sends a link notice, is failed with no lane up; where nothing of it is left to send again,
only the port, the fault registers and D0's bit change. -/
def Obligations.PortTrouble : Prop :=
  (∀ (s : State) (p lane : Nat), Formed s.dev → p < 18 → lane < 16 → portState s.dev p = 2 →
      rb s.dev (fPortStat p) (4 + lane) = true →
      (tooNarrow (laneOut p lane s.dev) p = false →
        (∃ t, exec (.laneFault p lane) s = .next t ∧ t.pending = s.pending ∧ portState t.dev p = 2 ∧
          rb t.dev (fPortStat p) (4 + lane) = false ∧ rf t.dev mFaultStat 0 4 = 1 ∧ rf t.dev mFaultStat 8 8 = p ∧
          rf t.dev mFaultStat 16 8 = lane ∧ ∀ i, i < 16 → i ≠ lane → rb t.dev (fPortStat p) (4 + i) = rb s.dev (fPortStat p) (4 + i)) ∧
        ((linkAt s.dev p).retrain = [] →
          exec (.laneRetrain p lane) s = .next (s.on (modLink p (fun l => { l with retrain := [(lane, 0)] }) s.dev)))) ∧
      (tooNarrow (laneOut p lane s.dev) p = true → (linkAt s.dev p).txq = [] → (linkAt s.dev p).replay = [] →
        (∃ t, exec (.laneFault p lane) s = .next t ∧ t.pending = s.pending ∧ portState t.dev p = 5) ∧
        exec (.laneRetrain p lane) s = .next s) ∧
      ((linkAt s.dev p).retrain = [(lane, 1)] →
        exec (.laneRetrainDone p lane true) s = .next (s.on (modLink p (fun l => { l with retrain := [(lane, 2)] }) s.dev)) ∧
        ∃ t, exec (.laneRetrainDone p lane false) s = .next t ∧ t.pending = s.pending ∧ (linkAt t.dev p).retrain = [] ∧
          rf t.dev mFaultStat 0 4 = 1 ∧ rf t.dev mFaultStat 16 8 = lane)) ∧
  (∀ (s : State) (p : Nat) (c : Instr), Formed s.dev → p < 18 → portState s.dev p = 2 ∨ portState s.dev p = 3 →
      c = .portFail p ∨ c = .linkNotice p → (linkAt s.dev p).txq = [] → (linkAt s.dev p).replay = [] →
      ∃ t, exec c s = .next t ∧ t.pending = s.pending ∧ portState t.dev p = 5 ∧ rf t.dev (fPortStat p) 4 16 = 0 ∧
        linkAt t.dev p = link0 p ∧ rf t.dev mFaultStat 0 4 = 2 ∧ rf t.dev mFaultStat 8 8 = p ∧ rb t.dev mFaultStat 25 = true ∧
        t.dev.fab.inq = s.dev.fab.inq ∧ t.dev.fab.store = s.dev.fab.store ∧
        (rf s.dev mFaultStat 42 10 ≠ 0 → rf s.dev mFaultStat 42 10 ∈ t.dev.plic) ∧ MemKept (fun _ => False) s.dev t.dev)

/-- R301, R302: a sequenced flit with a good CRC and the next lseq is accepted, and the next lseq counts up; one with a failed CRC is
counted, discarded and asked for again; one out of turn is discarded and asked for again. A credit returned is one flit less out; a replay
request counts, and its eighth for the same flit in a row fails the port. R310, R311: a flit leaves on the lowest dimension in which its
destination differs and whose port is up, one layer higher where that is below the dimension it came by, and never beyond layer 3; with no
port to take it goes nowhere. FLIT_FORWARD takes the oldest flit of its source that is for another node out of what waits here. -/
def Obligations.LinkAndRouting : Prop :=
  (∀ (s : State) (p : Nat) (w : Flit) (x : FlitX) (lseq lack : Nat) (ok : Bool), Formed s.dev → p < 16 → portState s.dev p = 2 →
      flitParse w (portDim s.dev p) = (x, lseq, lack, ok) →
      (ok = true → x.typ = 1 ∨ x.typ = 2 ∨ x.typ = 3 → lseq = (linkAt s.dev p).rxNext → lseq < 4096 →
        ∃ t, exec (.flitReceive p w 0) s = .next t ∧ t.pending = s.pending ∧
          t.dev.fab.inq = s.dev.fab.inq ++ [{ x with port := p, came := s.dev.clk.cyc }] ∧
          (linkAt t.dev p).rxNext = (lseq + 1) % 4096 ∧ (linkAt t.dev p).asked = false ∧
          (∀ e ∈ (linkAt t.dev p).replay, e ∈ (linkAt s.dev p).replay ∨ e.2 ∈ (linkAt s.dev p).txq) ∧
          RegsKept (fun o => o = fHotLine ∨ o = fLinkCnt p) s.dev t.dev ∧ MemKept (fun _ => False) s.dev t.dev) ∧
      (ok = false → ∃ t, exec (.flitReceive p w 0) s = .next t ∧ t.pending = s.pending ∧ t.dev.fab.inq = s.dev.fab.inq ∧
        (linkAt t.dev p).asked = true ∧ (linkAt t.dev p).rxNext = (linkAt s.dev p).rxNext ∧
        rf t.dev (fLinkCnt p) 0 16 = Nat.min 0xFFFF (rf s.dev (fLinkCnt p) 0 16 + 1) ∧ RegsKept (· = fLinkCnt p) s.dev t.dev) ∧
      (ok = true → x.typ = 1 ∨ x.typ = 2 ∨ x.typ = 3 → lseq ≠ (linkAt s.dev p).rxNext →
        ∃ t, exec (.flitReceive p w 0) s = .next t ∧ t.pending = s.pending ∧ t.dev.fab.inq = s.dev.fab.inq ∧
          (linkAt t.dev p).asked = true ∧ (linkAt t.dev p).rxNext = (linkAt s.dev p).rxNext) ∧
      (∀ pool n, (linkAt s.dev p).txq = [] →
        ∃ t, exec (.creditReturn p pool n) s = .next t ∧ t.pending = s.pending ∧
          (∀ k, tabGet (fun _ => 0) (linkAt t.dev p).used k =
            tabGet (fun _ => 0) (linkAt s.dev p).used k - (if k = pool then n else 0)) ∧
          RegsKept (fun _ => False) s.dev t.dev) ∧
      (∀ n y, (n, y) ∈ (linkAt s.dev p).replay →
        ∃ t, exec (.replayRequest p n) s = .next t ∧ t.pending = s.pending ∧
          rf t.dev (fLinkCnt p) 16 16 = Nat.min 0xFFFF (rf s.dev (fLinkCnt p) 16 16 + 1) ∧
          ((linkAt s.dev p).failSeq ≠ n ∨ (linkAt s.dev p).fails < 7 → portState t.dev p = 2 ∧ (linkAt t.dev p).failSeq = n) ∧
          ((linkAt s.dev p).failSeq = n → (linkAt s.dev p).fails = 7 → portState t.dev p = 5))) ∧
  ((∀ (d : Dev) (x : FlitX) (k p : Nat), planPort d x = none → (myNode d ≠ x.src ∨ chordUp d 0 = false ∧ chordUp d 1 = false) →
      k < rf d fNodeCfg 14 4 → bitAt (myNode d ^^^ x.dest) k = true → dimPort d k = some p →
      (∀ j, j < k → bitAt (myNode d ^^^ x.dest) j = true → dimPort d j = none) →
      let layer := if x.lastdim ≠ 15 ∧ k < x.lastdim then x.layer + 1 else x.layer
      route d x = if layer ≤ 3 then some (p, layer, k) else none) ∧
    (∀ (d : Dev) (x : FlitX), planPort d x = none → (myNode d ≠ x.src ∨ chordUp d 0 = false ∧ chordUp d 1 = false) →
      (∀ k, k < rf d fNodeCfg 14 4 → dimPort d k = none) → route d x = none) ∧
    (∀ (s : State) (src : Nat) (x : FlitX), s.dev.fab.inq = [x] → x.src = src → x.dest ≠ myNode s.dev →
      exec (.flitForward src) s = .next (s.on (canonDev (forward x { s.dev with fab := { s.dev.fab with inq := [] } }))) ∧
      (∀ p, x.dest < 0x4000 → route s.dev x = some (p, x.layer, 0) → portState s.dev p = 2 → (linkAt s.dev p).txq = [] →
        (linkAt s.dev p).replay = [] → tabGet (fun _ => 0) (linkAt s.dev p).used (poolOf { x with outLayer := x.layer, outLast := 0 }) < poolSize (poolOf { x with outLayer := x.layer, outLast := 0 }) →
        ∃ t, exec (.flitForward src) s = .next t ∧ t.pending = s.pending ∧ t.dev.fab.inq = [] ∧
          (linkAt t.dev p).replay = [((linkAt s.dev p).txNext, { x with outLayer := x.layer, outLast := 0 })] ∧
          RegsKept (fun _ => False) s.dev t.dev ∧ MemKept (fun _ => False) s.dev t.dev)))

/-- R306: a complete WRITE with the dseq expected is applied once, and the expected value counts up; one with another dseq is dropped: no
byte changes. A message of a lost node is not taken. R330: two RRED messages of INT64 or FP32, from two nodes, to one element, that wait
in one input queue and arrived within 64 cycles, are one update, whichever is asked for: the element becomes its old value plus their sum,
a floating sum rounded before it is added; both sources' expected values count up, and no other byte changes. R307: a cumulative ACK
releases every message before the dseq it names, and no other; ACK_SEND and RESEND_TIMEOUT change no register and no byte, and keep every
message that waits for an acknowledgement. -/
def Obligations.MessagesInOrder : Prop :=
  (∀ (s : State) (n : Nat) (x : FlitX) (m : Msg), Formed s.dev → s.dev.fab.inq = [x] → x.src = n → x.dest = myNode s.dev → x.typ = 1 →
      headMsg x.body = (m, m.data.length) → m.op = 1 → argFlag m 3 = false → retraining s.dev = false → n ≠ myNode s.dev →
      (n ∈ s.dev.fab.lost → exec (.messageReceive n) s = .next s) ∧
      (n ∉ s.dev.fab.lost → isBell m.off = false → inTether s.dev = false → badRange s.dev true m.off m.data.length = none →
        writeErr s.dev m.off m.data.length = none → NoHolds s.dev → m.dseq = (peerAt s.dev n).rxNext → (peerAt s.dev n).got < 31 →
        m.dseq < 2 ^ 32 →
        ∃ t, exec (.messageReceive n) s = .next t ∧ t.pending = s.pending ∧ t.dev.fab.inq = [] ∧
          (peerAt t.dev n).rxNext = (m.dseq + 1) % 2 ^ 32 ∧ (peerAt t.dev n).got = (peerAt s.dev n).got + 1 ∧
          ldBytes t.dev m.off m.data.length = m.data ∧
          RegsKept (· = mTwinStat) s.dev t.dev ∧ MemKept (fun a => m.off ≤ a ∧ a < m.off + m.data.length) s.dev t.dev) ∧
      (n ∉ s.dev.fab.lost → m.dseq ≠ (peerAt s.dev n).rxNext →
        ∃ t, exec (.messageReceive n) s = .next t ∧ t.pending = s.pending ∧
          (peerAt t.dev n).rxNext = (peerAt s.dev n).rxNext ∧ RegsKept (fun _ => False) s.dev t.dev ∧
          MemKept (fun _ => False) s.dev t.dev)) ∧
  (∀ (s : State) (n k a v w fmt : Nat) (x y : FlitX) (m l : Msg), Formed s.dev → s.dev.fab.inq = [x, y] → x.src = n → y.src = k → n ≠ k →
      x.dest = myNode s.dev → y.dest = myNode s.dev → x.typ = 1 → y.typ = 1 → headMsg x.body = (m, m.data.length) →
      headMsg y.body = (l, l.data.length) → fmt = 9 ∨ fmt = 1 → m = ⟨(peerAt s.dev n).rxNext, 2, fmt, a, 0, bytesOf (esz fmt) v⟩ →
      l = ⟨(peerAt s.dev k).rxNext, 2, fmt, a, 0, bytesOf (esz fmt) w⟩ → a % esz fmt = 0 → v < 2 ^ (8 * esz fmt) → w < 2 ^ (8 * esz fmt) →
      x.port = y.port → x.cls = y.cls → x.layer = y.layer → x.came ≤ y.came → y.came ≤ x.came + 64 → retraining s.dev = false →
      n ∉ s.dev.fab.lost → k ∉ s.dev.fab.lost → inTether s.dev = false → badRange s.dev true a (esz fmt) = none → GoodLines s.dev →
      NoHolds s.dev → s.dev.weak = [] → (peerAt s.dev n).got < 31 → (peerAt s.dev k).got < 31 →
      ∀ c, c = n ∨ c = k →
        ∃ t, exec (.messageReceive c) s = .next t ∧ t.pending = s.pending ∧ t.dev.fab.inq = [] ∧
          (∀ e, e = n ∨ e = k → (peerAt t.dev e).rxNext = ((peerAt s.dev e).rxNext + 1) % 2 ^ 32 ∧
            (peerAt t.dev e).got = (peerAt s.dev e).got + 1) ∧
          (fmt = 9 → ld t.dev a 8 = (ld s.dev a 8 + v + w) % 2 ^ 64) ∧
          (fmt = 1 → ldBytes t.dev a 4 = bytesOf 4 (rredAdd 1 false (ld s.dev a 4) (rredAdd 1 false v w))) ∧
          RegsKept (· = fHotLine) s.dev t.dev ∧ MemKept (fun b => a ≤ b ∧ b < a + esz fmt) s.dev t.dev) ∧
  (∀ (s : State) (n : Nat), Formed s.dev →
      (∀ (x : FlitX) (v : Nat), s.dev.fab.inq = [x] → x.src = n → x.dest = myNode s.dev → x.typ = 3 → n ∉ s.dev.fab.lost →
        natOf (x.body.take 4) = v → natOf ((x.body.drop 4).take 1) = 0 → (peerAt s.dev n).acked ≠ v →
        ∃ t, exec (.ackReceive n) s = .next t ∧ t.pending = s.pending ∧ t.dev.fab.inq = [] ∧ (peerAt t.dev n).acked = v ∧
          (∀ e, e ∈ t.dev.fab.store ↔ e ∈ s.dev.fab.store ∧ ¬ (e.dst = n ∧ before32 e.msg.dseq v = true)) ∧
          RegsKept (fun _ => False) s.dev t.dev ∧ MemKept (fun _ => False) s.dev t.dev) ∧
      (∃ t, exec (.ackSend n) s = .next t ∧ t.pending = s.pending ∧ t.dev.fab.store = s.dev.fab.store ∧
        (peerAt s.dev n ≠ peer0 n → n ≠ myNode s.dev → n ∉ s.dev.fab.lost → (peerAt t.dev n).got = 0) ∧
        (peerAt t.dev n).rxNext = (peerAt s.dev n).rxNext ∧ RegsKept (fun _ => False) s.dev t.dev ∧ MemKept (fun _ => False) s.dev t.dev) ∧
      (∀ m : Sent, s.dev.fab.store = [m] → m.dst = n → s.dev.fab.asks = [] → m.q = 0x20000 →
        ∃ t, exec (.resendTimeout n) s = .next t ∧ t.pending = s.pending ∧ t.dev.fab.store = [m] ∧
          (peerAt s.dev n).since + 480000 ≤ mono t.dev ∧ (peerAt t.dev n).since = mono t.dev ∧
          RegsKept (fun _ => False) s.dev t.dev ∧ MemKept (fun _ => False) s.dev t.dev))

/-- R336, R337, R343, R351, R357: a COLL or COLL_BATCH of a group not formed here answers GROUP_CHANGED detail 3, one that names an epoch
not in force detail 1; a BARRIER of a group whose one slot is this package ends at once with OK and takes the group's next number; an
instance that has passed its closing exchange answers OK with the elements written, a batch with its entries. R121, R122, R332, R371: ZG64
blocks of one shared exponent sum to the same block in any order and grouping, and their header flags are joined. -/
def Obligations.CollectivesEnd : Prop :=
  (∀ (s : State) (q seq : Nat) (f : Flight) (c : Instr) (op : Nat), Formed s.dev → c = .coll q seq ∧ op = 0x60 ∨ c = .collBatch q seq ∧ op = 0x62 →
      Served s.dev op q seq f →
      (findColl s.dev q seq = none → findGrp s.dev (pbytes f.head 14 2 % 4096) = none →
        exec c s = .next (s.on (finish q seq 0x0B 0x0003 0 s.dev))) ∧
      (∀ g, findColl s.dev q seq = none → findGrp s.dev (pbytes f.head 14 2 % 4096) = some g → pbytes f.head 16 2 ≠ g.epoch →
        pbytes f.head 16 2 ≠ g.epoch + 1 → f.prog ≠ 7 → exec c s = .next (s.on (finish q seq 0x0B 0x0001 0 s.dev))) ∧
      (∀ g, op = 0x60 → s.dev.colls.insts = [] → s.dev.colls.rx = [] → s.dev.colls.ended = [] → s.dev.flights = [f] →
        findGrp s.dev (pbytes f.head 14 2 % 4096) = some g → pbytes f.head 16 2 = g.epoch → pbytes f.head 10 1 = 4 →
        pbytes f.head 21 1 = 0 → pbytes f.head 24 4 = 0 → g.base = myNode s.dev → g.span = 0 → g.absent = [] →
        g.mixed = true ∨ (rg s.dev mTouchmark).toNat = g.tm →
        ∃ t, exec c s = .next t ∧ t.pending = s.pending ∧ (findFlight t.dev q seq).map Flight.stage = some (.done 0 0 0) ∧
          rf t.dev (fGroupTab g.idx 4) 0 32 = (g.cseq + 1) % 2 ^ 32 ∧ t.dev.colls.insts = [] ∧
          RegsKept (· = fGroupTab g.idx 4) s.dev t.dev ∧ MemKept (fun _ => False) s.dev t.dev) ∧
      (∀ g i, findColl s.dev q seq = some i → i.phase = 6 → i.werr = false → s.dev.colls.rx = [] →
        findGrp s.dev (pbytes f.head 14 2 % 4096) = some g → i.grp = pbytes f.head 14 2 % 4096 → (descOf s.dev f g.size).afmt ≠ 0xC →
        ∃ t, exec c s = .next t ∧ t.pending = s.pending ∧
          findFlight t.dev q seq = some (f.finish 0 0 (if op = 0x62 then (descOf s.dev f g.size).ents.length else i.count)) ∧
          findColl t.dev q seq = none ∧ RegsKept (fun _ => False) s.dev t.dev ∧ MemKept (fun _ => False) s.dev t.dev)) ∧
  (∀ (rop g ha hb hc : Nat) (A B C : List Nat), g < 255 → ha < 16 → hb < 16 → hc < 16 → A.length = 256 → B.length = 256 → C.length = 256 →
      let blk : Nat → List Nat → List Byte := fun h l => bytesOf 64 (g + 256 * h) ++ l.flatMap (bytesOf 8)
      addUnit 0xC rop (blk ha A) (blk hb B) = blk (ha ||| hb) ((A.zip B).map fun p => (p.1 % 2 ^ 64 + p.2 % 2 ^ 64) % 2 ^ 64) ∧
      addUnit 0xC rop (blk ha A) (blk hb B) = addUnit 0xC rop (blk hb B) (blk ha A) ∧
      addUnit 0xC rop (addUnit 0xC rop (blk ha A) (blk hb B)) (blk hc C) =
        addUnit 0xC rop (blk ha A) (addUnit 0xC rop (blk hb B) (blk hc C)))

/-- R353, R356, R357: a stage message of an instance not yet issued here is taken into the pool where there is room, one of an instance
that has ended is dropped, one without room waits; a notice ends its instance with the status and node it names; a member that still waits
for the reduce phase at its deadline tick answers GROUP_LATE with its own node. R336, R337: a FORM whose one live slot is this package
makes a valid table entry with epoch 1 and answers OK with count 1; a FORM of an identifier in use, or a REFORM of one not formed, answers
GROUP_CHANGED detail 3; DISSOLVE clears the entry; at the timeout the lowest live slot not heard from is named with UNREACHABLE. A FORM
message from a member is kept until this package compares it. -/
def Obligations.CollectiveEvents : Prop :=
  (∀ (s : State), Formed s.dev →
      (∀ (n : Nat) (m : Msg) (g : Grp), s.dev.fab.inbox = [(n, m)] → m.op = 0x10 ∨ m.op = 0x11 ∨ m.op = 0x12 ∨ m.op = 0x13 ∨ m.op = 0x16 →
        findGrp s.dev (mGrp m) = some g → (∀ i ∈ s.dev.colls.insts, i.owns m = false) →
        (stagedBytes s.dev + m.data.length ≤ poolBytes s.dev → mEpoch m = g.epoch → g.cseq ≤ mCseq m →
          exec (.collStageMessage n) s = .next (s.on { s.dev with
            fab := { s.dev.fab with inbox := [] }, colls := { s.dev.colls with rx := s.dev.colls.rx ++ [(n, m)] } })) ∧
        (stagedBytes s.dev + m.data.length ≤ poolBytes s.dev → mEpoch m < g.epoch ∨ mEpoch m = g.epoch ∧ mCseq m < g.cseq →
          exec (.collStageMessage n) s = .next (s.on { s.dev with fab := { s.dev.fab with inbox := [] } })) ∧
        (poolBytes s.dev < stagedBytes s.dev + m.data.length → exec (.collStageMessage n) s = .next s)) ∧
      (∀ (n : Nat) (m : Msg) (g : Grp) (i : Coll) (f : Flight), s.dev.fab.inbox = [(n, m)] → m.op = 0x14 → s.dev.colls.rx = [] →
        s.dev.colls.insts = [i] → i.owns m = true → findGrp s.dev (mGrp m) = some g → findFlight s.dev i.q i.seq = some f →
        ∃ t, exec (.collNotice n) s = .next t ∧ t.pending = s.pending ∧ t.dev.colls.insts = [] ∧
          findFlight t.dev i.q i.seq = some (f.finish (natOf (m.data.take 1)) (natOf ((m.data.drop 2).take 2)) (failCount i f)) ∧
          RegsKept (fun _ => False) s.dev t.dev ∧ MemKept (fun _ => False) s.dev t.dev) ∧
      (∀ (g : Grp) (i : Coll) (f : Flight) (dl : Nat), s.dev.colls.insts = [i] → i.dl = some dl → i.phase = 1 → dl ≤ frameNum s.dev →
        s.dev.clk.mode ≠ .waiting → findGrp s.dev i.grp = some g → findFlight s.dev i.q i.seq = some f → i.grp < 4096 → i.cseq < 2 ^ 32 →
        ∃ t, exec (.collDeadline i.grp i.cseq) s = .next t ∧ t.pending = s.pending ∧ t.dev.colls.insts = [] ∧
          (findFlight t.dev i.q i.seq).map Flight.stage = some (.done 0x0C (myNode s.dev) (failCount i f)) ∧
          (rb s.dev fCollErr 56 = false → rf t.dev fCollErr 0 8 = 0x0C ∧ rf t.dev fCollErr 8 12 = i.grp ∧ rb t.dev fCollErr 56 = true) ∧
          RegsKept (· = fCollErr) s.dev t.dev ∧ MemKept (fun _ => False) s.dev t.dev)) ∧
  ((∀ (s : State) (q seq : Nat) (f : Flight), Formed s.dev → Served s.dev 0x61 q seq f →
      let id := pbytes f.head 12 2 % 4096
      let g : Grp := formGrp s.dev f.head 0 0 0
      (f.prog = 0 → pbytes f.head 10 1 = 0 → s.dev.flights = [f] → s.dev.colls.insts = [] → ∀ e, findGrp s.dev id = none →
        findUp (fun e => !(grpAt s.dev e).valid) 64 0 = some e → g.lives = [myNode s.dev] →
        ∃ t, exec (.collReform q seq) s = .next t ∧ t.pending = s.pending ∧
          (findFlight t.dev q seq).map Flight.stage = some (.done 0 0 1) ∧
          (grpAt t.dev e).valid = true ∧ (grpAt t.dev e).id = id ∧ (grpAt t.dev e).epoch = 1 ∧ (grpAt t.dev e).base = g.base ∧
          (grpAt t.dev e).span = g.span ∧ (grpAt t.dev e).mixed = g.mixed ∧
          RegsKept (fun o => ∃ k, k < 5 ∧ o = fGroupTab e k) s.dev t.dev ∧ MemKept (fun _ => False) s.dev t.dev) ∧
      (∀ h, f.prog = 0 → pbytes f.head 10 1 = 0 → findGrp s.dev id = some h →
        exec (.collReform q seq) s = .next (s.on (finish q seq 0x0B 0x0003 0 s.dev))) ∧
      (f.prog = 0 → pbytes f.head 10 1 = 1 → findGrp s.dev id = none →
        exec (.collReform q seq) s = .next (s.on (finish q seq 0x0B 0x0003 0 s.dev))) ∧
      (∀ h, f.prog = 0 → pbytes f.head 10 1 = 2 → findGrp s.dev id = some h → s.dev.colls.insts = [] → h.idx < 64 →
        ∃ t, exec (.collReform q seq) s = .next t ∧ t.pending = s.pending ∧ findFlight t.dev q seq = some (f.finish 0 0 0) ∧
          (grpAt t.dev h.idx).valid = false ∧ RegsKept (fun o => ∃ k, k < 5 ∧ o = fGroupTab h.idx k) s.dev t.dev ∧
          MemKept (fun _ => False) s.dev t.dev) ∧
      (∀ n, f.prog = 1 → s.dev.colls.forms = [] → n ∈ g.lives → n ≠ myNode s.dev → n ≤ 0xFFFF →
        (∀ m ∈ g.lives, m ≠ myNode s.dev → n ≤ m) →
        exec (.reformTimeout q seq) s = .next (s.on (finish q seq 0x06 n 0 (passMono (f.aux + 24000 * pbytes f.head 40 4) s.dev))))) ∧
    (∀ (s : State) (n : Nat) (m : Msg), Formed s.dev → s.dev.fab.inbox = [(n, m)] → m.op = 0x15 → natOf (m.data.take 1) = 0 →
      s.dev.colls.forms = [] →
      exec (.formMessage n) s = .next (s.on { s.dev with
        fab := { s.dev.fab with inbox := [] }, colls := { s.dev.colls with forms := [(n, m.data)] } })))

/-- R383, R384, R385 to R387, R231, R285, R25, R26, R29, R405: what a fault records: its class, unit and subunit, whether it is contained,
one more in the count, its interrupt. A tile fault fences its tile: commands not on the Anvil engine leave it. A pseudo-channel is
retrained, and is good again or failed. A core stops. A far port is marked failed. The switch moves to its other plane, once. The lost
references set their bits; a lost 100 MHz reference, an A-die that is not contained, and a silent P-die ask for tether mode. -/
def Obligations.FaultsRecorded : Prop :=
  ∀ (s : State), Formed s.dev → running s.dev = true → s.dev.tetherReq = none → inTether s.dev = false → s.dev.colls.insts = [] →
    let recs : Instr → Nat → Nat → Nat → Bool → (Dev → Prop) → (Nat → Prop) → Prop := fun c cls unit sub cont P R =>
      ∃ t, exec c s = .next t ∧ t.pending = s.pending ∧ rf t.dev mFaultStat 0 4 = cls ∧ rf t.dev mFaultStat 8 8 = unit ∧
        rf t.dev mFaultStat 16 8 = sub ∧ rb t.dev mFaultStat 24 = cont ∧ rb t.dev mFaultStat 25 = true ∧
        rf t.dev mFaultStat 26 16 = Nat.min 0xFFFF (rf s.dev mFaultStat 26 16 + 1) ∧
        (rf s.dev mFaultStat 42 10 ≠ 0 → rf s.dev mFaultStat 42 10 ∈ t.dev.plic) ∧
        t.dev.led.next = (s.dev.led.next + 1) % 2 ^ 32 ∧ (cont = false → t.dev.tetherReq = some cls) ∧ P t.dev ∧
        RegsKept (fun o => o = mFaultStat ∨ R o) s.dev t.dev ∧ MemKept (fun _ => False) s.dev t.dev
    let none' : Nat → Prop := fun _ => False
    (∀ a l, a < 8 → l < 8 → tileGone s.dev (8 * a + l) = false →
      recs (.tileFault a l) 5 (8 * a + l) (physTile s.dev (8 * a + l)) true (fun d => tileGone d (8 * a + l) = true ∧
        rb d (aTileStat a) (9 + physTile s.dev (8 * a + l)) = true ∧
        ∀ f, f ∈ d.flights ↔ f ∈ s.dev.flights ∧ ¬ (qTile f.q = 8 * a + l ∧ survivesFence f = false)) (· = aTileStat a)) ∧
    (∀ st pc, st < 16 → pc < 32 → retired s.dev st = false → (stackAt s.dev st).parked = false → pcState s.dev st pc = 0 →
      recs (.pseudoChannelFault st pc) 4 st pc true (fun d => pcState d st pc = 1 ∧ retraining d = true) none') ∧
    (∀ st pc, st < 16 → pcState s.dev st pc = 1 →
      (∃ t, exec (.pseudoChannelRetrainDone st pc true) s = .next t ∧ t.pending = s.pending ∧ pcState t.dev st pc = 0 ∧
        RegsKept none' s.dev t.dev ∧ MemKept none' s.dev t.dev) ∧
      ∃ t, exec (.pseudoChannelRetrainDone st pc false) s = .next t ∧ t.pending = s.pending ∧ pcState t.dev st pc = 2 ∧
        RegsKept none' s.dev t.dev ∧ MemKept none' s.dev t.dev) ∧
    (∀ k, k < 32 → rb s.dev pCoreStat k = true → rb s.dev pCoreStat (32 + k) = false →
      recs (.coreFault k) 6 k 0xFF true (fun d => rb d pCoreStat (32 + k) = true ∧ (hartAt d k).pend = none ∧ hartFree d k = false)
        (· = pCoreStat)) ∧
    (s.dev.planeBad = false → s.dev.plane < 2 → recs .switchPlaneFault 3 s.dev.plane 0xFF true (fun d => d.plane = 1 - s.dev.plane ∧ d.planeBad = true) none') ∧
    (s.dev.planeBad = true → s.dev.plane < 2 → recs .switchPlaneFault 3 s.dev.plane 0xFF false (fun _ => True) none') ∧
    (∀ i, i < 4 → rb s.dev mFarStat i = true →
      recs (.farTierPortFail i) 7 i 0xFF true (fun d => rb d mFarStat i = false ∧ rb d mFarStat (4 + i) = true) (· = mFarStat)) ∧
    (∀ i cap, i < 4 → cap < 4096 → ∃ t, exec (.farTierPortUp i cap) s = .next t ∧ t.pending = s.pending ∧ rb t.dev mFarStat i = true ∧
      rf t.dev mFarStat (8 + 12 * i) 12 = cap ∧ RegsKept (· = mFarStat) s.dev t.dev ∧ MemKept none' s.dev t.dev) ∧
    (∀ a, a < 8 → recs (.aDieUncontainedFault a) 0xC a 0xFF false (fun _ => True) none') ∧
    (bits s.dev.bridle.refsLost 0 1 = 0 → recs .clk100Lost 0xA 0 0xFF false (fun d => rb d mStatus 0 = true) (· = mStatus)) ∧
    (bits s.dev.bridle.refsLost 1 1 = 0 → recs .clk156Lost 0xA 1 0xFF true (fun d => rb d mStatus 1 = true) (· = mStatus)) ∧
    (∀ c, ∃ t, exec (.referenceClockReturn c) s = .next t ∧ t.pending = s.pending ∧ bits t.dev.bridle.refsLost (if c then 1 else 0) 1 = 0 ∧
      RegsKept none' s.dev t.dev ∧ MemKept none' s.dev t.dev) ∧
    (myelesAlive s.dev = true →
      exec .pdieHeartbeat s = .next (s.on { s.dev with pdieBeat := s.dev.clk.cyc + 1 })) ∧
    (s.dev.pdieBeat = 0 → exec .pdieHeartbeatLost s = .next s) ∧
    (s.dev.pdieBeat ≠ 0 → rf s.dev mFlashOwn 0 2 ≠ 1 →
      recs .pdieHeartbeatLost 9 0xFF 0xFF false (fun d => rf d mFlashOwn 0 2 = 1 ∧ s.dev.pdieBeat + 599999 ≤ d.clk.cyc ∧
        rb d mTether 7 = true) (fun o => o = mFlashOwn ∨ o = mTether)) ∧
    (∀ by', by' ≠ Agent.job → recs (.tetherRequest by') 0xE 0xFF 0xFF false (fun _ => True) none') ∧
    exec (.tetherRequest .job) s = .next s

/-- R396 to R398: enough suspicions, or the node's own report, declare a node lost; the declaration empties what waits for it, lists it
with its boot count, and makes it unreachable; one of this package's own number leads to tether mode. Without evidence, or where the node
is lost already, nothing happens. R391 to R394: the partner's pairing record is shown; its touchmark equal to this package's, or both
allowing mixed, pairs the packages, else they are mismatched. Ten seconds after the wipe a package without a partner is UNPAIRED and says
so. -/
def Obligations.NodeLostAndPairing : Prop :=
  (∀ (s : State) (n links : Nat), Formed s.dev → running s.dev = true → n < 2 ^ 14 →
      (brEnable s.dev = true → s.dev.clk.mode = .pod → n ∉ s.dev.fab.lost →
        (evidence s.dev n links = true → exec (.nodeLostDeclare n links) s =
          .next (s.on { s.dev with loss := { s.dev.loss with declared := insUp n s.dev.loss.declared } })) ∧
        (evidence s.dev n links = false → exec (.nodeLostDeclare n links) s = .next s)) ∧
      (2 ≤ (s.dev.loss.suspects.filter fun e => e.1 == n).length → evidence s.dev n links = true) ∧
      (n ∈ s.dev.fab.lost → n ≠ myNode s.dev → exec (.nodeLostAction n) s = .next s ∧ exec (.nodeLostDeclare n links) s = .next s) ∧
      (∀ e, n ∉ s.dev.fab.lost → n ≠ myNode s.dev → n ≠ twinNode s.dev → s.dev.flights = [] → s.dev.fab.asks = [] → s.dev.fab.mcout = [] →
        findUp (fun k => !rb s.dev (fLostTab k 0) 15) 64 0 = some e →
        ∃ t, exec (.nodeLostAction n) s = .next t ∧ t.pending = s.pending ∧ n ∈ t.dev.fab.lost ∧ (∀ m ∈ t.dev.fab.store, m.dst ≠ n) ∧
          (∀ m ∈ s.dev.fab.store, m.dst ≠ n → m ∈ t.dev.fab.store) ∧ (∀ m ∈ t.dev.fab.inbox, m.1 ≠ n) ∧
          rf t.dev (fLostTab e 0) 0 14 = n ∧ rb t.dev (fLostTab e 0) 15 = true ∧
          rf t.dev (fLostTab e 0) 32 32 = tabGet (fun _ => 0) s.dev.bridle.peerBoots n % 2 ^ 32 ∧ rf t.dev mFaultStat 0 4 = 8 ∧
          rb t.dev mFaultStat 24 = true ∧
          RegsKept (fun o => o = mFaultStat ∨ o = fLostTab e 0 ∨ o = fLostTab e 1) s.dev t.dev ∧ MemKept (fun _ => False) s.dev t.dev) ∧
      (n = myNode s.dev → inTether s.dev = false → s.dev.tetherReq = none →
        ∃ t, exec (.nodeLostAction n) s = .next t ∧ t.pending = s.pending ∧ t.dev.tetherReq = some 0xD ∧ rf t.dev mFaultStat 0 4 = 0xD ∧
          rb t.dev mFaultStat 24 = false)) ∧
  (∀ (s : State) (r : PairRec), Formed s.dev → running s.dev = true → findIngot s.dev replicaOwner = none →
      (∀ src, src ≠ twinNode s.dev → exec (.pairingRecord src r) s = .next s) ∧
      (twinNode s.dev < 2 ^ 14 → r.node = twinNode s.dev → twinNode s.dev ∉ s.dev.fab.lost → rb s.dev mTwinStat 3 = true →
        rf s.dev mLifecycle 0 3 ≠ 3 → r.tm < 2 ^ 32 → r.held < 2 ^ 64 →
        ∃ t, exec (.pairingRecord (twinNode s.dev) r) s = .next t ∧ t.pending = s.pending ∧ rf t.dev mTwinStat 18 32 = r.tm ∧
          rf t.dev mTwinStat 4 14 = twinNode s.dev ∧ (rg t.dev mTwinMine).toNat = r.held ∧ t.dev.twin.accepts = r.replicaEn ∧
          t.dev.twin.rsize = r.rsize ∧
          (r.tm = (rg s.dev mTouchmark).toNat ∨ r.mixed = true ∧ rb s.dev mTwinCfg 0 = true → twinState t.dev = 2) ∧
          (r.tm ≠ (rg s.dev mTouchmark).toNat → r.mixed = false ∨ rb s.dev mTwinCfg 0 = false → twinState t.dev = 4) ∧
          RegsKept (fun o => o = mTwinStat ∨ o = mTwinMine) s.dev t.dev ∧ MemKept (fun _ => False) s.dev t.dev) ∧
      (1 < twinState s.dev → exec .unpairedTimeout s = .next s) ∧
      (twinState s.dev ≤ 1 → ∃ t, exec .unpairedTimeout s = .next t ∧ t.pending = s.pending ∧ twinState t.dev = 3 ∧
        rb t.dev mFaultStat 25 = true ∧ s.dev.wipedAt + 6000000000 ≤ t.dev.clk.cyc ∧
        RegsKept (fun o => o = mTwinStat ∨ o = mFaultStat) s.dev t.dev ∧ MemKept (fun _ => False) s.dev t.dev))

/-- R403, R404: a launch record of a later epoch is kept and sent on to the children of its place; with no children it is acknowledged to
its parent at once, and at the root the launch is complete. A record no later than the one kept is acknowledged again and not kept. An
acknowledgement takes its child off; the last completes it. A rebroadcast waits for the deadline. -/
def Obligations.Launch : Prop :=
  ∀ (s : State) (src : Nat) (r : LaunchRec), Formed s.dev → running s.dev = true → src ∉ s.dev.fab.lost →
    (s.dev.launch.last = none → 0 < r.epoch → r.ack = false →
      ∃ t, exec (.launchRecord src r) s = .next t ∧ t.pending = s.pending ∧ t.dev.launch.last = some r ∧
        t.dev.launch.waiting = (launchKids s.dev (launchGrp s.dev r) 32 r.place r.left).map (·.1) ∧
        (∀ k ∈ launchKids s.dev (launchGrp s.dev r) 32 r.place r.left,
          (k.1, { r with place := k.2.1, left := k.2.2 }) ∈ t.dev.launch.sent) ∧
        (t.dev.launch.waiting = [] → src ≠ myNode s.dev → (src, launchAck r) ∈ t.dev.launch.sent) ∧
        (t.dev.launch.complete = true ↔ t.dev.launch.waiting = [] ∧ src = myNode s.dev) ∧
        RegsKept (fun _ => False) s.dev t.dev ∧ MemKept (fun _ => False) s.dev t.dev) ∧
    (∀ x, s.dev.launch.last = some x → r.epoch ≤ x.epoch → r.ack = false → src ≠ myNode s.dev → s.dev.launch.waiting = [] →
      ∃ t, exec (.launchRecord src r) s = .next t ∧ t.pending = s.pending ∧ t.dev.launch.last = some x ∧
        (src, launchAck x) ∈ t.dev.launch.sent ∧ RegsKept (fun _ => False) s.dev t.dev ∧ MemKept (fun _ => False) s.dev t.dev) ∧
    (∀ x, s.dev.launch.last = some x → r.epoch = x.epoch → r.ack = true → x.place = myNode s.dev → x.left = x.span →
      s.dev.launch.parents = [] →
      ∃ t, exec (.launchRecord src r) s = .next t ∧ t.pending = s.pending ∧
        t.dev.launch.waiting = s.dev.launch.waiting.filter (fun k => k != src) ∧
        (t.dev.launch.waiting = [] → t.dev.launch.complete = true)) ∧
    (∀ x l, s.dev.launch.last = some x → frameNum s.dev < x.deadline → exec (.launchRebroadcast l) s = .next s) ∧
    (∀ x l, s.dev.launch.last = some x → x.deadline ≤ frameNum s.dev → s.dev.launch.complete = false → s.dev.launch.waiting ≠ [] →
      x.place = myNode s.dev → x.left = x.span →
      ∃ t, exec (.launchRebroadcast l) s = .next t ∧ t.pending = s.pending ∧
        t.dev.launch.last = some { x with out := l, deadline := frameNum s.dev + 3 })

/-- R414, R417, R418: a SHARD_SAVE to stacked memory of this package whose granules are all drained writes the table, then the header,
then the seal, and answers OK with the bytes it wrote; its sessions close. One whose ingot has failed answers that status with the count
so far. One that begins unseals the destination and opens its sessions; one whose descriptors it may not read is refused. R280: a staged
granule of an ingot of this package drains to its place: every byte of it that belongs to an extent's row is written, as it was taken, at
the row's offset; its slot comes free. A slot that holds nothing: nothing changes. -/
def Obligations.IngotSaved : Prop :=
  (∀ (s : State) (q seq : Nat) (f : Flight), Formed s.dev → Served s.dev 0x70 q seq f →
      (∀ g st det, f.prog = 1 → findIngot s.dev (cmdId q seq) = some g → g.fail = some (st, det) →
        exec (.shardSave q seq) s =
          .next (s.on (finish q seq st det (Nat.min 0xFFFFFFFF g.bytes) (dropIngot (cmdId q seq) s.dev)))) ∧
      (∀ g, f.prog = 1 → findIngot s.dev (cmdId q seq) = some g → g.owner = cmdId q seq → g.fail = none → g.dkind = 0 →
        g.node = myNode s.dev → g.stage = 2 → ingotDrained s.dev (cmdId q seq) = true →
        (∀ x ∈ ingotSessions s.dev (cmdId q seq), x.2.2.badG = []) → (∀ a, (trackerAt s.dev a).held = []) →
        (∀ b ∈ g.exts, b.length = 128) → NoHolds s.dev → GoodLines s.dev →
        (∀ e ∈ g.ext, ∀ ix ∈ e.rows, e.rowAddr ix + e.rowLen e.last ≤ g.dst ∨ g.dst + g.length ≤ e.rowAddr ix) →
        ∃ t, exec (.shardSave q seq) s = .next t ∧ t.pending = s.pending ∧
          findFlight t.dev q seq = some (f.finish 0 0 (Nat.min 0xFFFFFFFF g.bytes)) ∧ findIngot t.dev (cmdId q seq) = none ∧
          ingotSessions t.dev (cmdId q seq) = [] ∧
          ldBytes t.dev g.dst 80 = g.header s.dev ∧ ldBytes t.dev (g.dst + 80) 8 = ((g.header s.dev).drop 48).take 8 ∧
          ldBytes t.dev (g.dst + 4096) (g.dataAt - 4096) = g.table s.dev ∧
          RegsKept (fun o => ∃ a, a < 8 ∧ o = aCbwStat a) s.dev t.dev ∧
          MemKept (fun a => g.dst ≤ a ∧ a < g.dst + g.length) s.dev t.dev) ∧
      (∀ st det, f.prog = 0 →
        badRange s.dev false (bits (pbytes f.head 32 6) 0 48) (128 * pbytes f.head 12 2) = some (st, det) →
        exec (.shardSave q seq) s = .next (s.on (finish q seq st det 0 s.dev))) ∧
      (∀ exts dst, exts ≠ [] → s.dev.weak = [] → f.prog = 0 → s.dev.ingots = [] → pbytes f.head 10 1 = 0 → pbits f.head 11 1 1 = 0 →
        readTable s.dev (bits (pbytes f.head 32 6) 0 48) (pbytes f.head 12 2) = .inr exts →
        (∀ b ∈ exts, (extOf b).ok s.dev false = true) → gNode (pbytes f.head 40 8) = myNode s.dev → gOff (pbytes f.head 40 8) = dst →
        farBase ≤ dst →
        (∀ g : Ingot, g.exts = exts → badRange s.dev true dst g.length = none) → GoodLines s.dev → NoHolds s.dev →
        s.dev.trackers = [] →
        ∃ t, exec (.shardSave q seq) s = .next t ∧ t.pending = s.pending ∧
          findFlight t.dev q seq = some { f with prog := 1 } ∧
          (∃ g, findIngot t.dev (cmdId q seq) = some g ∧ g.exts = exts ∧ g.dst = dst ∧ g.stage = 2 ∧ g.job = pbytes f.head 24 8 ∧
            g.step = pbytes f.head 16 8) ∧
          (∀ a lo hi, a < 8 → granuleRange (exts.map extOf) a = some (lo, hi) →
            (trackerAt t.dev a).s0 = some ⟨cmdId q seq, lo, hi, s.dev.clk.cyc, [], [], [], [], []⟩) ∧
          ldBytes t.dev (dst + 80) 8 = bytesOf 8 0 ∧
          RegsKept (fun o => ∃ a, a < 8 ∧ o = aCbwStat a) s.dev t.dev ∧ MemKept (fun a => dst + 80 ≤ a ∧ a < dst + 88) s.dev t.dev)) ∧
  (∀ (s : State) (a slot gr : Nat) (x : Session) (g : Ingot), Formed s.dev → a < 8 → slot < 64 →
      ((∀ k y, sessionOf s.dev a k = some y → ∀ e ∈ y.slots, e.1 ≠ slot) → exec (.stagingSlotFree a slot) s = .next s) ∧
      (trackerAt s.dev a = ⟨some x, none, []⟩ → x.slots = [(slot, gr)] → x.badLines = [] → findIngot s.dev x.owner = some g →
        g.owner = x.owner → g.fail = none → g.dkind = 0 → g.node = myNode s.dev → g.stage = 2 → (∀ i, mustHold s.dev (g.dst + i) = false) → GoodLines s.dev →
        0 < leftOf (some x) → x.badG = [] → (∀ b, b ≠ a → trackerAt s.dev b = tracker0 b) →
        let ps := granulePieces g (a * stackSpan + gr * 0x40000) (a * stackSpan + gr * 0x40000 + 0x40000)
        ps.Pairwise (fun p r => p.1 + p.2.2 ≤ r.1 ∨ r.1 + r.2.2 ≤ p.1) →
        ∃ t, exec (.stagingSlotFree a slot) s = .next t ∧ t.pending = s.pending ∧
          trackerAt t.dev a = ⟨some { x with slots := [] }, none, []⟩ ∧
          (∀ p ∈ ps, ∀ i, i < p.2.2 → byteAt t.dev (g.dst + p.1 + i) = tabGet memRest x.snapBytes (p.2.1 + i)) ∧
          (findIngot t.dev x.owner).map Ingot.bytes = some (ps.foldl (fun n p => n + p.2.2) g.bytes) ∧
          RegsKept (· = aCbwStat a) s.dev t.dev ∧
          MemKept (fun b => ∃ p ∈ ps, g.dst + p.1 ≤ b ∧ b < g.dst + p.1 + p.2.2) s.dev t.dev))

/-- R419 to R422: reading an ingot of this package: an unsealed one answers INTEGRITY detail 1, another job's or step's or no ingot detail
2, one whose header and table have not the digest in its header detail 3, each with count 0. SHARD_VERIFY answers OK with its length where
every extent has its digest, and detail 4 with the offset of the first that has not. SHARD_LOAD of another touchmark, unless it is told to
ignore it, answers TOUCHMARK_MISMATCH; else it writes every element its selections share with an extent to the selection's place, and
answers OK with the bytes written. -/
def Obligations.IngotRead : Prop :=
  ∀ (s : State) (q seq : Nat) (f : Flight) (c : Instr) (src job step : Nat) (es : List Ext), Formed s.dev → f.stop = 0 → f.prog = 0 →
    f.mark = [] → f.buf = [] → f.aux = 0 → s.dev.weak = [] → GoodLines s.dev → NoHolds s.dev →
    gNode (pbytes f.head 16 8) = myNode s.dev → gOff (pbytes f.head 16 8) = src → pbytes f.head 24 8 = job → pbytes f.head 32 8 = step →
    let B : Nat → Nat → List Byte := fun o n => ldBytes s.dev (src + o) n
    let here : Nat → Nat → Prop := fun o n => ∀ b ∈ blocksOf o n, badRange s.dev false (src + 4096 * b) 4096 = none
    let n := natOf (B 6 2)
    let sealed := B 80 8 = B 48 8 ∧ natOf (B 48 8) ≠ 0
    let named := natOf (B 0 4) = 0x47495A48 ∧ natOf (B 4 2) = 1 ∧ natOf (B 8 8) = job ∧ natOf (B 16 8) = step
    let whole := shake256 32 (B 0 48 ++ B 4096 (128 * n)) = B 48 32
    let ends : Nat → Nat → Nat → (Nat → Prop) → Prop := fun st det k M =>
      ∃ t, exec c s = .next t ∧ t.pending = s.pending ∧ (findFlight t.dev q seq).map Flight.stage = some (.done st det k) ∧
        RegsKept (fun _ => False) s.dev t.dev ∧ MemKept M s.dev t.dev
    let none' : Nat → Prop := fun _ => False
    here 0 4096 → here 4096 (128 * n) → es = (upto n).map (fun i => extOf (B (4096 + 128 * i) 128)) →
    (c = .shardVerify q seq → Served s.dev 0x72 q seq f → bits (pbytes f.head 40 6) 0 48 = 0 →
      (¬ sealed → ends 0x09 1 0 none') ∧ (sealed → ¬ named → ends 0x09 2 0 none') ∧ (sealed → named → ¬ whole → ends 0x09 3 0 none') ∧
      (sealed → named → whole → (∀ e ∈ es, here e.ioff e.ilen) →
        ((∀ e ∈ es, shake256 32 (B e.ioff e.ilen) = e.digest) → ends 0 0 (Nat.min 0xFFFFFFFF (natOf (B 40 8))) none') ∧
        (∀ pre e post, es = pre ++ e :: post → (∀ x ∈ pre, shake256 32 (B x.ioff x.ilen) = x.digest) →
          shake256 32 (B e.ioff e.ilen) ≠ e.digest → ends 0x09 4 (Nat.min 0xFFFFFFFF e.ioff) none'))) ∧
    (∀ bs, c = .shardLoad q seq → Served s.dev 0x71 q seq f → bits (pbytes f.head 46 6) 0 48 = 0 →
      readTable s.dev (bits (pbytes f.head 40 6) 0 48) (pbytes f.head 12 2) = .inr bs →
      (∀ b ∈ bs, (extOf b).ok s.dev true = true) →
      (¬ sealed → ends 0x09 1 0 none') ∧ (sealed → ¬ named → ends 0x09 2 0 none') ∧ (sealed → named → ¬ whole → ends 0x09 3 0 none') ∧
      (sealed → named → whole → pbits f.head 11 0 1 = 0 → natOf (B 24 4) ≠ (rg s.dev mTouchmark).toNat → ends 0x0F 0 0 none') ∧
      (sealed → named → whole → pbits f.head 11 0 1 = 1 ∨ natOf (B 24 4) = (rg s.dev mTouchmark).toNat →
        (∀ x ∈ bs, ∀ e ∈ es, e.tensor = (extOf x).tensor → e.fmt = (extOf x).fmt ∧ e.ndim = (extOf x).ndim ∧ e.gshape = (extOf x).gshape) →
        (∀ e ∈ es, shake256 32 (B e.ioff e.ilen) = e.digest ∧ here e.ioff e.ilen) →
        let rows := es.flatMap fun e => bs.flatMap fun x => match meet e (extOf x) with
          | some (lo, size) => meetRows e (extOf x) lo size
          | none => []
        rows.Pairwise (fun p r => p.2.1 + p.2.2 ≤ r.2.1 ∨ r.2.1 + r.2.2 ≤ p.2.1) →
        (∀ p ∈ rows, ∀ e ∈ es, ∀ b ∈ blocksOf e.ioff e.ilen,
          p.2.1 + p.2.2 ≤ src + 4096 * b ∨ src + 4096 * b + 4096 ≤ p.2.1) →
        (∀ e ∈ es, ∀ x ∈ bs, ∀ lo size, meet e (extOf x) = some (lo, size) → ∀ p ∈ meetRows e (extOf x) lo size,
          e.ioff ≤ p.1 ∧ p.1 + p.2.2 ≤ e.ioff + e.ilen) →
        ∃ t, exec c s = .next t ∧ t.pending = s.pending ∧
          (findFlight t.dev q seq).map Flight.stage = some (.done 0 0 (Nat.min 0xFFFFFFFF (rows.foldl (fun k p => k + p.2.2) 0))) ∧
          (∀ p ∈ rows, ldBytes t.dev p.2.1 p.2.2 = B p.1 p.2.2) ∧
          RegsKept (fun _ => False) s.dev t.dev ∧ MemKept (fun a => ∃ p ∈ rows, p.2.1 ≤ a ∧ a < p.2.1 + p.2.2) s.dev t.dev))

/-- R426 to R430, R395: REPLICA_CTL op 1 arms, op 2 disarms, op 3 cancels the open session, ABORTED detail 1, whose status shows; op 0 is
refused where the twin is not PAIRED (UNREACHABLE) or its region does not hold the ingot (NOT_PERMITTED detail 10), or waits. At an armed
frame a session that finds one open is counted as skipped. A complete replica becomes the newest the holder has. -/
def Obligations.Replicas : Prop :=
  ∀ (s : State) (q seq : Nat) (f : Flight), Formed s.dev →
    (Served s.dev 0x73 q seq f → f.prog = 0 →
      (pbytes f.head 10 1 = 2 → exec (.replicaCtl q seq) s =
        .next (s.on (finish q seq 0 0 0 (showRepl { s.dev with twin := { s.dev.twin with arm := none } })))) ∧
      (pbytes f.head 10 1 = 3 → findIngot s.dev replicaOwner = none → exec (.replicaCtl q seq) s = .next (s.on (finish q seq 0 0 0 s.dev))) ∧
      (∀ g, pbytes f.head 10 1 = 3 → s.dev.ingots = [g] → g.owner = replicaOwner → s.dev.twin.opener = none →
        (∀ a, (trackerAt s.dev a).held = []) →
        ∃ t, exec (.replicaCtl q seq) s = .next t ∧ t.pending = s.pending ∧ findFlight t.dev q seq = some (f.finish 0 0 0) ∧
          t.dev.ingots = [] ∧ rf t.dev mReplStat 2 8 = 0x02 ∧ rb t.dev mReplStat 1 = false ∧
          (rf s.dev mReplStat 26 10 ≠ 0 → rf s.dev mReplStat 26 10 ∈ t.dev.plic) ∧
          RegsKept (fun o => o = mReplStat ∨ ∃ a, a < 8 ∧ o = aCbwStat a) s.dev t.dev ∧ MemKept (fun _ => False) s.dev t.dev) ∧
      (∀ exts, s.dev.weak = [] → readTable s.dev (bits (pbytes f.head 32 6) 0 48) (pbytes f.head 12 2) = .inr exts →
        (∀ b ∈ exts, (extOf b).ok s.dev false = true) →
        (pbytes f.head 10 1 = 1 → ∃ t, exec (.replicaCtl q seq) s = .next t ∧ t.pending = s.pending ∧
          findFlight t.dev q seq = some (f.finish 0 0 0) ∧ rb t.dev mReplStat 0 = true ∧
          t.dev.twin.arm = some ⟨pbytes f.head 40 8, pbytes f.head 48 4, pbytes f.head 16 8, pbytes f.head 24 8, pkClass f.head, exts⟩ ∧
          RegsKept (· = mReplStat) s.dev t.dev ∧ MemKept (fun _ => False) s.dev t.dev) ∧
        (∀ st det, pbytes f.head 10 1 = 0 →
          replicaRefusal s.dev (replicaIngot s.dev (pkClass f.head) (pbytes f.head 16 8) (pbytes f.head 24 8) exts) = some (st, det) →
          exec (.replicaCtl q seq) s = .next (s.on (finish q seq st det 0 s.dev))) ∧
        (pbytes f.head 10 1 = 0 → pbits f.head 11 0 1 = 0 →
          replicaRefusal s.dev (replicaIngot s.dev (pkClass f.head) (pbytes f.head 16 8) (pbytes f.head 24 8) exts) = none →
          (findIngot s.dev replicaOwner).isSome = true → exec (.replicaCtl q seq) s = .next s))) ∧
    (s.dev.twin.arm = none → exec .replicaSessionOpen s = .next s) ∧
    (∀ a g, s.dev.twin.arm = some a → findIngot s.dev replicaOwner = some g → running s.dev = true → inTether s.dev = false →
      s.dev.clk.mode ≠ .waiting → a.first ≤ frameNum s.dev → 0 < a.every → (frameNum s.dev - a.first) % a.every = 0 →
      s.dev.twin.lastFrame ≠ some (frameNum s.dev) →
      ∃ t, exec .replicaSessionOpen s = .next t ∧ t.pending = s.pending ∧ t.dev.ingots = s.dev.ingots ∧
        t.dev.twin.lastFrame = some (frameNum s.dev) ∧ rf t.dev mReplStat 10 16 = Nat.min 0xFFFF (rf s.dev mReplStat 10 16 + 1) ∧
        RegsKept (· = mReplStat) s.dev t.dev ∧ MemKept (fun _ => False) s.dev t.dev) ∧
    (∀ src a, src = twinNode s.dev → src ≠ myNode s.dev → a = replicaBase s.dev (heldGen s.dev) → rb s.dev mTwinStat 51 = true →
      (ld s.dev (a + 80) 8 = ld s.dev (a + 48) 8 → ld s.dev (a + 48) 8 ≠ 0 → ld s.dev a 4 = 0x47495A48 → ld s.dev (a + 28) 1 = 1 →
        ∃ t, exec (.replicaComplete src) s = .next t ∧ t.pending = s.pending ∧ (rg t.dev mTwinHeld).toNat = ld s.dev (a + 16) 8 ∧
          rg t.dev mTwinPrev = rg s.dev mTwinHeld ∧ rf t.dev mTwinStat 50 1 = heldGen s.dev ∧ rb t.dev mTwinStat 51 = false ∧
          RegsKept (fun o => o = mTwinHeld ∨ o = mTwinPrev ∨ o = mTwinStat) s.dev t.dev ∧ MemKept (fun _ => False) s.dev t.dev) ∧
      (ld s.dev (a + 80) 8 ≠ ld s.dev (a + 48) 8 → exec (.replicaComplete src) s = .next s))

/-- R530: an MREAD of one register word writes what it reads to the buffer and answers OK with 8; an MWRITE of one word writes it and
answers OK with 8, and NOT_PERMITTED detail 8, the field kept, where that would change a field locked by CFG_COMMIT; an address in no
populated region stops either with NOT_PERMITTED detail 2, and a buffer that may not be touched before anything is accessed. R477, R474,
R457: CFG_COMMIT LOCK locks the RWL fields; STORE writes the configuration registers into the copy with the lower store number, which then
is valid and carries the higher number, every other byte of flash kept; it waits while another owns the flash. -/
def Obligations.ManagementReads : Prop :=
  (∀ (s : State) (q seq : Nat) (f : Flight) (off b : Nat), Formed s.dev → running s.dev = true → mgmtJob s.dev q seq = none →
      pbytes f.head 16 6 = ctrlBase + off → pbytes f.head 24 6 = b → NoHolds s.dev → GoodLines s.dev → s.dev.weak = [] → off < pRegionOff →
      (∀ c st det, Served s.dev 0x80 q seq f ∧ c = Instr.mread q seq ∨ Served s.dev 0x81 q seq f ∧ c = Instr.mwrite q seq →
        badRange s.dev false b (pbytes f.head 32 4) = some (st, det) → exec c s = .next (s.on (finish q seq st det 0 s.dev))) ∧
      (badRange s.dev false b (pbytes f.head 32 4) = none →
        (Served s.dev 0x80 q seq f →
          (inBlock off = true → pbytes f.head 32 4 = 8 → ∃ t, exec (.mread q seq) s = .next t ∧ t.pending = s.pending ∧
            findFlight t.dev q seq = some (f.finish 0 0 8) ∧ ldBytes t.dev b 8 = bytesOf 8 (regNow s.dev off) ∧
            RegsKept (fun _ => False) s.dev t.dev ∧ MemKept (fun x => b ≤ x ∧ x < b + 8) s.dev t.dev) ∧
          (ctrlRead off s.dev = none → 8 ≤ pbytes f.head 32 4 →
            exec (.mread q seq) s = .next (s.on (finish q seq 0x0E 0x0002 0 s.dev)))) ∧
        (Served s.dev 0x81 q seq f →
          (∀ v, pbytes f.head 32 4 = 8 → off = fNodeCfg ∨ off = fChord ∨ off = mTwinCfg ∨ off = mFarCfg ∨ off = mNumCfg →
            BitVec.ofNat 64 (ld s.dev b 8) = v →
            let same := (wordWrite ((regFields off).getD []) true true .nothing (rg s.dev off) v).2 = false
            (rb s.dev mStatus 5 = false → ∃ t, exec (.mwrite q seq) s = .next t ∧ t.pending = s.pending ∧
              findFlight t.dev q seq = some (f.finish 0 0 8) ∧ (∀ x ∈ (regFields off).getD [], rf t.dev off x.lo x.n = wbits v x.lo x.n) ∧
              RegsKept (· = off) s.dev t.dev ∧ MemKept (fun _ => False) s.dev t.dev) ∧
            (rb s.dev mStatus 5 = true → same → exec (.mwrite q seq) s = .next (s.on (finish q seq 0 0 8 s.dev))) ∧
            (rb s.dev mStatus 5 = true → ¬ same → exec (.mwrite q seq) s = .next (s.on (finish q seq 0x0E 0x0008 8 s.dev)))) ∧
          (ctrlWrite off (BitVec.ofNat 64 (ld s.dev b 8)) .mgmtQueue s.dev = none → 8 ≤ pbytes f.head 32 4 →
            exec (.mwrite q seq) s = .next (s.on (finish q seq 0x0E 0x0002 0 s.dev)))))) ∧
  (∀ (s : State) (q seq : Nat) (f : Flight) (op : Nat), Formed s.dev → Served s.dev 0x82 q seq f → pbytes f.head 10 1 = op →
      (op = 0 → exec (.cfgCommit q seq) s = .next (s.on (finish q seq 0 0 0 (setB s.dev mStatus 5 true)))) ∧
      (op ≠ 0 → rf s.dev mFlashOwn 0 2 ≠ 0 → exec (.cfgCommit q seq) s = .next s) ∧
      (op = 1 ∨ op = 2 → rf s.dev mFlashOwn 0 2 = 0 → (∀ p, p < 18 → rf s.dev (fPortCtl p) 22 3 = 0) →
        (∀ j, j < 2 → cfgN s.dev j 8 8 < 2 ^ 64 - 1) →
        ∃ t i, exec (.cfgCommit q seq) s = .next t ∧ t.pending = s.pending ∧ findFlight t.dev q seq = some (f.finish 0 0 912) ∧
          i < 2 ∧ cfgValid t.dev i = true ∧ (∀ j, j < 2 → cfgValid s.dev j = true → cfgN s.dev j 8 8 < cfgN t.dev i 8 8) ∧
          (∀ k o, cfgRegs[k]? = some o →
            cfgN t.dev i (64 + 16 * k) 6 = o ∧ cfgN t.dev i (72 + 16 * k) 8 = (rg s.dev o).toNat) ∧
          (∀ a, a < cfgBase i ∨ cfgBase i + 912 ≤ a → flashBytes t.dev a 1 = flashBytes s.dev a 1) ∧
          rb t.dev mStatus 5 = (rb s.dev mStatus 5 || op == 2) ∧ RegsKept (· = mStatus) s.dev t.dev ∧ MemKept (fun _ => False) s.dev t.dev))

/-- R517, R518, R525: through BAR 2 of an endpoint port whose link is up the host reads and writes stacked memory; through BAR 0 an
aligned word of the control window, a register reading as it does; a write to a range that is not there is dropped and logged in its port.
In recovery, BAR 0 of port 0 takes the image. A port whose link is down takes nothing. R520: a management datagram whose packet,
signature, serial or nonce fails is dropped; one that may be performed puts its packet, numbered for its slot, at the tail of a running
management queue, and its nonce counts from then on. -/
def Obligations.OutsideAccesses : Prop :=
  (∀ (s : State) (p off : Nat) (bs : List Byte), Formed s.dev → p < 2 → 0 < bs.length →
      (rb s.dev (pPcieStat p) 1 = false → ∀ x, exec (.inboundAccess p x) s = .next s) ∧
      (rb s.dev (pPcieStat p) 1 = true → rb s.dev (pPcieStat p) 0 = false → running s.dev = true → NoHolds s.dev → GoodLines s.dev →
        s.dev.weak = [] →
        (∀ n, 0 < n → off + n ≤ 512 * gib → badRange s.dev false off n = none →
          exec (.inboundAccess p ⟨some 2, off, n, none⟩) s = .next (s.on { s.dev with hostRead := some (ldBytes s.dev off n) })) ∧
        (off + bs.length ≤ 512 * gib → badRange s.dev true off bs.length = none →
          ∃ t, exec (.inboundAccess p ⟨some 2, off, 0, some bs⟩) s = .next t ∧ t.pending = s.pending ∧
            ldBytes t.dev off bs.length = bs ∧ RegsKept (fun _ => False) s.dev t.dev ∧
            MemKept (fun a => off ≤ a ∧ a < off + bs.length) s.dev t.dev) ∧
        (512 * gib < off + bs.length ∨ (badRange s.dev true off bs.length).isSome = true →
          exec (.inboundAccess p ⟨some 2, off, 0, some bs⟩) s = .next (s.on (setB s.dev (pPcieStat p) 11 true))) ∧
        (off % 8 = 0 → inBlock off = true →
          exec (.inboundAccess p ⟨some 0, off, 8, none⟩) s = .next (s.on { s.dev with hostRead := some (bytesOf 8 (regNow s.dev off)) })) ∧
        (off % 8 ≠ 0 → off + bs.length ≤ pRegionOff →
          exec (.inboundAccess p ⟨some 0, off, 0, some bs⟩) s = .next (s.on (setB s.dev (pPcieStat p) 11 true)))) ∧
      (s.dev.phase = .recovery → rb s.dev (pPcieStat 0) 1 = true → off + bs.length ≤ slotSize →
        ∃ t, exec (.inboundAccess 0 ⟨some 0, off, 0, some bs⟩) s = .next t ∧ t.pending = s.pending ∧
          (∀ i, i < bs.length → tabGet memRest t.dev.firm.window (off + i) = bs.getD i 0) ∧
          RegsKept (fun _ => False) s.dev t.dev ∧ MemKept (fun _ => False) s.dev t.dev)) ∧
  (∀ (s : State) (port q : Nat) (bs : List Byte) (p : Packet), Formed s.dev → running s.dev = true → port < 2 →
      p = BitVec.ofNat 512 (natOf ((bs.drop 20).take 64)) →
      (mgmtOk s.dev bs = false ∨ pkClass p ≠ 3 ∨ pkMore p = true ∨ mgmtQueueOf s.dev = none →
        exec (.mgmtDatagram port bs) s = .next s) ∧
      (mgmtOk s.dev bs = true → pkClass p = 3 → pkMore p = false → mgmtQueueOf s.dev = some q → tileAbsent s.dev (qTile q) = false →
        NoHolds s.dev → inTether s.dev = false →
        qLog s.dev q < 16 → ∀ i k : Nat, slotAddr s.dev q (qTail s.dev q) = i → qTail s.dev q = k →
        ∃ t, exec (.mgmtDatagram port bs) s = .next t ∧ t.pending = s.pending ∧ qTail t.dev q = seqAdd k 1 ∧ qHead t.dev q = qHead s.dev q ∧
          ldBytes t.dev i 64 = bytesOf 64 (putBits p.toNat 16 16 k) ∧
          t.dev.firm.nonce = some (natOf ((bs.drop 12).take 8)) ∧
          t.dev.mgmtJobs = s.dev.mgmtJobs ++ [⟨port, q, k, bs.take 20, (bs.drop 88).take (natOf ((bs.drop 84).take 2)), []⟩] ∧
          RegsKept (· = qPtr q) s.dev t.dev ∧ MemKept (fun x => i ≤ x ∧ x < i + 64) s.dev t.dev))

/-- R485 to R501: a COUNTER_SAMPLE takes nothing where sampling is off; else it stages one set, the next in number. TRACE_DRAIN writes a
staged record to its ring, or counts it lost where the ring is full and does not wrap. TRACE_MARK answers OK with count 0, and stages a
mark where its tile is traced. -/
def Obligations.CountersAndTraces : Prop :=
  ∀ (s : State), Formed s.dev → running s.dev = true →
    (ef s.dev mCntSamp 25 1 = 0 → exec .counterSample s = .next s) ∧
    (ef s.dev mCntSamp 25 1 = 1 → ef s.dev mCntSamp 16 1 = 0 → 0 < ef s.dev mCntSamp 0 16 → s.dev.trc.gap = none → s.dev.trc.staged = [] →
      ∃ t bs, exec .counterSample s = .next t ∧ t.pending = s.pending ∧ t.dev.trc.staged = [(true, bs)] ∧
        bs.length = 64 + 128 * (sampledEids s.dev).length ∧ natOf (bs.take 8) = podNs t.dev % 2 ^ 64 ∧
        natOf ((bs.drop 24).take 2) = (sampledEids s.dev).length % 65536 ∧
        natOf ((bs.drop 28).take 4) = (rg s.dev mTouchmark).toNat % 2 ^ 32 ∧ natOf ((bs.drop 32).take 8) = s.dev.trc.sseq % 2 ^ 64 ∧
        t.dev.trc.sseq = s.dev.trc.sseq + 1 ∧ RegsKept (fun _ => False) s.dev t.dev ∧ MemKept (fun _ => False) s.dev t.dev) ∧
    (rb s.dev mTrcCfg 40 = false → exec .traceDrain s = .next s) ∧
    (∀ bs : List Byte, rb s.dev mTrcCfg 40 = true → s.dev.trc.gap = none → s.dev.trc.staged = [(false, bs)] → bs.length = 64 →
      let a := unitAddr s.dev false (rf s.dev mTrcEPtr 0 28)
      let used := (rf s.dev mTrcEPtr 0 28 + 2 ^ 28 - rf s.dev mTrcEPtr 28 28) % 2 ^ 28
      (rb s.dev mTrcCfg 38 = true ∨ used < 2 ^ rf s.dev mTrcCfg 28 5 → writeErr s.dev a 64 = none → mustHold s.dev a = false →
        ∃ t, exec .traceDrain s = .next t ∧ t.pending = s.pending ∧ t.dev.trc.staged = [] ∧ ldBytes t.dev a 64 = bs ∧
          rf t.dev mTrcEPtr 0 28 = (rf s.dev mTrcEPtr 0 28 + 1) % 2 ^ 28 ∧ RegsKept (· = mTrcEPtr) s.dev t.dev ∧
          MemKept (fun x => a ≤ x ∧ x < a + 64) s.dev t.dev) ∧
      (rb s.dev mTrcCfg 38 = false → 2 ^ rf s.dev mTrcCfg 28 5 ≤ used →
        ∃ t, exec .traceDrain s = .next t ∧ t.pending = s.pending ∧ t.dev.trc.staged = [] ∧
          rf t.dev mTrcEPtr 56 8 = Nat.min 0xFF (rf s.dev mTrcEPtr 56 8 + 1) ∧ RegsKept (· = mTrcEPtr) s.dev t.dev ∧
          MemKept (fun _ => False) s.dev t.dev)) ∧
    (∀ q seq f, Served s.dev 0xF0 q seq f →
      (rb s.dev mTrcEvt 11 = false ∨ ef s.dev mCntTiles (qTile q) 1 = 0 →
        exec (.traceMark q seq) s = .next (s.on (finish q seq 0 0 0 s.dev))) ∧
      (rb s.dev mTrcEvt 11 = true → ef s.dev mCntTiles (qTile q) 1 = 1 → s.dev.trc.gap = none → s.dev.trc.staged = [] →
        ∃ t bs, exec (.traceMark q seq) s = .next t ∧ t.pending = s.pending ∧ findFlight t.dev q seq = some (f.finish 0 0 0) ∧
          t.dev.trc.staged = [(false, bs)] ∧ bs.length = 64 ∧ natOf (bs.take 8) = podNs s.dev % 2 ^ 64 ∧ bs.getD 8 0 = 3 ∧
          (bs.drop 48).take 16 = bytesOf 16 (pbytes f.head 16 16) ∧ RegsKept (fun _ => False) s.dev t.dev ∧
          MemKept (fun _ => False) s.dev t.dev))

/-- R270 to R272, R431 to R437, R444, R452 to R455: a SENSOR_SAMPLE reads its sensor at its interval; a far optical temperature does no
more than that; a stack's raises its stage at once where it is 10 degrees above the notice. FAST_GUARD stops issue and reports. A
SENSOR_RECORD writes one reading to the ring, or counts it lost. -/
def Obligations.Sensors : Prop :=
  ∀ (s : State), Formed s.dev → running s.dev = true →
    (∀ i v, sensEvery i = 0 → exec (.sensorSample i v) s = .next s) ∧
    (∀ i (v : Word), 438 ≤ i → i < 444 → (sensAt s.dev i).time = 0 →
      ∃ t, exec (.sensorSample i v) s = .next t ∧ t.pending = s.pending ∧
        sensAt t.dev i = ⟨podNs s.dev, v.toNat % 2 ^ 32, !locked s.dev⟩ ∧ (∀ k, k ≠ i → sensAt t.dev k = sensAt s.dev k) ∧
        RegsKept (fun _ => False) s.dev t.dev ∧ MemKept (fun _ => False) s.dev t.dev) ∧
    (∀ i (v : Word), 0 < sensEvery i → 436 ≤ i → (sensAt s.dev i).time ≠ 0 → (sensAt s.dev i).time ≤ podNs s.dev →
      ∃ t, exec (.sensorSample i v) s = .next t ∧ t.pending = s.pending ∧ (sensAt t.dev i).value = v.toNat % 2 ^ 32 ∧
        (sensAt s.dev i).time + 1000 * sensEvery i ≤ (sensAt t.dev i).time) ∧
    (∀ st (v : Word), st < 16 → (sensAt s.dev (256 + st)).time = 0 → (stackAt s.dev st).parked = false → retired s.dev st = false →
      rf s.dev (aStackTherm st) 8 2 = 0 → v.toNat = 90000 → rf s.dev mMemIrq 10 10 ≠ 0 →
      ∃ t, exec (.sensorSample (256 + st) v) s = .next t ∧ t.pending = s.pending ∧ rf t.dev (aStackTherm st) 0 8 = 90 ∧
        rf t.dev (aStackTherm st) 8 2 = 1 ∧ rb t.dev (aStackTherm st) 13 = true ∧ rf s.dev mMemIrq 10 10 ∈ t.dev.plic ∧
        RegsKept (· = aStackTherm st) s.dev t.dev ∧ MemKept (fun _ => False) s.dev t.dev) ∧
    (s.dev.pwr.guard = true ∨ s.dev.pwr.overRun < 20 ∧ s.dev.pwr.overSince = none → exec .fastGuard s = .next s) ∧
    (s.dev.pwr.guard = false → 20 ≤ s.dev.pwr.overRun →
      ∃ t, exec .fastGuard s = .next t ∧ t.pending = s.pending ∧ t.dev.pwr.guard = true ∧ rb t.dev mPwrStat 35 = true ∧
        rf t.dev mOvrStat 1 3 = 5 ∧ rb t.dev mOvrStat 0 = true ∧ rg t.dev mOvrFrame = rg s.dev fFrameNum ∧
        (∀ a, issueHeld t.dev a = true) ∧
        RegsKept (fun o => o = mPwrStat ∨ o = mOvrStat ∨ o = mOvrFrame) s.dev t.dev ∧ MemKept (fun _ => False) s.dev t.dev) ∧
    (rb s.dev mSensRate 26 = false → exec .sensorRecord s = .next s) ∧
    (rb s.dev mSensRate 26 = true → rf s.dev mSensRate 16 10 = 128 →
      let k := rf s.dev mSensRing 48 5
      let a := rf s.dev mSensRing 6 42 * 64 + 16 * (rf s.dev mSensPtr 0 28 % 2 ^ k)
      let used := (rf s.dev mSensPtr 0 28 + 2 ^ 28 - rf s.dev mSensPtr 28 28) % 2 ^ 28
      (used + 4 ≤ 2 ^ k → k ≤ 26 → 2 ≤ k → GoodLines s.dev → rf s.dev mSensPtr 0 28 % 2 ^ k + 4 ≤ 2 ^ k →
        ∃ t, exec .sensorRecord s = .next t ∧ t.pending = s.pending ∧ rf t.dev mSensPtr 0 28 = (rf s.dev mSensPtr 0 28 + 4) % 2 ^ 28 ∧
          (∀ j, j < 4 → ldBytes t.dev (a + 16 * j) 16 = sensBytes t.dev (436 + j)) ∧
          tabGet (fun _ => 0) s.dev.pwr.recAt 7 + 1000 * Nat.max (rf s.dev mSensRate 0 16) 1 ≤ podNs t.dev ∧
          RegsKept (· = mSensPtr) s.dev t.dev ∧ MemKept (fun x => a ≤ x ∧ x < a + 64) s.dev t.dev))

/-- R434 to R436, R458, R462 to R464, R511 to R515, R61, R287: POWER_ON and a reset pulse of 10 µs or more begin the boot chain from
reset, flash and fuses kept; a shorter pulse than 1 µs does nothing. BOOT runs a trial slot that passes its checks, else the other, else
enters recovery, one more boot counted. The end of the wipe starts running. POWER_FAIL turns everything off; without power nothing
happens. -/
def Obligations.PowerAndBoot : Prop :=
  ∀ (s : State), Formed s.dev →
    let fresh : State → Phase → Prop := fun t ph => t.pending = s.pending ∧ t.dev.phase = ph ∧ t.dev.flights = [] ∧ t.dev.mem = [] ∧
      t.dev.plic = [] ∧ (∀ k, fuse t.dev k = fuse s.dev k) ∧ (∀ o, o ≠ mPwrStat → rg t.dev o = regReset o)
    (s.dev.phase = .off →
      (∀ p, ∃ t, exec (.powerOn p) s = .next t ∧ fresh t (if p.testHold then .testHold else .rom) ∧ rb t.dev mPwrStat 0 = true ∧
        t.dev.firm.pins = p ∧ t.dev.flash = s.dev.flash) ∧
      exec .powerFail s = .next s ∧ (∀ n p, exec (.packageReset n p) s = .next s) ∧ (∀ c, exec (.tapInstruction c) s = .next s)) ∧
    (s.dev.phase ≠ .off →
      (∀ p, exec (.powerOn p) s = .next s) ∧
      (∀ n p, n < 1000 → exec (.packageReset n p) s = .next s) ∧
      (∀ n p, 10000 ≤ n → ∃ t, exec (.packageReset n p) s = .next t ∧ fresh t (if p.testHold then .testHold else .rom) ∧
        rb t.dev mPwrStat 0 = true ∧ t.dev.flash = s.dev.flash) ∧
      (∃ t, exec .powerFail s = .next t ∧ fresh t .off ∧ rg t.dev mPwrStat = regReset mPwrStat)) ∧
    (s.dev.phase = .testHold → exec .testHoldRelease s = .next (s.on { s.dev with phase := .rom })) ∧
    (s.dev.phase ≠ .testHold → exec .testHoldRelease s = .next s) ∧
    (s.dev.phase = .wiping → ∃ t, exec .stackWipeDone s = .next t ∧ t.pending = s.pending ∧ t.dev.phase = .running ∧
      t.dev.clk.podT = 0 ∧ RegsKept (fun _ => False) s.dev t.dev ∧ MemKept (fun _ => False) s.dev t.dev) ∧
    (s.dev.phase ≠ .rom → exec .boot s = .next s) ∧
    (s.dev.phase = .rom → s.dev.firm.trial = none → s.dev.firm.preferred < 2 →
      ∃ t, exec .boot s = .next t ∧ t.pending = s.pending ∧ t.dev.firm.boots = s.dev.firm.boots + 1 ∧ t.dev.firm.trial = none ∧
        (rg t.dev mSerial).toNat = Config.serial % 2 ^ 64 ∧
        (slotOk s.dev s.dev.firm.preferred = true → t.dev.phase = .wiping ∧ runSlot t.dev = s.dev.firm.preferred ∧
          rb t.dev mFwStat 3 = false ∧ rb t.dev mFwStat 4 = false) ∧
        (slotOk s.dev s.dev.firm.preferred = false → slotOk s.dev (1 - s.dev.firm.preferred) = true →
          t.dev.phase = .wiping ∧ runSlot t.dev = 1 - s.dev.firm.preferred ∧ rb t.dev mFwStat 4 = true) ∧
        (slotOk s.dev s.dev.firm.preferred = false → slotOk s.dev (1 - s.dev.firm.preferred) = false →
          t.dev.phase = .recovery ∧ rb t.dev mStatus 4 = true)) ∧
    (s.dev.phase = .wiping ∨ running s.dev = true → s.dev.pdieBeat = 0 → ∃ t, exec .bootWatchdog s = .next t ∧
      fresh t (if s.dev.firm.pins.testHold then .testHold else .rom)) ∧
    (s.dev.pdieBeat ≠ 0 → exec .bootWatchdog s = .next s) ∧
    (s.dev.phase = .recovery → rf s.dev pRecovery 28 2 ≠ 1 →
      let get (a n : Nat) : List Byte := (upto n).map fun i => if a + i < slotSize then tabGet memRest s.dev.firm.window (a + i) else 0
      (imageOk s.dev get = false ∨ rf s.dev pRecovery 0 28 < natOf (get 12 4) →
        exec .recoveryGo s = .next (s.on (setF s.dev pRecovery 28 2 2))) ∧
      (imageOk s.dev get = true → natOf (get 12 4) ≤ rf s.dev pRecovery 0 28 →
        ∃ t, exec .recoveryGo s = .next t ∧ fresh t (if s.dev.firm.pins.testHold then .testHold else .rom) ∧ t.dev.firm.preferred = 0 ∧
          ∀ i, i < rf s.dev pRecovery 0 28 → i < slotSize → flashBytes t.dev i 1 = get i 1)) ∧
    (s.dev.phase ≠ .recovery → exec .recoveryGo s = .next s) ∧
    (running s.dev = true → inTether s.dev = false → s.dev.tetherReq = none →
      exec (.orderlyPowerDown .job) s = .next s ∧
      ∃ t, exec (.orderlyPowerDown .myeles) s = .next t ∧ t.pending = s.pending ∧ t.dev.firm.after = 2 ∧ t.dev.tetherReq = some 0xE ∧
        RegsKept (· = mFaultStat) s.dev t.dev)

/-- R465 to R467, R478, R479, R473, R471: operations of M_FWCTL by a job do nothing; during a live switch or a slot write they answer 5;
ARM_TRIAL and LIVE of a slot that fails its checks answer 1; CONFIRM outside a trial answers 6, in one makes the running slot preferred;
CANCEL_TRIAL ends a trial; BURN blows the counter up to the running image's number or answers why not. AUTH_GO of a request it may not
read, or that no key may sign, says so. SLOT_WRITE puts bytes in the other slot. -/
def Obligations.FirmwareUpdate : Prop :=
  ∀ (s : State), Formed s.dev → running s.dev = true →
    (∀ c, c ∈ [Instr.armTrial .job, .confirm .job, .cancelTrial .job, .burn .job, .live .job, .authGo .job] → exec c s = .next s) ∧
    (∀ by' c, by' ≠ Agent.job → c ∈ [Instr.armTrial by', .confirm by', .cancelTrial by', .burn by', .live by'] →
      rb s.dev mFwStat 5 = true ∨ rb s.dev mFwStat 6 = true → exec c s = .next (s.on (setFerr 5 s.dev))) ∧
    (∀ by', by' ≠ Agent.job → rb s.dev mFwStat 5 = false → rb s.dev mFwStat 6 = false →
      (slotOk s.dev (otherSlot s.dev) = false → exec (.armTrial by') s = .next (s.on (setFerr 1 s.dev)) ∧
        exec (.live by') s = .next (s.on (setFerr 1 s.dev))) ∧
      (slotOk s.dev (otherSlot s.dev) = true →
        (∃ t, exec (.armTrial by') s = .next t ∧ t.pending = s.pending ∧ t.dev.firm.trial = some (otherSlot s.dev) ∧
          rf t.dev mFwStat 48 4 = 0 ∧ rb t.dev mFwStat 2 = true ∧ RegsKept (· = mFwStat) s.dev t.dev) ∧
        (rf s.dev mFwStat 40 8 ≠ rf s.dev mFwStat 24 8 → exec (.live by') s = .next (s.on (setFerr 2 s.dev))) ∧
        (rf s.dev mFwStat 40 8 = rf s.dev mFwStat 24 8 → ∃ t, exec (.live by') s = .next t ∧ t.pending = s.pending ∧
          rb t.dev mFwStat 5 = true ∧ t.dev.firm.live = some 0 ∧ RegsKept (· = mFwStat) s.dev t.dev)) ∧
      (rb s.dev mFwStat 3 = false → exec (.confirm by') s = .next (s.on (setFerr 6 s.dev))) ∧
      (rb s.dev mFwStat 3 = true → ∃ t, exec (.confirm by') s = .next t ∧ t.pending = s.pending ∧ t.dev.firm.preferred = runSlot s.dev ∧
        rb t.dev mFwStat 3 = false ∧ rf t.dev mFwStat 48 4 = 0 ∧ RegsKept (· = mFwStat) s.dev t.dev) ∧
      (∃ t, exec (.cancelTrial by') s = .next t ∧ t.pending = s.pending ∧ t.dev.firm.trial = none ∧ rb t.dev mFwStat 2 = false ∧
        rf t.dev mFwStat 48 4 = 0 ∧ RegsKept (· = mFwStat) s.dev t.dev) ∧
      (rf s.dev mFwStat 32 8 = 0xFF ∨ rf s.dev mFwStat 32 8 < rf s.dev mFwStat 8 8 →
        exec (.burn by') s = .next (s.on (setFerr 3 s.dev))) ∧
      (rf s.dev mFwStat 32 8 ≠ 0xFF → rf s.dev mFwStat 8 8 ≤ rf s.dev mFwStat 32 8 → svnCount s.dev < rf s.dev mFwStat 8 8 →
        ∃ t, exec (.burn by') s = .next t ∧ t.pending = s.pending ∧ RegsKept (· = mFwStat) s.dev t.dev ∧
          (rf t.dev mFwStat 48 4 = 0 ∧ fuse t.dev 7 = (fuse s.dev 7 ||| (2 ^ rf s.dev mFwStat 8 8 - 1)) ∨
            rf t.dev mFwStat 48 4 = 4 ∧ fuse t.dev 7 = fuse s.dev 7)) ∧
      (∀ a, rf s.dev mAuthCtl 0 48 = a → a % 64 ≠ 0 ∨ inStacks s.dev a 1344 = false →
        exec (.authGo by') s = .next (s.on (setF s.dev mAuthStat 0 4 3))) ∧
      (∀ a, rf s.dev mAuthCtl 0 48 = a → a % 64 = 0 → inStacks s.dev a 1344 = true → readErr s.dev a 1344 = none → s.dev.weak = [] →
        signerKey s.dev (natOf (((ldBytes s.dev a 1344).drop 5).take 1)) = none →
        exec (.authGo by') s = .next (s.on (setF s.dev mAuthStat 0 4 7)))) ∧
    (rf s.dev mFlashOwn 0 2 = 1 → exec .fdieControllerRestart s = .next s ∧ ∀ a n o l, exec (.slotWrite a n o l) s = .next s) ∧
    (rf s.dev mFlashOwn 0 2 ≠ 1 → s.dev.firm.live = some 0 →
      exec .fdieControllerRestart s = .next (s.on (modFirm (fun f => { f with live := some 1 }) s.dev))) ∧
    (∀ a n o l, s.dev.weak = [] → rf s.dev mFlashOwn 0 2 ≠ 1 → rb s.dev mFwStat 5 = false → o + n ≤ slotSize → badRange s.dev false a n = none →
      readErr s.dev a n = none →
      ∃ t, exec (.slotWrite a n o l) s = .next t ∧ t.pending = s.pending ∧
        flashBytes t.dev (slotBase (otherSlot s.dev) + o) n = ldBytes s.dev a n ∧
        (∀ x, x < slotBase (otherSlot s.dev) + o ∨ slotBase (otherSlot s.dev) + o + n ≤ x → flashBytes t.dev x 1 = flashBytes s.dev x 1) ∧
        t.dev.firm.trial ≠ some (otherSlot s.dev) ∧ rb t.dev mFwStat 6 = !l ∧ RegsKept (· = mFwStat) s.dev t.dev ∧
        MemKept (fun _ => False) s.dev t.dev)

/-- R484, R515, R516, R521, R472: a ledger summary appends one record, a daily record one for each stack and port. A link that comes up or
goes down, and a PERST of an endpoint, show in its port's register. A TAP instruction: IDCODE holds the identity, an unused code acts as
BYPASS, a private one is refused where debug scope 8 is granted. -/
def Obligations.LedgerLinksTap : Prop :=
  ∀ (s : State), Formed s.dev → s.dev.phase ≠ .off →
    (running s.dev = true →
      (∃ t, exec .ledgerSummary s = .next t ∧ t.pending = s.pending ∧ t.dev.led.next = (s.dev.led.next + 1) % 2 ^ 32 ∧ t.dev.led.peakJ = 0 ∧
        t.dev.led.peakS = 0 ∧ flashBytes t.dev (ledgerBase + 64 * (s.dev.led.next % ledgerRecs)) 4 = bytesOf 4 s.dev.led.next ∧
        flashBytes t.dev (ledgerBase + 64 * (s.dev.led.next % ledgerRecs) + 4) 1 = [2] ∧
        (∀ x, x < ledgerBase + 64 * (s.dev.led.next % ledgerRecs) ∨ ledgerBase + 64 * (s.dev.led.next % ledgerRecs) + 64 ≤ x →
          flashBytes t.dev x 1 = flashBytes s.dev x 1) ∧ RegsKept (fun _ => False) s.dev t.dev ∧ MemKept (fun _ => False) s.dev t.dev) ∧
      (∃ t, exec .dailyLedgerRecord s = .next t ∧ t.pending = s.pending ∧ t.dev.led.next = (s.dev.led.next + 34) % 2 ^ 32 ∧
        t.dev.led.ce = [] ∧ t.dev.led.ue = [] ∧ t.dev.led.margin = [] ∧ RegsKept (fun _ => False) s.dev t.dev ∧
        MemKept (fun _ => False) s.dev t.dev)) ∧
    (∀ p, p < 2 →
      (∀ w r b, w < 32 → r < 8 → s.dev.phase ≠ .testHold → ∃ t, exec (.pcieLinkUp p w r b) s = .next t ∧ t.pending = s.pending ∧
        rb t.dev (pPcieStat p) 1 = true ∧ rf t.dev (pPcieStat p) 2 5 = w ∧ rf t.dev (pPcieStat p) 7 3 = r ∧ rb t.dev (pPcieStat p) 10 = b ∧
        rb t.dev (pPcieStat p) 0 = rb s.dev (pPcieStat p) 0 ∧ OnlyRegs s.dev t.dev ∧ RegsKept (· = pPcieStat p) s.dev t.dev) ∧
      (∃ t, exec (.pcieLinkDown p) s = .next t ∧ t.pending = s.pending ∧ rf t.dev (pPcieStat p) 1 10 = 0 ∧
        rb t.dev (pPcieStat p) 0 = rb s.dev (pPcieStat p) 0 ∧ OnlyRegs s.dev t.dev ∧ RegsKept (· = pPcieStat p) s.dev t.dev) ∧
      (rb s.dev (pPcieStat p) 0 = false → exec (.pciePerst p) s = .next (s.on (setF s.dev (pPcieStat p) 1 10 0))) ∧
      (rb s.dev (pPcieStat p) 0 = true → exec (.pciePerst p) s = .next s)) ∧
    (∃ t, exec (.tapInstruction 0x01) s = .next t ∧ t.pending = s.pending ∧ (rg t.dev tapIr).toNat = 1 ∧
      (rg t.dev tapDr).toNat = 0x016405AB + stepCode s.dev * 2 ^ 28 ∧ RegsKept (fun o => o = tapIr ∨ o = tapDr) s.dev t.dev) ∧
    (∀ c : BitVec 8, c.toNat = 0xFF ∨ 3 ≤ c.toNat ∧ c.toNat < 0x80 → exec (.tapInstruction c) s = .next (s.on (setRegN s.dev tapIr 0xFF))) ∧
    (∀ c : BitVec 8, 0x80 ≤ c.toNat → c.toNat ≤ 0xFE →
      (rb s.dev mLifecycle 8 = true → exec (.tapInstruction c) s = .refused .privateTap) ∧
      (rb s.dev mLifecycle 8 = false → exec (.tapInstruction c) s = .next (s.on (setRegN s.dev tapIr 0xFF))))
end

