-- ==== Sys2Proof/Laws/Bits.lean ====
section
/-!
SUPPORT. Laws/Bits.lean: reading a field of a word after a field was replaced.
-/
namespace Sys2Proof.Machine

theorem testBit_bits (w lo n i : Nat) : (bits w lo n).testBit i = (decide (i < n) && w.testBit (lo + i)) := by
  simp [bits, Nat.testBit_mod_two_pow, Nat.testBit_shiftRight]

theorem putBits_eq (w lo n v : Nat) :
    putBits w lo n v = 2 ^ lo * (2 ^ n * (w >>> (lo + n)) + v % 2 ^ n) + w % 2 ^ lo := by
  have h1 : w = 2 ^ lo * (w >>> lo) + w % 2 ^ lo := by rw [Nat.shiftRight_eq_div_pow]; exact (Nat.div_add_mod _ _).symm
  have h2 : w >>> lo = 2 ^ n * (w >>> (lo + n)) + bits w lo n := by
    rw [Nat.shiftRight_add, Nat.shiftRight_eq_div_pow (w >>> lo) n, bits]; exact (Nat.div_add_mod _ _).symm
  simp only [putBits, Nat.shiftLeft_eq]
  rw [h2, Nat.mul_add] at h1
  rw [Nat.mul_add, Nat.mul_comm (bits w lo n), Nat.mul_comm (v % 2 ^ n)]
  omega

/-- Bits of a word with one field replaced. -/
theorem testBit_putBits (w lo n v i : Nat) :
    (putBits w lo n v).testBit i = if lo ≤ i ∧ i < lo + n then v.testBit (i - lo) else w.testBit i := by
  rw [putBits_eq, Nat.testBit_two_pow_mul_add _ (Nat.mod_lt _ (Nat.two_pow_pos lo))]
  by_cases h : i < lo
  · have : ¬ (lo ≤ i ∧ i < lo + n) := by omega
    simp [h, this, Nat.testBit_mod_two_pow]
  · rw [if_neg h, Nat.testBit_two_pow_mul_add _ (Nat.mod_lt _ (Nat.two_pow_pos n))]
    by_cases h' : i - lo < n
    · have : lo ≤ i ∧ i < lo + n := by omega
      simp [h', this, Nat.testBit_mod_two_pow]
    · have : ¬ (lo ≤ i ∧ i < lo + n) := by omega
      have e : lo + n + (i - lo - n) = i := by omega
      simp [h', this, Nat.testBit_shiftRight, e]

theorem putBits_lt {w lo n v : Nat} (hw : w < 2 ^ 64) (h : lo + n ≤ 64) : putBits w lo n v < 2 ^ 64 := by
  apply Nat.lt_pow_two_of_testBit
  intro i hi
  rw [testBit_putBits, if_neg (by omega)]
  exact Nat.testBit_lt_two_pow (Nat.lt_of_lt_of_le hw (Nat.pow_le_pow_right (by decide) hi))

theorem wput_toNat {w : Word} {lo n v : Nat} (h : lo + n ≤ 64) : (wput w lo n v).toNat = putBits w.toNat lo n v := by
  simp only [wput, BitVec.toNat_ofNat]; exact Nat.mod_eq_of_lt (putBits_lt w.isLt h)

/-- A field just replaced reads as what was put there. -/
theorem wbits_wput_same {w : Word} {lo n v : Nat} (h : lo + n ≤ 64) : wbits (wput w lo n v) lo n = v % 2 ^ n := by
  rw [wbits, wput_toNat h]
  apply Nat.eq_of_testBit_eq; intro i
  rw [testBit_bits, testBit_putBits, Nat.testBit_mod_two_pow]
  by_cases hi : i < n
  · have : lo ≤ lo + i ∧ lo + i < lo + n := by omega
    simp [hi]
  · simp [hi]

/-- A field apart from the one replaced reads as before. -/
theorem wbits_wput_other {w : Word} {lo n v lo' n' : Nat} (h : lo + n ≤ 64) (hd : lo' + n' ≤ lo ∨ lo + n ≤ lo') :
    wbits (wput w lo n v) lo' n' = wbits w lo' n' := by
  rw [wbits, wput_toNat h, wbits]
  apply Nat.eq_of_testBit_eq; intro i
  rw [testBit_bits, testBit_bits, testBit_putBits]
  by_cases hi : i < n'
  · have : ¬ (lo ≤ lo' + i ∧ lo' + i < lo + n) := by omega
    simp [hi, this]
  · simp [hi]

theorem b2n_mod (b : Bool) : b2n b % 2 = b2n b := by cases b <;> rfl

theorem wbit_eq (w : Word) (i : Nat) : wbit w i = (wbits w i 1 == 1) := rfl

theorem bits_lt (w lo n : Nat) : bits w lo n < 2 ^ n := Nat.mod_lt _ (Nat.two_pow_pos n)

end Sys2Proof.Machine
end

