-- ==== Sys2Proof/Laws/State.lean ====
section
/-!
SUPPORT. Laws/State.lean: which field of the device each update changes: one lemma per update and field it leaves alone.
-/
namespace Sys2Proof.Machine

/-! setReg changes regs and no other field. -/

@[simp] theorem setReg_phase (d : Dev) (o : Nat) (v : Word) : (setReg d o v).phase = d.phase := rfl
@[simp] theorem setReg_clk (d : Dev) (o : Nat) (v : Word) : (setReg d o v).clk = d.clk := rfl
@[simp] theorem setReg_eff (d : Dev) (o : Nat) (v : Word) : (setReg d o v).eff = d.eff := rfl
@[simp] theorem setReg_mem (d : Dev) (o : Nat) (v : Word) : (setReg d o v).mem = d.mem := rfl
@[simp] theorem setReg_flash (d : Dev) (o : Nat) (v : Word) : (setReg d o v).flash = d.flash := rfl
@[simp] theorem setReg_bad (d : Dev) (o : Nat) (v : Word) : (setReg d o v).bad = d.bad := rfl
@[simp] theorem setReg_weak (d : Dev) (o : Nat) (v : Word) : (setReg d o v).weak = d.weak := rfl
@[simp] theorem setReg_plic (d : Dev) (o : Nat) (v : Word) : (setReg d o v).plic = d.plic := rfl
@[simp] theorem setReg_bridle (d : Dev) (o : Nat) (v : Word) : (setReg d o v).bridle = d.bridle := rfl
@[simp] theorem setReg_plans (d : Dev) (o : Nat) (v : Word) : (setReg d o v).plans = d.plans := rfl
@[simp] theorem setReg_queues (d : Dev) (o : Nat) (v : Word) : (setReg d o v).queues = d.queues := rfl
@[simp] theorem setReg_flights (d : Dev) (o : Nat) (v : Word) : (setReg d o v).flights = d.flights := rfl
@[simp] theorem setReg_reserved (d : Dev) (o : Nat) (v : Word) : (setReg d o v).reserved = d.reserved := rfl
@[simp] theorem setReg_rr (d : Dev) (o : Nat) (v : Word) : (setReg d o v).rr = d.rr := rfl
@[simp] theorem setReg_disabled (d : Dev) (o : Nat) (v : Word) : (setReg d o v).disabled = d.disabled := rfl
@[simp] theorem setReg_tiles (d : Dev) (o : Nat) (v : Word) : (setReg d o v).tiles = d.tiles := rfl
@[simp] theorem setReg_tables (d : Dev) (o : Nat) (v : Word) : (setReg d o v).tables = d.tables := rfl
@[simp] theorem setReg_stackSt (d : Dev) (o : Nat) (v : Word) : (setReg d o v).stackSt = d.stackSt := rfl
@[simp] theorem setReg_trackers (d : Dev) (o : Nat) (v : Word) : (setReg d o v).trackers = d.trackers := rfl
@[simp] theorem setReg_frecs (d : Dev) (o : Nat) (v : Word) : (setReg d o v).frecs = d.frecs := rfl
@[simp] theorem setReg_counters (d : Dev) (o : Nat) (v : Word) : (setReg d o v).counters = d.counters := rfl
@[simp] theorem setReg_trc (d : Dev) (o : Nat) (v : Word) : (setReg d o v).trc = d.trc := rfl
@[simp] theorem setReg_farLost (d : Dev) (o : Nat) (v : Word) : (setReg d o v).farLost = d.farLost := rfl
@[simp] theorem setReg_fab (d : Dev) (o : Nat) (v : Word) : (setReg d o v).fab = d.fab := rfl
@[simp] theorem setReg_harts (d : Dev) (o : Nat) (v : Word) : (setReg d o v).harts = d.harts := rfl
@[simp] theorem setReg_colls (d : Dev) (o : Nat) (v : Word) : (setReg d o v).colls = d.colls := rfl
@[simp] theorem setReg_ingots (d : Dev) (o : Nat) (v : Word) : (setReg d o v).ingots = d.ingots := rfl
@[simp] theorem setReg_twin (d : Dev) (o : Nat) (v : Word) : (setReg d o v).twin = d.twin := rfl
@[simp] theorem setReg_led (d : Dev) (o : Nat) (v : Word) : (setReg d o v).led = d.led := rfl
@[simp] theorem setReg_pwr (d : Dev) (o : Nat) (v : Word) : (setReg d o v).pwr = d.pwr := rfl
@[simp] theorem setReg_firm (d : Dev) (o : Nat) (v : Word) : (setReg d o v).firm = d.firm := rfl
@[simp] theorem setReg_tetherReq (d : Dev) (o : Nat) (v : Word) : (setReg d o v).tetherReq = d.tetherReq := rfl
@[simp] theorem setReg_fenced (d : Dev) (o : Nat) (v : Word) : (setReg d o v).fenced = d.fenced := rfl
@[simp] theorem setReg_loss (d : Dev) (o : Nat) (v : Word) : (setReg d o v).loss = d.loss := rfl
@[simp] theorem setReg_launch (d : Dev) (o : Nat) (v : Word) : (setReg d o v).launch = d.launch := rfl
@[simp] theorem setReg_pdieBeat (d : Dev) (o : Nat) (v : Word) : (setReg d o v).pdieBeat = d.pdieBeat := rfl
@[simp] theorem setReg_hostRead (d : Dev) (o : Nat) (v : Word) : (setReg d o v).hostRead = d.hostRead := rfl
@[simp] theorem setReg_mgmtJobs (d : Dev) (o : Nat) (v : Word) : (setReg d o v).mgmtJobs = d.mgmtJobs := rfl
@[simp] theorem setReg_mgmtOut (d : Dev) (o : Nat) (v : Word) : (setReg d o v).mgmtOut = d.mgmtOut := rfl
@[simp] theorem setReg_wipedAt (d : Dev) (o : Nat) (v : Word) : (setReg d o v).wipedAt = d.wipedAt := rfl
@[simp] theorem setReg_plane (d : Dev) (o : Nat) (v : Word) : (setReg d o v).plane = d.plane := rfl
@[simp] theorem setReg_planeBad (d : Dev) (o : Nat) (v : Word) : (setReg d o v).planeBad = d.planeBad := rfl
@[simp] theorem setReg_collUse (d : Dev) (o : Nat) (v : Word) : (setReg d o v).collUse = d.collUse := rfl
@[simp] theorem setReg_draws (d : Dev) (o : Nat) (v : Word) : (setReg d o v).draws = d.draws := rfl

/-! latch changes eff and no other field. -/

@[simp] theorem latch_phase (d : Dev) (o : Nat) : (latch d o).phase = d.phase := rfl
@[simp] theorem latch_clk (d : Dev) (o : Nat) : (latch d o).clk = d.clk := rfl
@[simp] theorem latch_regs (d : Dev) (o : Nat) : (latch d o).regs = d.regs := rfl
@[simp] theorem latch_mem (d : Dev) (o : Nat) : (latch d o).mem = d.mem := rfl
@[simp] theorem latch_flash (d : Dev) (o : Nat) : (latch d o).flash = d.flash := rfl
@[simp] theorem latch_bad (d : Dev) (o : Nat) : (latch d o).bad = d.bad := rfl
@[simp] theorem latch_weak (d : Dev) (o : Nat) : (latch d o).weak = d.weak := rfl
@[simp] theorem latch_plic (d : Dev) (o : Nat) : (latch d o).plic = d.plic := rfl
@[simp] theorem latch_bridle (d : Dev) (o : Nat) : (latch d o).bridle = d.bridle := rfl
@[simp] theorem latch_plans (d : Dev) (o : Nat) : (latch d o).plans = d.plans := rfl
@[simp] theorem latch_queues (d : Dev) (o : Nat) : (latch d o).queues = d.queues := rfl
@[simp] theorem latch_flights (d : Dev) (o : Nat) : (latch d o).flights = d.flights := rfl
@[simp] theorem latch_reserved (d : Dev) (o : Nat) : (latch d o).reserved = d.reserved := rfl
@[simp] theorem latch_rr (d : Dev) (o : Nat) : (latch d o).rr = d.rr := rfl
@[simp] theorem latch_disabled (d : Dev) (o : Nat) : (latch d o).disabled = d.disabled := rfl
@[simp] theorem latch_tiles (d : Dev) (o : Nat) : (latch d o).tiles = d.tiles := rfl
@[simp] theorem latch_tables (d : Dev) (o : Nat) : (latch d o).tables = d.tables := rfl
@[simp] theorem latch_stackSt (d : Dev) (o : Nat) : (latch d o).stackSt = d.stackSt := rfl
@[simp] theorem latch_trackers (d : Dev) (o : Nat) : (latch d o).trackers = d.trackers := rfl
@[simp] theorem latch_frecs (d : Dev) (o : Nat) : (latch d o).frecs = d.frecs := rfl
@[simp] theorem latch_counters (d : Dev) (o : Nat) : (latch d o).counters = d.counters := rfl
@[simp] theorem latch_trc (d : Dev) (o : Nat) : (latch d o).trc = d.trc := rfl
@[simp] theorem latch_farLost (d : Dev) (o : Nat) : (latch d o).farLost = d.farLost := rfl
@[simp] theorem latch_fab (d : Dev) (o : Nat) : (latch d o).fab = d.fab := rfl
@[simp] theorem latch_harts (d : Dev) (o : Nat) : (latch d o).harts = d.harts := rfl
@[simp] theorem latch_colls (d : Dev) (o : Nat) : (latch d o).colls = d.colls := rfl
@[simp] theorem latch_ingots (d : Dev) (o : Nat) : (latch d o).ingots = d.ingots := rfl
@[simp] theorem latch_twin (d : Dev) (o : Nat) : (latch d o).twin = d.twin := rfl
@[simp] theorem latch_led (d : Dev) (o : Nat) : (latch d o).led = d.led := rfl
@[simp] theorem latch_pwr (d : Dev) (o : Nat) : (latch d o).pwr = d.pwr := rfl
@[simp] theorem latch_firm (d : Dev) (o : Nat) : (latch d o).firm = d.firm := rfl
@[simp] theorem latch_tetherReq (d : Dev) (o : Nat) : (latch d o).tetherReq = d.tetherReq := rfl
@[simp] theorem latch_fenced (d : Dev) (o : Nat) : (latch d o).fenced = d.fenced := rfl
@[simp] theorem latch_loss (d : Dev) (o : Nat) : (latch d o).loss = d.loss := rfl
@[simp] theorem latch_launch (d : Dev) (o : Nat) : (latch d o).launch = d.launch := rfl
@[simp] theorem latch_pdieBeat (d : Dev) (o : Nat) : (latch d o).pdieBeat = d.pdieBeat := rfl
@[simp] theorem latch_hostRead (d : Dev) (o : Nat) : (latch d o).hostRead = d.hostRead := rfl
@[simp] theorem latch_mgmtJobs (d : Dev) (o : Nat) : (latch d o).mgmtJobs = d.mgmtJobs := rfl
@[simp] theorem latch_mgmtOut (d : Dev) (o : Nat) : (latch d o).mgmtOut = d.mgmtOut := rfl
@[simp] theorem latch_wipedAt (d : Dev) (o : Nat) : (latch d o).wipedAt = d.wipedAt := rfl
@[simp] theorem latch_plane (d : Dev) (o : Nat) : (latch d o).plane = d.plane := rfl
@[simp] theorem latch_planeBad (d : Dev) (o : Nat) : (latch d o).planeBad = d.planeBad := rfl
@[simp] theorem latch_collUse (d : Dev) (o : Nat) : (latch d o).collUse = d.collUse := rfl
@[simp] theorem latch_draws (d : Dev) (o : Nat) : (latch d o).draws = d.draws := rfl

/-! pass changes clk and no other field. -/

@[simp] theorem pass_phase (n : Nat) (d : Dev) : (pass n d).phase = d.phase := rfl
@[simp] theorem pass_regs (n : Nat) (d : Dev) : (pass n d).regs = d.regs := rfl
@[simp] theorem pass_eff (n : Nat) (d : Dev) : (pass n d).eff = d.eff := rfl
@[simp] theorem pass_mem (n : Nat) (d : Dev) : (pass n d).mem = d.mem := rfl
@[simp] theorem pass_flash (n : Nat) (d : Dev) : (pass n d).flash = d.flash := rfl
@[simp] theorem pass_bad (n : Nat) (d : Dev) : (pass n d).bad = d.bad := rfl
@[simp] theorem pass_weak (n : Nat) (d : Dev) : (pass n d).weak = d.weak := rfl
@[simp] theorem pass_plic (n : Nat) (d : Dev) : (pass n d).plic = d.plic := rfl
@[simp] theorem pass_bridle (n : Nat) (d : Dev) : (pass n d).bridle = d.bridle := rfl
@[simp] theorem pass_plans (n : Nat) (d : Dev) : (pass n d).plans = d.plans := rfl
@[simp] theorem pass_queues (n : Nat) (d : Dev) : (pass n d).queues = d.queues := rfl
@[simp] theorem pass_flights (n : Nat) (d : Dev) : (pass n d).flights = d.flights := rfl
@[simp] theorem pass_reserved (n : Nat) (d : Dev) : (pass n d).reserved = d.reserved := rfl
@[simp] theorem pass_rr (n : Nat) (d : Dev) : (pass n d).rr = d.rr := rfl
@[simp] theorem pass_disabled (n : Nat) (d : Dev) : (pass n d).disabled = d.disabled := rfl
@[simp] theorem pass_tiles (n : Nat) (d : Dev) : (pass n d).tiles = d.tiles := rfl
@[simp] theorem pass_tables (n : Nat) (d : Dev) : (pass n d).tables = d.tables := rfl
@[simp] theorem pass_stackSt (n : Nat) (d : Dev) : (pass n d).stackSt = d.stackSt := rfl
@[simp] theorem pass_trackers (n : Nat) (d : Dev) : (pass n d).trackers = d.trackers := rfl
@[simp] theorem pass_frecs (n : Nat) (d : Dev) : (pass n d).frecs = d.frecs := rfl
@[simp] theorem pass_counters (n : Nat) (d : Dev) : (pass n d).counters = d.counters := rfl
@[simp] theorem pass_trc (n : Nat) (d : Dev) : (pass n d).trc = d.trc := rfl
@[simp] theorem pass_farLost (n : Nat) (d : Dev) : (pass n d).farLost = d.farLost := rfl
@[simp] theorem pass_fab (n : Nat) (d : Dev) : (pass n d).fab = d.fab := rfl
@[simp] theorem pass_harts (n : Nat) (d : Dev) : (pass n d).harts = d.harts := rfl
@[simp] theorem pass_colls (n : Nat) (d : Dev) : (pass n d).colls = d.colls := rfl
@[simp] theorem pass_ingots (n : Nat) (d : Dev) : (pass n d).ingots = d.ingots := rfl
@[simp] theorem pass_twin (n : Nat) (d : Dev) : (pass n d).twin = d.twin := rfl
@[simp] theorem pass_led (n : Nat) (d : Dev) : (pass n d).led = d.led := rfl
@[simp] theorem pass_pwr (n : Nat) (d : Dev) : (pass n d).pwr = d.pwr := rfl
@[simp] theorem pass_firm (n : Nat) (d : Dev) : (pass n d).firm = d.firm := rfl
@[simp] theorem pass_tetherReq (n : Nat) (d : Dev) : (pass n d).tetherReq = d.tetherReq := rfl
@[simp] theorem pass_fenced (n : Nat) (d : Dev) : (pass n d).fenced = d.fenced := rfl
@[simp] theorem pass_loss (n : Nat) (d : Dev) : (pass n d).loss = d.loss := rfl
@[simp] theorem pass_launch (n : Nat) (d : Dev) : (pass n d).launch = d.launch := rfl
@[simp] theorem pass_pdieBeat (n : Nat) (d : Dev) : (pass n d).pdieBeat = d.pdieBeat := rfl
@[simp] theorem pass_hostRead (n : Nat) (d : Dev) : (pass n d).hostRead = d.hostRead := rfl
@[simp] theorem pass_mgmtJobs (n : Nat) (d : Dev) : (pass n d).mgmtJobs = d.mgmtJobs := rfl
@[simp] theorem pass_mgmtOut (n : Nat) (d : Dev) : (pass n d).mgmtOut = d.mgmtOut := rfl
@[simp] theorem pass_wipedAt (n : Nat) (d : Dev) : (pass n d).wipedAt = d.wipedAt := rfl
@[simp] theorem pass_plane (n : Nat) (d : Dev) : (pass n d).plane = d.plane := rfl
@[simp] theorem pass_planeBad (n : Nat) (d : Dev) : (pass n d).planeBad = d.planeBad := rfl
@[simp] theorem pass_collUse (n : Nat) (d : Dev) : (pass n d).collUse = d.collUse := rfl
@[simp] theorem pass_draws (n : Nat) (d : Dev) : (pass n d).draws = d.draws := rfl

/-! frecMod changes frecs and no other field. -/

@[simp] theorem frecMod_phase (n : Nat) (f : FrameRec → FrameRec) (d : Dev) : (frecMod n f d).phase = d.phase := rfl
@[simp] theorem frecMod_clk (n : Nat) (f : FrameRec → FrameRec) (d : Dev) : (frecMod n f d).clk = d.clk := rfl
@[simp] theorem frecMod_regs (n : Nat) (f : FrameRec → FrameRec) (d : Dev) : (frecMod n f d).regs = d.regs := rfl
@[simp] theorem frecMod_eff (n : Nat) (f : FrameRec → FrameRec) (d : Dev) : (frecMod n f d).eff = d.eff := rfl
@[simp] theorem frecMod_mem (n : Nat) (f : FrameRec → FrameRec) (d : Dev) : (frecMod n f d).mem = d.mem := rfl
@[simp] theorem frecMod_flash (n : Nat) (f : FrameRec → FrameRec) (d : Dev) : (frecMod n f d).flash = d.flash := rfl
@[simp] theorem frecMod_bad (n : Nat) (f : FrameRec → FrameRec) (d : Dev) : (frecMod n f d).bad = d.bad := rfl
@[simp] theorem frecMod_weak (n : Nat) (f : FrameRec → FrameRec) (d : Dev) : (frecMod n f d).weak = d.weak := rfl
@[simp] theorem frecMod_plic (n : Nat) (f : FrameRec → FrameRec) (d : Dev) : (frecMod n f d).plic = d.plic := rfl
@[simp] theorem frecMod_bridle (n : Nat) (f : FrameRec → FrameRec) (d : Dev) : (frecMod n f d).bridle = d.bridle := rfl
@[simp] theorem frecMod_plans (n : Nat) (f : FrameRec → FrameRec) (d : Dev) : (frecMod n f d).plans = d.plans := rfl
@[simp] theorem frecMod_queues (n : Nat) (f : FrameRec → FrameRec) (d : Dev) : (frecMod n f d).queues = d.queues := rfl
@[simp] theorem frecMod_flights (n : Nat) (f : FrameRec → FrameRec) (d : Dev) : (frecMod n f d).flights = d.flights := rfl
@[simp] theorem frecMod_reserved (n : Nat) (f : FrameRec → FrameRec) (d : Dev) : (frecMod n f d).reserved = d.reserved := rfl
@[simp] theorem frecMod_rr (n : Nat) (f : FrameRec → FrameRec) (d : Dev) : (frecMod n f d).rr = d.rr := rfl
@[simp] theorem frecMod_disabled (n : Nat) (f : FrameRec → FrameRec) (d : Dev) : (frecMod n f d).disabled = d.disabled := rfl
@[simp] theorem frecMod_tiles (n : Nat) (f : FrameRec → FrameRec) (d : Dev) : (frecMod n f d).tiles = d.tiles := rfl
@[simp] theorem frecMod_tables (n : Nat) (f : FrameRec → FrameRec) (d : Dev) : (frecMod n f d).tables = d.tables := rfl
@[simp] theorem frecMod_stackSt (n : Nat) (f : FrameRec → FrameRec) (d : Dev) : (frecMod n f d).stackSt = d.stackSt := rfl
@[simp] theorem frecMod_trackers (n : Nat) (f : FrameRec → FrameRec) (d : Dev) : (frecMod n f d).trackers = d.trackers := rfl
@[simp] theorem frecMod_counters (n : Nat) (f : FrameRec → FrameRec) (d : Dev) : (frecMod n f d).counters = d.counters := rfl
@[simp] theorem frecMod_trc (n : Nat) (f : FrameRec → FrameRec) (d : Dev) : (frecMod n f d).trc = d.trc := rfl
@[simp] theorem frecMod_farLost (n : Nat) (f : FrameRec → FrameRec) (d : Dev) : (frecMod n f d).farLost = d.farLost := rfl
@[simp] theorem frecMod_fab (n : Nat) (f : FrameRec → FrameRec) (d : Dev) : (frecMod n f d).fab = d.fab := rfl
@[simp] theorem frecMod_harts (n : Nat) (f : FrameRec → FrameRec) (d : Dev) : (frecMod n f d).harts = d.harts := rfl
@[simp] theorem frecMod_colls (n : Nat) (f : FrameRec → FrameRec) (d : Dev) : (frecMod n f d).colls = d.colls := rfl
@[simp] theorem frecMod_ingots (n : Nat) (f : FrameRec → FrameRec) (d : Dev) : (frecMod n f d).ingots = d.ingots := rfl
@[simp] theorem frecMod_twin (n : Nat) (f : FrameRec → FrameRec) (d : Dev) : (frecMod n f d).twin = d.twin := rfl
@[simp] theorem frecMod_led (n : Nat) (f : FrameRec → FrameRec) (d : Dev) : (frecMod n f d).led = d.led := rfl
@[simp] theorem frecMod_pwr (n : Nat) (f : FrameRec → FrameRec) (d : Dev) : (frecMod n f d).pwr = d.pwr := rfl
@[simp] theorem frecMod_firm (n : Nat) (f : FrameRec → FrameRec) (d : Dev) : (frecMod n f d).firm = d.firm := rfl
@[simp] theorem frecMod_tetherReq (n : Nat) (f : FrameRec → FrameRec) (d : Dev) : (frecMod n f d).tetherReq = d.tetherReq := rfl
@[simp] theorem frecMod_fenced (n : Nat) (f : FrameRec → FrameRec) (d : Dev) : (frecMod n f d).fenced = d.fenced := rfl
@[simp] theorem frecMod_loss (n : Nat) (f : FrameRec → FrameRec) (d : Dev) : (frecMod n f d).loss = d.loss := rfl
@[simp] theorem frecMod_launch (n : Nat) (f : FrameRec → FrameRec) (d : Dev) : (frecMod n f d).launch = d.launch := rfl
@[simp] theorem frecMod_pdieBeat (n : Nat) (f : FrameRec → FrameRec) (d : Dev) : (frecMod n f d).pdieBeat = d.pdieBeat := rfl
@[simp] theorem frecMod_hostRead (n : Nat) (f : FrameRec → FrameRec) (d : Dev) : (frecMod n f d).hostRead = d.hostRead := rfl
@[simp] theorem frecMod_mgmtJobs (n : Nat) (f : FrameRec → FrameRec) (d : Dev) : (frecMod n f d).mgmtJobs = d.mgmtJobs := rfl
@[simp] theorem frecMod_mgmtOut (n : Nat) (f : FrameRec → FrameRec) (d : Dev) : (frecMod n f d).mgmtOut = d.mgmtOut := rfl
@[simp] theorem frecMod_wipedAt (n : Nat) (f : FrameRec → FrameRec) (d : Dev) : (frecMod n f d).wipedAt = d.wipedAt := rfl
@[simp] theorem frecMod_plane (n : Nat) (f : FrameRec → FrameRec) (d : Dev) : (frecMod n f d).plane = d.plane := rfl
@[simp] theorem frecMod_planeBad (n : Nat) (f : FrameRec → FrameRec) (d : Dev) : (frecMod n f d).planeBad = d.planeBad := rfl
@[simp] theorem frecMod_collUse (n : Nat) (f : FrameRec → FrameRec) (d : Dev) : (frecMod n f d).collUse = d.collUse := rfl
@[simp] theorem frecMod_draws (n : Nat) (f : FrameRec → FrameRec) (d : Dev) : (frecMod n f d).draws = d.draws := rfl

/-! modStack changes stackSt and no other field. -/

@[simp] theorem modStack_phase (st : Nat) (f : Stack → Stack) (d : Dev) : (modStack st f d).phase = d.phase := rfl
@[simp] theorem modStack_clk (st : Nat) (f : Stack → Stack) (d : Dev) : (modStack st f d).clk = d.clk := rfl
@[simp] theorem modStack_regs (st : Nat) (f : Stack → Stack) (d : Dev) : (modStack st f d).regs = d.regs := rfl
@[simp] theorem modStack_eff (st : Nat) (f : Stack → Stack) (d : Dev) : (modStack st f d).eff = d.eff := rfl
@[simp] theorem modStack_mem (st : Nat) (f : Stack → Stack) (d : Dev) : (modStack st f d).mem = d.mem := rfl
@[simp] theorem modStack_flash (st : Nat) (f : Stack → Stack) (d : Dev) : (modStack st f d).flash = d.flash := rfl
@[simp] theorem modStack_bad (st : Nat) (f : Stack → Stack) (d : Dev) : (modStack st f d).bad = d.bad := rfl
@[simp] theorem modStack_weak (st : Nat) (f : Stack → Stack) (d : Dev) : (modStack st f d).weak = d.weak := rfl
@[simp] theorem modStack_plic (st : Nat) (f : Stack → Stack) (d : Dev) : (modStack st f d).plic = d.plic := rfl
@[simp] theorem modStack_bridle (st : Nat) (f : Stack → Stack) (d : Dev) : (modStack st f d).bridle = d.bridle := rfl
@[simp] theorem modStack_plans (st : Nat) (f : Stack → Stack) (d : Dev) : (modStack st f d).plans = d.plans := rfl
@[simp] theorem modStack_queues (st : Nat) (f : Stack → Stack) (d : Dev) : (modStack st f d).queues = d.queues := rfl
@[simp] theorem modStack_flights (st : Nat) (f : Stack → Stack) (d : Dev) : (modStack st f d).flights = d.flights := rfl
@[simp] theorem modStack_reserved (st : Nat) (f : Stack → Stack) (d : Dev) : (modStack st f d).reserved = d.reserved := rfl
@[simp] theorem modStack_rr (st : Nat) (f : Stack → Stack) (d : Dev) : (modStack st f d).rr = d.rr := rfl
@[simp] theorem modStack_disabled (st : Nat) (f : Stack → Stack) (d : Dev) : (modStack st f d).disabled = d.disabled := rfl
@[simp] theorem modStack_tiles (st : Nat) (f : Stack → Stack) (d : Dev) : (modStack st f d).tiles = d.tiles := rfl
@[simp] theorem modStack_tables (st : Nat) (f : Stack → Stack) (d : Dev) : (modStack st f d).tables = d.tables := rfl
@[simp] theorem modStack_trackers (st : Nat) (f : Stack → Stack) (d : Dev) : (modStack st f d).trackers = d.trackers := rfl
@[simp] theorem modStack_frecs (st : Nat) (f : Stack → Stack) (d : Dev) : (modStack st f d).frecs = d.frecs := rfl
@[simp] theorem modStack_counters (st : Nat) (f : Stack → Stack) (d : Dev) : (modStack st f d).counters = d.counters := rfl
@[simp] theorem modStack_trc (st : Nat) (f : Stack → Stack) (d : Dev) : (modStack st f d).trc = d.trc := rfl
@[simp] theorem modStack_farLost (st : Nat) (f : Stack → Stack) (d : Dev) : (modStack st f d).farLost = d.farLost := rfl
@[simp] theorem modStack_fab (st : Nat) (f : Stack → Stack) (d : Dev) : (modStack st f d).fab = d.fab := rfl
@[simp] theorem modStack_harts (st : Nat) (f : Stack → Stack) (d : Dev) : (modStack st f d).harts = d.harts := rfl
@[simp] theorem modStack_colls (st : Nat) (f : Stack → Stack) (d : Dev) : (modStack st f d).colls = d.colls := rfl
@[simp] theorem modStack_ingots (st : Nat) (f : Stack → Stack) (d : Dev) : (modStack st f d).ingots = d.ingots := rfl
@[simp] theorem modStack_twin (st : Nat) (f : Stack → Stack) (d : Dev) : (modStack st f d).twin = d.twin := rfl
@[simp] theorem modStack_led (st : Nat) (f : Stack → Stack) (d : Dev) : (modStack st f d).led = d.led := rfl
@[simp] theorem modStack_pwr (st : Nat) (f : Stack → Stack) (d : Dev) : (modStack st f d).pwr = d.pwr := rfl
@[simp] theorem modStack_firm (st : Nat) (f : Stack → Stack) (d : Dev) : (modStack st f d).firm = d.firm := rfl
@[simp] theorem modStack_tetherReq (st : Nat) (f : Stack → Stack) (d : Dev) : (modStack st f d).tetherReq = d.tetherReq := rfl
@[simp] theorem modStack_fenced (st : Nat) (f : Stack → Stack) (d : Dev) : (modStack st f d).fenced = d.fenced := rfl
@[simp] theorem modStack_loss (st : Nat) (f : Stack → Stack) (d : Dev) : (modStack st f d).loss = d.loss := rfl
@[simp] theorem modStack_launch (st : Nat) (f : Stack → Stack) (d : Dev) : (modStack st f d).launch = d.launch := rfl
@[simp] theorem modStack_pdieBeat (st : Nat) (f : Stack → Stack) (d : Dev) : (modStack st f d).pdieBeat = d.pdieBeat := rfl
@[simp] theorem modStack_hostRead (st : Nat) (f : Stack → Stack) (d : Dev) : (modStack st f d).hostRead = d.hostRead := rfl
@[simp] theorem modStack_mgmtJobs (st : Nat) (f : Stack → Stack) (d : Dev) : (modStack st f d).mgmtJobs = d.mgmtJobs := rfl
@[simp] theorem modStack_mgmtOut (st : Nat) (f : Stack → Stack) (d : Dev) : (modStack st f d).mgmtOut = d.mgmtOut := rfl
@[simp] theorem modStack_wipedAt (st : Nat) (f : Stack → Stack) (d : Dev) : (modStack st f d).wipedAt = d.wipedAt := rfl
@[simp] theorem modStack_plane (st : Nat) (f : Stack → Stack) (d : Dev) : (modStack st f d).plane = d.plane := rfl
@[simp] theorem modStack_planeBad (st : Nat) (f : Stack → Stack) (d : Dev) : (modStack st f d).planeBad = d.planeBad := rfl
@[simp] theorem modStack_collUse (st : Nat) (f : Stack → Stack) (d : Dev) : (modStack st f d).collUse = d.collUse := rfl
@[simp] theorem modStack_draws (st : Nat) (f : Stack → Stack) (d : Dev) : (modStack st f d).draws = d.draws := rfl

/-! modTracker changes trackers and no other field. -/

@[simp] theorem modTracker_phase (a : Nat) (f : Tracker → Tracker) (d : Dev) : (modTracker a f d).phase = d.phase := rfl
@[simp] theorem modTracker_clk (a : Nat) (f : Tracker → Tracker) (d : Dev) : (modTracker a f d).clk = d.clk := rfl
@[simp] theorem modTracker_regs (a : Nat) (f : Tracker → Tracker) (d : Dev) : (modTracker a f d).regs = d.regs := rfl
@[simp] theorem modTracker_eff (a : Nat) (f : Tracker → Tracker) (d : Dev) : (modTracker a f d).eff = d.eff := rfl
@[simp] theorem modTracker_mem (a : Nat) (f : Tracker → Tracker) (d : Dev) : (modTracker a f d).mem = d.mem := rfl
@[simp] theorem modTracker_flash (a : Nat) (f : Tracker → Tracker) (d : Dev) : (modTracker a f d).flash = d.flash := rfl
@[simp] theorem modTracker_bad (a : Nat) (f : Tracker → Tracker) (d : Dev) : (modTracker a f d).bad = d.bad := rfl
@[simp] theorem modTracker_weak (a : Nat) (f : Tracker → Tracker) (d : Dev) : (modTracker a f d).weak = d.weak := rfl
@[simp] theorem modTracker_plic (a : Nat) (f : Tracker → Tracker) (d : Dev) : (modTracker a f d).plic = d.plic := rfl
@[simp] theorem modTracker_bridle (a : Nat) (f : Tracker → Tracker) (d : Dev) : (modTracker a f d).bridle = d.bridle := rfl
@[simp] theorem modTracker_plans (a : Nat) (f : Tracker → Tracker) (d : Dev) : (modTracker a f d).plans = d.plans := rfl
@[simp] theorem modTracker_queues (a : Nat) (f : Tracker → Tracker) (d : Dev) : (modTracker a f d).queues = d.queues := rfl
@[simp] theorem modTracker_flights (a : Nat) (f : Tracker → Tracker) (d : Dev) : (modTracker a f d).flights = d.flights := rfl
@[simp] theorem modTracker_reserved (a : Nat) (f : Tracker → Tracker) (d : Dev) : (modTracker a f d).reserved = d.reserved := rfl
@[simp] theorem modTracker_rr (a : Nat) (f : Tracker → Tracker) (d : Dev) : (modTracker a f d).rr = d.rr := rfl
@[simp] theorem modTracker_disabled (a : Nat) (f : Tracker → Tracker) (d : Dev) : (modTracker a f d).disabled = d.disabled := rfl
@[simp] theorem modTracker_tiles (a : Nat) (f : Tracker → Tracker) (d : Dev) : (modTracker a f d).tiles = d.tiles := rfl
@[simp] theorem modTracker_tables (a : Nat) (f : Tracker → Tracker) (d : Dev) : (modTracker a f d).tables = d.tables := rfl
@[simp] theorem modTracker_stackSt (a : Nat) (f : Tracker → Tracker) (d : Dev) : (modTracker a f d).stackSt = d.stackSt := rfl
@[simp] theorem modTracker_frecs (a : Nat) (f : Tracker → Tracker) (d : Dev) : (modTracker a f d).frecs = d.frecs := rfl
@[simp] theorem modTracker_counters (a : Nat) (f : Tracker → Tracker) (d : Dev) : (modTracker a f d).counters = d.counters := rfl
@[simp] theorem modTracker_trc (a : Nat) (f : Tracker → Tracker) (d : Dev) : (modTracker a f d).trc = d.trc := rfl
@[simp] theorem modTracker_farLost (a : Nat) (f : Tracker → Tracker) (d : Dev) : (modTracker a f d).farLost = d.farLost := rfl
@[simp] theorem modTracker_fab (a : Nat) (f : Tracker → Tracker) (d : Dev) : (modTracker a f d).fab = d.fab := rfl
@[simp] theorem modTracker_harts (a : Nat) (f : Tracker → Tracker) (d : Dev) : (modTracker a f d).harts = d.harts := rfl
@[simp] theorem modTracker_colls (a : Nat) (f : Tracker → Tracker) (d : Dev) : (modTracker a f d).colls = d.colls := rfl
@[simp] theorem modTracker_ingots (a : Nat) (f : Tracker → Tracker) (d : Dev) : (modTracker a f d).ingots = d.ingots := rfl
@[simp] theorem modTracker_twin (a : Nat) (f : Tracker → Tracker) (d : Dev) : (modTracker a f d).twin = d.twin := rfl
@[simp] theorem modTracker_led (a : Nat) (f : Tracker → Tracker) (d : Dev) : (modTracker a f d).led = d.led := rfl
@[simp] theorem modTracker_pwr (a : Nat) (f : Tracker → Tracker) (d : Dev) : (modTracker a f d).pwr = d.pwr := rfl
@[simp] theorem modTracker_firm (a : Nat) (f : Tracker → Tracker) (d : Dev) : (modTracker a f d).firm = d.firm := rfl
@[simp] theorem modTracker_tetherReq (a : Nat) (f : Tracker → Tracker) (d : Dev) : (modTracker a f d).tetherReq = d.tetherReq := rfl
@[simp] theorem modTracker_fenced (a : Nat) (f : Tracker → Tracker) (d : Dev) : (modTracker a f d).fenced = d.fenced := rfl
@[simp] theorem modTracker_loss (a : Nat) (f : Tracker → Tracker) (d : Dev) : (modTracker a f d).loss = d.loss := rfl
@[simp] theorem modTracker_launch (a : Nat) (f : Tracker → Tracker) (d : Dev) : (modTracker a f d).launch = d.launch := rfl
@[simp] theorem modTracker_pdieBeat (a : Nat) (f : Tracker → Tracker) (d : Dev) : (modTracker a f d).pdieBeat = d.pdieBeat := rfl
@[simp] theorem modTracker_hostRead (a : Nat) (f : Tracker → Tracker) (d : Dev) : (modTracker a f d).hostRead = d.hostRead := rfl
@[simp] theorem modTracker_mgmtJobs (a : Nat) (f : Tracker → Tracker) (d : Dev) : (modTracker a f d).mgmtJobs = d.mgmtJobs := rfl
@[simp] theorem modTracker_mgmtOut (a : Nat) (f : Tracker → Tracker) (d : Dev) : (modTracker a f d).mgmtOut = d.mgmtOut := rfl
@[simp] theorem modTracker_wipedAt (a : Nat) (f : Tracker → Tracker) (d : Dev) : (modTracker a f d).wipedAt = d.wipedAt := rfl
@[simp] theorem modTracker_plane (a : Nat) (f : Tracker → Tracker) (d : Dev) : (modTracker a f d).plane = d.plane := rfl
@[simp] theorem modTracker_planeBad (a : Nat) (f : Tracker → Tracker) (d : Dev) : (modTracker a f d).planeBad = d.planeBad := rfl
@[simp] theorem modTracker_collUse (a : Nat) (f : Tracker → Tracker) (d : Dev) : (modTracker a f d).collUse = d.collUse := rfl
@[simp] theorem modTracker_draws (a : Nat) (f : Tracker → Tracker) (d : Dev) : (modTracker a f d).draws = d.draws := rfl

/-! modTile changes tiles and no other field. -/

@[simp] theorem modTile_phase (t : Nat) (f : TileSt → TileSt) (d : Dev) : (modTile t f d).phase = d.phase := rfl
@[simp] theorem modTile_clk (t : Nat) (f : TileSt → TileSt) (d : Dev) : (modTile t f d).clk = d.clk := rfl
@[simp] theorem modTile_regs (t : Nat) (f : TileSt → TileSt) (d : Dev) : (modTile t f d).regs = d.regs := rfl
@[simp] theorem modTile_eff (t : Nat) (f : TileSt → TileSt) (d : Dev) : (modTile t f d).eff = d.eff := rfl
@[simp] theorem modTile_mem (t : Nat) (f : TileSt → TileSt) (d : Dev) : (modTile t f d).mem = d.mem := rfl
@[simp] theorem modTile_flash (t : Nat) (f : TileSt → TileSt) (d : Dev) : (modTile t f d).flash = d.flash := rfl
@[simp] theorem modTile_bad (t : Nat) (f : TileSt → TileSt) (d : Dev) : (modTile t f d).bad = d.bad := rfl
@[simp] theorem modTile_weak (t : Nat) (f : TileSt → TileSt) (d : Dev) : (modTile t f d).weak = d.weak := rfl
@[simp] theorem modTile_plic (t : Nat) (f : TileSt → TileSt) (d : Dev) : (modTile t f d).plic = d.plic := rfl
@[simp] theorem modTile_bridle (t : Nat) (f : TileSt → TileSt) (d : Dev) : (modTile t f d).bridle = d.bridle := rfl
@[simp] theorem modTile_plans (t : Nat) (f : TileSt → TileSt) (d : Dev) : (modTile t f d).plans = d.plans := rfl
@[simp] theorem modTile_queues (t : Nat) (f : TileSt → TileSt) (d : Dev) : (modTile t f d).queues = d.queues := rfl
@[simp] theorem modTile_flights (t : Nat) (f : TileSt → TileSt) (d : Dev) : (modTile t f d).flights = d.flights := rfl
@[simp] theorem modTile_reserved (t : Nat) (f : TileSt → TileSt) (d : Dev) : (modTile t f d).reserved = d.reserved := rfl
@[simp] theorem modTile_rr (t : Nat) (f : TileSt → TileSt) (d : Dev) : (modTile t f d).rr = d.rr := rfl
@[simp] theorem modTile_disabled (t : Nat) (f : TileSt → TileSt) (d : Dev) : (modTile t f d).disabled = d.disabled := rfl
@[simp] theorem modTile_tables (t : Nat) (f : TileSt → TileSt) (d : Dev) : (modTile t f d).tables = d.tables := rfl
@[simp] theorem modTile_stackSt (t : Nat) (f : TileSt → TileSt) (d : Dev) : (modTile t f d).stackSt = d.stackSt := rfl
@[simp] theorem modTile_trackers (t : Nat) (f : TileSt → TileSt) (d : Dev) : (modTile t f d).trackers = d.trackers := rfl
@[simp] theorem modTile_frecs (t : Nat) (f : TileSt → TileSt) (d : Dev) : (modTile t f d).frecs = d.frecs := rfl
@[simp] theorem modTile_counters (t : Nat) (f : TileSt → TileSt) (d : Dev) : (modTile t f d).counters = d.counters := rfl
@[simp] theorem modTile_trc (t : Nat) (f : TileSt → TileSt) (d : Dev) : (modTile t f d).trc = d.trc := rfl
@[simp] theorem modTile_farLost (t : Nat) (f : TileSt → TileSt) (d : Dev) : (modTile t f d).farLost = d.farLost := rfl
@[simp] theorem modTile_fab (t : Nat) (f : TileSt → TileSt) (d : Dev) : (modTile t f d).fab = d.fab := rfl
@[simp] theorem modTile_harts (t : Nat) (f : TileSt → TileSt) (d : Dev) : (modTile t f d).harts = d.harts := rfl
@[simp] theorem modTile_colls (t : Nat) (f : TileSt → TileSt) (d : Dev) : (modTile t f d).colls = d.colls := rfl
@[simp] theorem modTile_ingots (t : Nat) (f : TileSt → TileSt) (d : Dev) : (modTile t f d).ingots = d.ingots := rfl
@[simp] theorem modTile_twin (t : Nat) (f : TileSt → TileSt) (d : Dev) : (modTile t f d).twin = d.twin := rfl
@[simp] theorem modTile_led (t : Nat) (f : TileSt → TileSt) (d : Dev) : (modTile t f d).led = d.led := rfl
@[simp] theorem modTile_pwr (t : Nat) (f : TileSt → TileSt) (d : Dev) : (modTile t f d).pwr = d.pwr := rfl
@[simp] theorem modTile_firm (t : Nat) (f : TileSt → TileSt) (d : Dev) : (modTile t f d).firm = d.firm := rfl
@[simp] theorem modTile_tetherReq (t : Nat) (f : TileSt → TileSt) (d : Dev) : (modTile t f d).tetherReq = d.tetherReq := rfl
@[simp] theorem modTile_fenced (t : Nat) (f : TileSt → TileSt) (d : Dev) : (modTile t f d).fenced = d.fenced := rfl
@[simp] theorem modTile_loss (t : Nat) (f : TileSt → TileSt) (d : Dev) : (modTile t f d).loss = d.loss := rfl
@[simp] theorem modTile_launch (t : Nat) (f : TileSt → TileSt) (d : Dev) : (modTile t f d).launch = d.launch := rfl
@[simp] theorem modTile_pdieBeat (t : Nat) (f : TileSt → TileSt) (d : Dev) : (modTile t f d).pdieBeat = d.pdieBeat := rfl
@[simp] theorem modTile_hostRead (t : Nat) (f : TileSt → TileSt) (d : Dev) : (modTile t f d).hostRead = d.hostRead := rfl
@[simp] theorem modTile_mgmtJobs (t : Nat) (f : TileSt → TileSt) (d : Dev) : (modTile t f d).mgmtJobs = d.mgmtJobs := rfl
@[simp] theorem modTile_mgmtOut (t : Nat) (f : TileSt → TileSt) (d : Dev) : (modTile t f d).mgmtOut = d.mgmtOut := rfl
@[simp] theorem modTile_wipedAt (t : Nat) (f : TileSt → TileSt) (d : Dev) : (modTile t f d).wipedAt = d.wipedAt := rfl
@[simp] theorem modTile_plane (t : Nat) (f : TileSt → TileSt) (d : Dev) : (modTile t f d).plane = d.plane := rfl
@[simp] theorem modTile_planeBad (t : Nat) (f : TileSt → TileSt) (d : Dev) : (modTile t f d).planeBad = d.planeBad := rfl
@[simp] theorem modTile_collUse (t : Nat) (f : TileSt → TileSt) (d : Dev) : (modTile t f d).collUse = d.collUse := rfl
@[simp] theorem modTile_draws (t : Nat) (f : TileSt → TileSt) (d : Dev) : (modTile t f d).draws = d.draws := rfl

/-! modQueue changes queues and no other field. -/

@[simp] theorem modQueue_phase (q : Nat) (f : QueueX → QueueX) (d : Dev) : (modQueue q f d).phase = d.phase := rfl
@[simp] theorem modQueue_clk (q : Nat) (f : QueueX → QueueX) (d : Dev) : (modQueue q f d).clk = d.clk := rfl
@[simp] theorem modQueue_regs (q : Nat) (f : QueueX → QueueX) (d : Dev) : (modQueue q f d).regs = d.regs := rfl
@[simp] theorem modQueue_eff (q : Nat) (f : QueueX → QueueX) (d : Dev) : (modQueue q f d).eff = d.eff := rfl
@[simp] theorem modQueue_mem (q : Nat) (f : QueueX → QueueX) (d : Dev) : (modQueue q f d).mem = d.mem := rfl
@[simp] theorem modQueue_flash (q : Nat) (f : QueueX → QueueX) (d : Dev) : (modQueue q f d).flash = d.flash := rfl
@[simp] theorem modQueue_bad (q : Nat) (f : QueueX → QueueX) (d : Dev) : (modQueue q f d).bad = d.bad := rfl
@[simp] theorem modQueue_weak (q : Nat) (f : QueueX → QueueX) (d : Dev) : (modQueue q f d).weak = d.weak := rfl
@[simp] theorem modQueue_plic (q : Nat) (f : QueueX → QueueX) (d : Dev) : (modQueue q f d).plic = d.plic := rfl
@[simp] theorem modQueue_bridle (q : Nat) (f : QueueX → QueueX) (d : Dev) : (modQueue q f d).bridle = d.bridle := rfl
@[simp] theorem modQueue_plans (q : Nat) (f : QueueX → QueueX) (d : Dev) : (modQueue q f d).plans = d.plans := rfl
@[simp] theorem modQueue_flights (q : Nat) (f : QueueX → QueueX) (d : Dev) : (modQueue q f d).flights = d.flights := rfl
@[simp] theorem modQueue_reserved (q : Nat) (f : QueueX → QueueX) (d : Dev) : (modQueue q f d).reserved = d.reserved := rfl
@[simp] theorem modQueue_rr (q : Nat) (f : QueueX → QueueX) (d : Dev) : (modQueue q f d).rr = d.rr := rfl
@[simp] theorem modQueue_disabled (q : Nat) (f : QueueX → QueueX) (d : Dev) : (modQueue q f d).disabled = d.disabled := rfl
@[simp] theorem modQueue_tiles (q : Nat) (f : QueueX → QueueX) (d : Dev) : (modQueue q f d).tiles = d.tiles := rfl
@[simp] theorem modQueue_tables (q : Nat) (f : QueueX → QueueX) (d : Dev) : (modQueue q f d).tables = d.tables := rfl
@[simp] theorem modQueue_stackSt (q : Nat) (f : QueueX → QueueX) (d : Dev) : (modQueue q f d).stackSt = d.stackSt := rfl
@[simp] theorem modQueue_trackers (q : Nat) (f : QueueX → QueueX) (d : Dev) : (modQueue q f d).trackers = d.trackers := rfl
@[simp] theorem modQueue_frecs (q : Nat) (f : QueueX → QueueX) (d : Dev) : (modQueue q f d).frecs = d.frecs := rfl
@[simp] theorem modQueue_counters (q : Nat) (f : QueueX → QueueX) (d : Dev) : (modQueue q f d).counters = d.counters := rfl
@[simp] theorem modQueue_trc (q : Nat) (f : QueueX → QueueX) (d : Dev) : (modQueue q f d).trc = d.trc := rfl
@[simp] theorem modQueue_farLost (q : Nat) (f : QueueX → QueueX) (d : Dev) : (modQueue q f d).farLost = d.farLost := rfl
@[simp] theorem modQueue_fab (q : Nat) (f : QueueX → QueueX) (d : Dev) : (modQueue q f d).fab = d.fab := rfl
@[simp] theorem modQueue_harts (q : Nat) (f : QueueX → QueueX) (d : Dev) : (modQueue q f d).harts = d.harts := rfl
@[simp] theorem modQueue_colls (q : Nat) (f : QueueX → QueueX) (d : Dev) : (modQueue q f d).colls = d.colls := rfl
@[simp] theorem modQueue_ingots (q : Nat) (f : QueueX → QueueX) (d : Dev) : (modQueue q f d).ingots = d.ingots := rfl
@[simp] theorem modQueue_twin (q : Nat) (f : QueueX → QueueX) (d : Dev) : (modQueue q f d).twin = d.twin := rfl
@[simp] theorem modQueue_led (q : Nat) (f : QueueX → QueueX) (d : Dev) : (modQueue q f d).led = d.led := rfl
@[simp] theorem modQueue_pwr (q : Nat) (f : QueueX → QueueX) (d : Dev) : (modQueue q f d).pwr = d.pwr := rfl
@[simp] theorem modQueue_firm (q : Nat) (f : QueueX → QueueX) (d : Dev) : (modQueue q f d).firm = d.firm := rfl
@[simp] theorem modQueue_tetherReq (q : Nat) (f : QueueX → QueueX) (d : Dev) : (modQueue q f d).tetherReq = d.tetherReq := rfl
@[simp] theorem modQueue_fenced (q : Nat) (f : QueueX → QueueX) (d : Dev) : (modQueue q f d).fenced = d.fenced := rfl
@[simp] theorem modQueue_loss (q : Nat) (f : QueueX → QueueX) (d : Dev) : (modQueue q f d).loss = d.loss := rfl
@[simp] theorem modQueue_launch (q : Nat) (f : QueueX → QueueX) (d : Dev) : (modQueue q f d).launch = d.launch := rfl
@[simp] theorem modQueue_pdieBeat (q : Nat) (f : QueueX → QueueX) (d : Dev) : (modQueue q f d).pdieBeat = d.pdieBeat := rfl
@[simp] theorem modQueue_hostRead (q : Nat) (f : QueueX → QueueX) (d : Dev) : (modQueue q f d).hostRead = d.hostRead := rfl
@[simp] theorem modQueue_mgmtJobs (q : Nat) (f : QueueX → QueueX) (d : Dev) : (modQueue q f d).mgmtJobs = d.mgmtJobs := rfl
@[simp] theorem modQueue_mgmtOut (q : Nat) (f : QueueX → QueueX) (d : Dev) : (modQueue q f d).mgmtOut = d.mgmtOut := rfl
@[simp] theorem modQueue_wipedAt (q : Nat) (f : QueueX → QueueX) (d : Dev) : (modQueue q f d).wipedAt = d.wipedAt := rfl
@[simp] theorem modQueue_plane (q : Nat) (f : QueueX → QueueX) (d : Dev) : (modQueue q f d).plane = d.plane := rfl
@[simp] theorem modQueue_planeBad (q : Nat) (f : QueueX → QueueX) (d : Dev) : (modQueue q f d).planeBad = d.planeBad := rfl
@[simp] theorem modQueue_collUse (q : Nat) (f : QueueX → QueueX) (d : Dev) : (modQueue q f d).collUse = d.collUse := rfl
@[simp] theorem modQueue_draws (q : Nat) (f : QueueX → QueueX) (d : Dev) : (modQueue q f d).draws = d.draws := rfl

/-! modFlight changes flights and no other field. -/

@[simp] theorem modFlight_phase (q n : Nat) (f : Flight → Flight) (d : Dev) : (modFlight q n f d).phase = d.phase := rfl
@[simp] theorem modFlight_clk (q n : Nat) (f : Flight → Flight) (d : Dev) : (modFlight q n f d).clk = d.clk := rfl
@[simp] theorem modFlight_regs (q n : Nat) (f : Flight → Flight) (d : Dev) : (modFlight q n f d).regs = d.regs := rfl
@[simp] theorem modFlight_eff (q n : Nat) (f : Flight → Flight) (d : Dev) : (modFlight q n f d).eff = d.eff := rfl
@[simp] theorem modFlight_mem (q n : Nat) (f : Flight → Flight) (d : Dev) : (modFlight q n f d).mem = d.mem := rfl
@[simp] theorem modFlight_flash (q n : Nat) (f : Flight → Flight) (d : Dev) : (modFlight q n f d).flash = d.flash := rfl
@[simp] theorem modFlight_bad (q n : Nat) (f : Flight → Flight) (d : Dev) : (modFlight q n f d).bad = d.bad := rfl
@[simp] theorem modFlight_weak (q n : Nat) (f : Flight → Flight) (d : Dev) : (modFlight q n f d).weak = d.weak := rfl
@[simp] theorem modFlight_plic (q n : Nat) (f : Flight → Flight) (d : Dev) : (modFlight q n f d).plic = d.plic := rfl
@[simp] theorem modFlight_bridle (q n : Nat) (f : Flight → Flight) (d : Dev) : (modFlight q n f d).bridle = d.bridle := rfl
@[simp] theorem modFlight_plans (q n : Nat) (f : Flight → Flight) (d : Dev) : (modFlight q n f d).plans = d.plans := rfl
@[simp] theorem modFlight_queues (q n : Nat) (f : Flight → Flight) (d : Dev) : (modFlight q n f d).queues = d.queues := rfl
@[simp] theorem modFlight_reserved (q n : Nat) (f : Flight → Flight) (d : Dev) : (modFlight q n f d).reserved = d.reserved := rfl
@[simp] theorem modFlight_rr (q n : Nat) (f : Flight → Flight) (d : Dev) : (modFlight q n f d).rr = d.rr := rfl
@[simp] theorem modFlight_disabled (q n : Nat) (f : Flight → Flight) (d : Dev) : (modFlight q n f d).disabled = d.disabled := rfl
@[simp] theorem modFlight_tiles (q n : Nat) (f : Flight → Flight) (d : Dev) : (modFlight q n f d).tiles = d.tiles := rfl
@[simp] theorem modFlight_tables (q n : Nat) (f : Flight → Flight) (d : Dev) : (modFlight q n f d).tables = d.tables := rfl
@[simp] theorem modFlight_stackSt (q n : Nat) (f : Flight → Flight) (d : Dev) : (modFlight q n f d).stackSt = d.stackSt := rfl
@[simp] theorem modFlight_trackers (q n : Nat) (f : Flight → Flight) (d : Dev) : (modFlight q n f d).trackers = d.trackers := rfl
@[simp] theorem modFlight_frecs (q n : Nat) (f : Flight → Flight) (d : Dev) : (modFlight q n f d).frecs = d.frecs := rfl
@[simp] theorem modFlight_counters (q n : Nat) (f : Flight → Flight) (d : Dev) : (modFlight q n f d).counters = d.counters := rfl
@[simp] theorem modFlight_trc (q n : Nat) (f : Flight → Flight) (d : Dev) : (modFlight q n f d).trc = d.trc := rfl
@[simp] theorem modFlight_farLost (q n : Nat) (f : Flight → Flight) (d : Dev) : (modFlight q n f d).farLost = d.farLost := rfl
@[simp] theorem modFlight_fab (q n : Nat) (f : Flight → Flight) (d : Dev) : (modFlight q n f d).fab = d.fab := rfl
@[simp] theorem modFlight_harts (q n : Nat) (f : Flight → Flight) (d : Dev) : (modFlight q n f d).harts = d.harts := rfl
@[simp] theorem modFlight_colls (q n : Nat) (f : Flight → Flight) (d : Dev) : (modFlight q n f d).colls = d.colls := rfl
@[simp] theorem modFlight_ingots (q n : Nat) (f : Flight → Flight) (d : Dev) : (modFlight q n f d).ingots = d.ingots := rfl
@[simp] theorem modFlight_twin (q n : Nat) (f : Flight → Flight) (d : Dev) : (modFlight q n f d).twin = d.twin := rfl
@[simp] theorem modFlight_led (q n : Nat) (f : Flight → Flight) (d : Dev) : (modFlight q n f d).led = d.led := rfl
@[simp] theorem modFlight_pwr (q n : Nat) (f : Flight → Flight) (d : Dev) : (modFlight q n f d).pwr = d.pwr := rfl
@[simp] theorem modFlight_firm (q n : Nat) (f : Flight → Flight) (d : Dev) : (modFlight q n f d).firm = d.firm := rfl
@[simp] theorem modFlight_tetherReq (q n : Nat) (f : Flight → Flight) (d : Dev) : (modFlight q n f d).tetherReq = d.tetherReq := rfl
@[simp] theorem modFlight_fenced (q n : Nat) (f : Flight → Flight) (d : Dev) : (modFlight q n f d).fenced = d.fenced := rfl
@[simp] theorem modFlight_loss (q n : Nat) (f : Flight → Flight) (d : Dev) : (modFlight q n f d).loss = d.loss := rfl
@[simp] theorem modFlight_launch (q n : Nat) (f : Flight → Flight) (d : Dev) : (modFlight q n f d).launch = d.launch := rfl
@[simp] theorem modFlight_pdieBeat (q n : Nat) (f : Flight → Flight) (d : Dev) : (modFlight q n f d).pdieBeat = d.pdieBeat := rfl
@[simp] theorem modFlight_hostRead (q n : Nat) (f : Flight → Flight) (d : Dev) : (modFlight q n f d).hostRead = d.hostRead := rfl
@[simp] theorem modFlight_mgmtJobs (q n : Nat) (f : Flight → Flight) (d : Dev) : (modFlight q n f d).mgmtJobs = d.mgmtJobs := rfl
@[simp] theorem modFlight_mgmtOut (q n : Nat) (f : Flight → Flight) (d : Dev) : (modFlight q n f d).mgmtOut = d.mgmtOut := rfl
@[simp] theorem modFlight_wipedAt (q n : Nat) (f : Flight → Flight) (d : Dev) : (modFlight q n f d).wipedAt = d.wipedAt := rfl
@[simp] theorem modFlight_plane (q n : Nat) (f : Flight → Flight) (d : Dev) : (modFlight q n f d).plane = d.plane := rfl
@[simp] theorem modFlight_planeBad (q n : Nat) (f : Flight → Flight) (d : Dev) : (modFlight q n f d).planeBad = d.planeBad := rfl
@[simp] theorem modFlight_collUse (q n : Nat) (f : Flight → Flight) (d : Dev) : (modFlight q n f d).collUse = d.collUse := rfl
@[simp] theorem modFlight_draws (q n : Nat) (f : Flight → Flight) (d : Dev) : (modFlight q n f d).draws = d.draws := rfl

/-! modHart changes harts and no other field. -/

@[simp] theorem modHart_phase (h : Nat) (f : Hart → Hart) (d : Dev) : (modHart h f d).phase = d.phase := rfl
@[simp] theorem modHart_clk (h : Nat) (f : Hart → Hart) (d : Dev) : (modHart h f d).clk = d.clk := rfl
@[simp] theorem modHart_regs (h : Nat) (f : Hart → Hart) (d : Dev) : (modHart h f d).regs = d.regs := rfl
@[simp] theorem modHart_eff (h : Nat) (f : Hart → Hart) (d : Dev) : (modHart h f d).eff = d.eff := rfl
@[simp] theorem modHart_mem (h : Nat) (f : Hart → Hart) (d : Dev) : (modHart h f d).mem = d.mem := rfl
@[simp] theorem modHart_flash (h : Nat) (f : Hart → Hart) (d : Dev) : (modHart h f d).flash = d.flash := rfl
@[simp] theorem modHart_bad (h : Nat) (f : Hart → Hart) (d : Dev) : (modHart h f d).bad = d.bad := rfl
@[simp] theorem modHart_weak (h : Nat) (f : Hart → Hart) (d : Dev) : (modHart h f d).weak = d.weak := rfl
@[simp] theorem modHart_plic (h : Nat) (f : Hart → Hart) (d : Dev) : (modHart h f d).plic = d.plic := rfl
@[simp] theorem modHart_bridle (h : Nat) (f : Hart → Hart) (d : Dev) : (modHart h f d).bridle = d.bridle := rfl
@[simp] theorem modHart_plans (h : Nat) (f : Hart → Hart) (d : Dev) : (modHart h f d).plans = d.plans := rfl
@[simp] theorem modHart_queues (h : Nat) (f : Hart → Hart) (d : Dev) : (modHart h f d).queues = d.queues := rfl
@[simp] theorem modHart_flights (h : Nat) (f : Hart → Hart) (d : Dev) : (modHart h f d).flights = d.flights := rfl
@[simp] theorem modHart_reserved (h : Nat) (f : Hart → Hart) (d : Dev) : (modHart h f d).reserved = d.reserved := rfl
@[simp] theorem modHart_rr (h : Nat) (f : Hart → Hart) (d : Dev) : (modHart h f d).rr = d.rr := rfl
@[simp] theorem modHart_disabled (h : Nat) (f : Hart → Hart) (d : Dev) : (modHart h f d).disabled = d.disabled := rfl
@[simp] theorem modHart_tiles (h : Nat) (f : Hart → Hart) (d : Dev) : (modHart h f d).tiles = d.tiles := rfl
@[simp] theorem modHart_tables (h : Nat) (f : Hart → Hart) (d : Dev) : (modHart h f d).tables = d.tables := rfl
@[simp] theorem modHart_stackSt (h : Nat) (f : Hart → Hart) (d : Dev) : (modHart h f d).stackSt = d.stackSt := rfl
@[simp] theorem modHart_trackers (h : Nat) (f : Hart → Hart) (d : Dev) : (modHart h f d).trackers = d.trackers := rfl
@[simp] theorem modHart_frecs (h : Nat) (f : Hart → Hart) (d : Dev) : (modHart h f d).frecs = d.frecs := rfl
@[simp] theorem modHart_counters (h : Nat) (f : Hart → Hart) (d : Dev) : (modHart h f d).counters = d.counters := rfl
@[simp] theorem modHart_trc (h : Nat) (f : Hart → Hart) (d : Dev) : (modHart h f d).trc = d.trc := rfl
@[simp] theorem modHart_farLost (h : Nat) (f : Hart → Hart) (d : Dev) : (modHart h f d).farLost = d.farLost := rfl
@[simp] theorem modHart_fab (h : Nat) (f : Hart → Hart) (d : Dev) : (modHart h f d).fab = d.fab := rfl
@[simp] theorem modHart_colls (h : Nat) (f : Hart → Hart) (d : Dev) : (modHart h f d).colls = d.colls := rfl
@[simp] theorem modHart_ingots (h : Nat) (f : Hart → Hart) (d : Dev) : (modHart h f d).ingots = d.ingots := rfl
@[simp] theorem modHart_twin (h : Nat) (f : Hart → Hart) (d : Dev) : (modHart h f d).twin = d.twin := rfl
@[simp] theorem modHart_led (h : Nat) (f : Hart → Hart) (d : Dev) : (modHart h f d).led = d.led := rfl
@[simp] theorem modHart_pwr (h : Nat) (f : Hart → Hart) (d : Dev) : (modHart h f d).pwr = d.pwr := rfl
@[simp] theorem modHart_firm (h : Nat) (f : Hart → Hart) (d : Dev) : (modHart h f d).firm = d.firm := rfl
@[simp] theorem modHart_tetherReq (h : Nat) (f : Hart → Hart) (d : Dev) : (modHart h f d).tetherReq = d.tetherReq := rfl
@[simp] theorem modHart_fenced (h : Nat) (f : Hart → Hart) (d : Dev) : (modHart h f d).fenced = d.fenced := rfl
@[simp] theorem modHart_loss (h : Nat) (f : Hart → Hart) (d : Dev) : (modHart h f d).loss = d.loss := rfl
@[simp] theorem modHart_launch (h : Nat) (f : Hart → Hart) (d : Dev) : (modHart h f d).launch = d.launch := rfl
@[simp] theorem modHart_pdieBeat (h : Nat) (f : Hart → Hart) (d : Dev) : (modHart h f d).pdieBeat = d.pdieBeat := rfl
@[simp] theorem modHart_hostRead (h : Nat) (f : Hart → Hart) (d : Dev) : (modHart h f d).hostRead = d.hostRead := rfl
@[simp] theorem modHart_mgmtJobs (h : Nat) (f : Hart → Hart) (d : Dev) : (modHart h f d).mgmtJobs = d.mgmtJobs := rfl
@[simp] theorem modHart_mgmtOut (h : Nat) (f : Hart → Hart) (d : Dev) : (modHart h f d).mgmtOut = d.mgmtOut := rfl
@[simp] theorem modHart_wipedAt (h : Nat) (f : Hart → Hart) (d : Dev) : (modHart h f d).wipedAt = d.wipedAt := rfl
@[simp] theorem modHart_plane (h : Nat) (f : Hart → Hart) (d : Dev) : (modHart h f d).plane = d.plane := rfl
@[simp] theorem modHart_planeBad (h : Nat) (f : Hart → Hart) (d : Dev) : (modHart h f d).planeBad = d.planeBad := rfl
@[simp] theorem modHart_collUse (h : Nat) (f : Hart → Hart) (d : Dev) : (modHart h f d).collUse = d.collUse := rfl
@[simp] theorem modHart_draws (h : Nat) (f : Hart → Hart) (d : Dev) : (modHart h f d).draws = d.draws := rfl

/-! modLink changes fab and no other field. -/

@[simp] theorem modLink_phase (p : Nat) (f : Link → Link) (d : Dev) : (modLink p f d).phase = d.phase := rfl
@[simp] theorem modLink_clk (p : Nat) (f : Link → Link) (d : Dev) : (modLink p f d).clk = d.clk := rfl
@[simp] theorem modLink_regs (p : Nat) (f : Link → Link) (d : Dev) : (modLink p f d).regs = d.regs := rfl
@[simp] theorem modLink_eff (p : Nat) (f : Link → Link) (d : Dev) : (modLink p f d).eff = d.eff := rfl
@[simp] theorem modLink_mem (p : Nat) (f : Link → Link) (d : Dev) : (modLink p f d).mem = d.mem := rfl
@[simp] theorem modLink_flash (p : Nat) (f : Link → Link) (d : Dev) : (modLink p f d).flash = d.flash := rfl
@[simp] theorem modLink_bad (p : Nat) (f : Link → Link) (d : Dev) : (modLink p f d).bad = d.bad := rfl
@[simp] theorem modLink_weak (p : Nat) (f : Link → Link) (d : Dev) : (modLink p f d).weak = d.weak := rfl
@[simp] theorem modLink_plic (p : Nat) (f : Link → Link) (d : Dev) : (modLink p f d).plic = d.plic := rfl
@[simp] theorem modLink_bridle (p : Nat) (f : Link → Link) (d : Dev) : (modLink p f d).bridle = d.bridle := rfl
@[simp] theorem modLink_plans (p : Nat) (f : Link → Link) (d : Dev) : (modLink p f d).plans = d.plans := rfl
@[simp] theorem modLink_queues (p : Nat) (f : Link → Link) (d : Dev) : (modLink p f d).queues = d.queues := rfl
@[simp] theorem modLink_flights (p : Nat) (f : Link → Link) (d : Dev) : (modLink p f d).flights = d.flights := rfl
@[simp] theorem modLink_reserved (p : Nat) (f : Link → Link) (d : Dev) : (modLink p f d).reserved = d.reserved := rfl
@[simp] theorem modLink_rr (p : Nat) (f : Link → Link) (d : Dev) : (modLink p f d).rr = d.rr := rfl
@[simp] theorem modLink_disabled (p : Nat) (f : Link → Link) (d : Dev) : (modLink p f d).disabled = d.disabled := rfl
@[simp] theorem modLink_tiles (p : Nat) (f : Link → Link) (d : Dev) : (modLink p f d).tiles = d.tiles := rfl
@[simp] theorem modLink_tables (p : Nat) (f : Link → Link) (d : Dev) : (modLink p f d).tables = d.tables := rfl
@[simp] theorem modLink_stackSt (p : Nat) (f : Link → Link) (d : Dev) : (modLink p f d).stackSt = d.stackSt := rfl
@[simp] theorem modLink_trackers (p : Nat) (f : Link → Link) (d : Dev) : (modLink p f d).trackers = d.trackers := rfl
@[simp] theorem modLink_frecs (p : Nat) (f : Link → Link) (d : Dev) : (modLink p f d).frecs = d.frecs := rfl
@[simp] theorem modLink_counters (p : Nat) (f : Link → Link) (d : Dev) : (modLink p f d).counters = d.counters := rfl
@[simp] theorem modLink_trc (p : Nat) (f : Link → Link) (d : Dev) : (modLink p f d).trc = d.trc := rfl
@[simp] theorem modLink_farLost (p : Nat) (f : Link → Link) (d : Dev) : (modLink p f d).farLost = d.farLost := rfl
@[simp] theorem modLink_harts (p : Nat) (f : Link → Link) (d : Dev) : (modLink p f d).harts = d.harts := rfl
@[simp] theorem modLink_colls (p : Nat) (f : Link → Link) (d : Dev) : (modLink p f d).colls = d.colls := rfl
@[simp] theorem modLink_ingots (p : Nat) (f : Link → Link) (d : Dev) : (modLink p f d).ingots = d.ingots := rfl
@[simp] theorem modLink_twin (p : Nat) (f : Link → Link) (d : Dev) : (modLink p f d).twin = d.twin := rfl
@[simp] theorem modLink_led (p : Nat) (f : Link → Link) (d : Dev) : (modLink p f d).led = d.led := rfl
@[simp] theorem modLink_pwr (p : Nat) (f : Link → Link) (d : Dev) : (modLink p f d).pwr = d.pwr := rfl
@[simp] theorem modLink_firm (p : Nat) (f : Link → Link) (d : Dev) : (modLink p f d).firm = d.firm := rfl
@[simp] theorem modLink_tetherReq (p : Nat) (f : Link → Link) (d : Dev) : (modLink p f d).tetherReq = d.tetherReq := rfl
@[simp] theorem modLink_fenced (p : Nat) (f : Link → Link) (d : Dev) : (modLink p f d).fenced = d.fenced := rfl
@[simp] theorem modLink_loss (p : Nat) (f : Link → Link) (d : Dev) : (modLink p f d).loss = d.loss := rfl
@[simp] theorem modLink_launch (p : Nat) (f : Link → Link) (d : Dev) : (modLink p f d).launch = d.launch := rfl
@[simp] theorem modLink_pdieBeat (p : Nat) (f : Link → Link) (d : Dev) : (modLink p f d).pdieBeat = d.pdieBeat := rfl
@[simp] theorem modLink_hostRead (p : Nat) (f : Link → Link) (d : Dev) : (modLink p f d).hostRead = d.hostRead := rfl
@[simp] theorem modLink_mgmtJobs (p : Nat) (f : Link → Link) (d : Dev) : (modLink p f d).mgmtJobs = d.mgmtJobs := rfl
@[simp] theorem modLink_mgmtOut (p : Nat) (f : Link → Link) (d : Dev) : (modLink p f d).mgmtOut = d.mgmtOut := rfl
@[simp] theorem modLink_wipedAt (p : Nat) (f : Link → Link) (d : Dev) : (modLink p f d).wipedAt = d.wipedAt := rfl
@[simp] theorem modLink_plane (p : Nat) (f : Link → Link) (d : Dev) : (modLink p f d).plane = d.plane := rfl
@[simp] theorem modLink_planeBad (p : Nat) (f : Link → Link) (d : Dev) : (modLink p f d).planeBad = d.planeBad := rfl
@[simp] theorem modLink_collUse (p : Nat) (f : Link → Link) (d : Dev) : (modLink p f d).collUse = d.collUse := rfl
@[simp] theorem modLink_draws (p : Nat) (f : Link → Link) (d : Dev) : (modLink p f d).draws = d.draws := rfl

/-! modPeer changes fab and no other field. -/

@[simp] theorem modPeer_phase (n : Nat) (f : Peer → Peer) (d : Dev) : (modPeer n f d).phase = d.phase := rfl
@[simp] theorem modPeer_clk (n : Nat) (f : Peer → Peer) (d : Dev) : (modPeer n f d).clk = d.clk := rfl
@[simp] theorem modPeer_regs (n : Nat) (f : Peer → Peer) (d : Dev) : (modPeer n f d).regs = d.regs := rfl
@[simp] theorem modPeer_eff (n : Nat) (f : Peer → Peer) (d : Dev) : (modPeer n f d).eff = d.eff := rfl
@[simp] theorem modPeer_mem (n : Nat) (f : Peer → Peer) (d : Dev) : (modPeer n f d).mem = d.mem := rfl
@[simp] theorem modPeer_flash (n : Nat) (f : Peer → Peer) (d : Dev) : (modPeer n f d).flash = d.flash := rfl
@[simp] theorem modPeer_bad (n : Nat) (f : Peer → Peer) (d : Dev) : (modPeer n f d).bad = d.bad := rfl
@[simp] theorem modPeer_weak (n : Nat) (f : Peer → Peer) (d : Dev) : (modPeer n f d).weak = d.weak := rfl
@[simp] theorem modPeer_plic (n : Nat) (f : Peer → Peer) (d : Dev) : (modPeer n f d).plic = d.plic := rfl
@[simp] theorem modPeer_bridle (n : Nat) (f : Peer → Peer) (d : Dev) : (modPeer n f d).bridle = d.bridle := rfl
@[simp] theorem modPeer_plans (n : Nat) (f : Peer → Peer) (d : Dev) : (modPeer n f d).plans = d.plans := rfl
@[simp] theorem modPeer_queues (n : Nat) (f : Peer → Peer) (d : Dev) : (modPeer n f d).queues = d.queues := rfl
@[simp] theorem modPeer_flights (n : Nat) (f : Peer → Peer) (d : Dev) : (modPeer n f d).flights = d.flights := rfl
@[simp] theorem modPeer_reserved (n : Nat) (f : Peer → Peer) (d : Dev) : (modPeer n f d).reserved = d.reserved := rfl
@[simp] theorem modPeer_rr (n : Nat) (f : Peer → Peer) (d : Dev) : (modPeer n f d).rr = d.rr := rfl
@[simp] theorem modPeer_disabled (n : Nat) (f : Peer → Peer) (d : Dev) : (modPeer n f d).disabled = d.disabled := rfl
@[simp] theorem modPeer_tiles (n : Nat) (f : Peer → Peer) (d : Dev) : (modPeer n f d).tiles = d.tiles := rfl
@[simp] theorem modPeer_tables (n : Nat) (f : Peer → Peer) (d : Dev) : (modPeer n f d).tables = d.tables := rfl
@[simp] theorem modPeer_stackSt (n : Nat) (f : Peer → Peer) (d : Dev) : (modPeer n f d).stackSt = d.stackSt := rfl
@[simp] theorem modPeer_trackers (n : Nat) (f : Peer → Peer) (d : Dev) : (modPeer n f d).trackers = d.trackers := rfl
@[simp] theorem modPeer_frecs (n : Nat) (f : Peer → Peer) (d : Dev) : (modPeer n f d).frecs = d.frecs := rfl
@[simp] theorem modPeer_counters (n : Nat) (f : Peer → Peer) (d : Dev) : (modPeer n f d).counters = d.counters := rfl
@[simp] theorem modPeer_trc (n : Nat) (f : Peer → Peer) (d : Dev) : (modPeer n f d).trc = d.trc := rfl
@[simp] theorem modPeer_farLost (n : Nat) (f : Peer → Peer) (d : Dev) : (modPeer n f d).farLost = d.farLost := rfl
@[simp] theorem modPeer_harts (n : Nat) (f : Peer → Peer) (d : Dev) : (modPeer n f d).harts = d.harts := rfl
@[simp] theorem modPeer_colls (n : Nat) (f : Peer → Peer) (d : Dev) : (modPeer n f d).colls = d.colls := rfl
@[simp] theorem modPeer_ingots (n : Nat) (f : Peer → Peer) (d : Dev) : (modPeer n f d).ingots = d.ingots := rfl
@[simp] theorem modPeer_twin (n : Nat) (f : Peer → Peer) (d : Dev) : (modPeer n f d).twin = d.twin := rfl
@[simp] theorem modPeer_led (n : Nat) (f : Peer → Peer) (d : Dev) : (modPeer n f d).led = d.led := rfl
@[simp] theorem modPeer_pwr (n : Nat) (f : Peer → Peer) (d : Dev) : (modPeer n f d).pwr = d.pwr := rfl
@[simp] theorem modPeer_firm (n : Nat) (f : Peer → Peer) (d : Dev) : (modPeer n f d).firm = d.firm := rfl
@[simp] theorem modPeer_tetherReq (n : Nat) (f : Peer → Peer) (d : Dev) : (modPeer n f d).tetherReq = d.tetherReq := rfl
@[simp] theorem modPeer_fenced (n : Nat) (f : Peer → Peer) (d : Dev) : (modPeer n f d).fenced = d.fenced := rfl
@[simp] theorem modPeer_loss (n : Nat) (f : Peer → Peer) (d : Dev) : (modPeer n f d).loss = d.loss := rfl
@[simp] theorem modPeer_launch (n : Nat) (f : Peer → Peer) (d : Dev) : (modPeer n f d).launch = d.launch := rfl
@[simp] theorem modPeer_pdieBeat (n : Nat) (f : Peer → Peer) (d : Dev) : (modPeer n f d).pdieBeat = d.pdieBeat := rfl
@[simp] theorem modPeer_hostRead (n : Nat) (f : Peer → Peer) (d : Dev) : (modPeer n f d).hostRead = d.hostRead := rfl
@[simp] theorem modPeer_mgmtJobs (n : Nat) (f : Peer → Peer) (d : Dev) : (modPeer n f d).mgmtJobs = d.mgmtJobs := rfl
@[simp] theorem modPeer_mgmtOut (n : Nat) (f : Peer → Peer) (d : Dev) : (modPeer n f d).mgmtOut = d.mgmtOut := rfl
@[simp] theorem modPeer_wipedAt (n : Nat) (f : Peer → Peer) (d : Dev) : (modPeer n f d).wipedAt = d.wipedAt := rfl
@[simp] theorem modPeer_plane (n : Nat) (f : Peer → Peer) (d : Dev) : (modPeer n f d).plane = d.plane := rfl
@[simp] theorem modPeer_planeBad (n : Nat) (f : Peer → Peer) (d : Dev) : (modPeer n f d).planeBad = d.planeBad := rfl
@[simp] theorem modPeer_collUse (n : Nat) (f : Peer → Peer) (d : Dev) : (modPeer n f d).collUse = d.collUse := rfl
@[simp] theorem modPeer_draws (n : Nat) (f : Peer → Peer) (d : Dev) : (modPeer n f d).draws = d.draws := rfl

/-! modTrc changes trc and no other field. -/

@[simp] theorem modTrc_phase (f : Trace → Trace) (d : Dev) : (modTrc f d).phase = d.phase := rfl
@[simp] theorem modTrc_clk (f : Trace → Trace) (d : Dev) : (modTrc f d).clk = d.clk := rfl
@[simp] theorem modTrc_regs (f : Trace → Trace) (d : Dev) : (modTrc f d).regs = d.regs := rfl
@[simp] theorem modTrc_eff (f : Trace → Trace) (d : Dev) : (modTrc f d).eff = d.eff := rfl
@[simp] theorem modTrc_mem (f : Trace → Trace) (d : Dev) : (modTrc f d).mem = d.mem := rfl
@[simp] theorem modTrc_flash (f : Trace → Trace) (d : Dev) : (modTrc f d).flash = d.flash := rfl
@[simp] theorem modTrc_bad (f : Trace → Trace) (d : Dev) : (modTrc f d).bad = d.bad := rfl
@[simp] theorem modTrc_weak (f : Trace → Trace) (d : Dev) : (modTrc f d).weak = d.weak := rfl
@[simp] theorem modTrc_plic (f : Trace → Trace) (d : Dev) : (modTrc f d).plic = d.plic := rfl
@[simp] theorem modTrc_bridle (f : Trace → Trace) (d : Dev) : (modTrc f d).bridle = d.bridle := rfl
@[simp] theorem modTrc_plans (f : Trace → Trace) (d : Dev) : (modTrc f d).plans = d.plans := rfl
@[simp] theorem modTrc_queues (f : Trace → Trace) (d : Dev) : (modTrc f d).queues = d.queues := rfl
@[simp] theorem modTrc_flights (f : Trace → Trace) (d : Dev) : (modTrc f d).flights = d.flights := rfl
@[simp] theorem modTrc_reserved (f : Trace → Trace) (d : Dev) : (modTrc f d).reserved = d.reserved := rfl
@[simp] theorem modTrc_rr (f : Trace → Trace) (d : Dev) : (modTrc f d).rr = d.rr := rfl
@[simp] theorem modTrc_disabled (f : Trace → Trace) (d : Dev) : (modTrc f d).disabled = d.disabled := rfl
@[simp] theorem modTrc_tiles (f : Trace → Trace) (d : Dev) : (modTrc f d).tiles = d.tiles := rfl
@[simp] theorem modTrc_tables (f : Trace → Trace) (d : Dev) : (modTrc f d).tables = d.tables := rfl
@[simp] theorem modTrc_stackSt (f : Trace → Trace) (d : Dev) : (modTrc f d).stackSt = d.stackSt := rfl
@[simp] theorem modTrc_trackers (f : Trace → Trace) (d : Dev) : (modTrc f d).trackers = d.trackers := rfl
@[simp] theorem modTrc_frecs (f : Trace → Trace) (d : Dev) : (modTrc f d).frecs = d.frecs := rfl
@[simp] theorem modTrc_counters (f : Trace → Trace) (d : Dev) : (modTrc f d).counters = d.counters := rfl
@[simp] theorem modTrc_farLost (f : Trace → Trace) (d : Dev) : (modTrc f d).farLost = d.farLost := rfl
@[simp] theorem modTrc_fab (f : Trace → Trace) (d : Dev) : (modTrc f d).fab = d.fab := rfl
@[simp] theorem modTrc_harts (f : Trace → Trace) (d : Dev) : (modTrc f d).harts = d.harts := rfl
@[simp] theorem modTrc_colls (f : Trace → Trace) (d : Dev) : (modTrc f d).colls = d.colls := rfl
@[simp] theorem modTrc_ingots (f : Trace → Trace) (d : Dev) : (modTrc f d).ingots = d.ingots := rfl
@[simp] theorem modTrc_twin (f : Trace → Trace) (d : Dev) : (modTrc f d).twin = d.twin := rfl
@[simp] theorem modTrc_led (f : Trace → Trace) (d : Dev) : (modTrc f d).led = d.led := rfl
@[simp] theorem modTrc_pwr (f : Trace → Trace) (d : Dev) : (modTrc f d).pwr = d.pwr := rfl
@[simp] theorem modTrc_firm (f : Trace → Trace) (d : Dev) : (modTrc f d).firm = d.firm := rfl
@[simp] theorem modTrc_tetherReq (f : Trace → Trace) (d : Dev) : (modTrc f d).tetherReq = d.tetherReq := rfl
@[simp] theorem modTrc_fenced (f : Trace → Trace) (d : Dev) : (modTrc f d).fenced = d.fenced := rfl
@[simp] theorem modTrc_loss (f : Trace → Trace) (d : Dev) : (modTrc f d).loss = d.loss := rfl
@[simp] theorem modTrc_launch (f : Trace → Trace) (d : Dev) : (modTrc f d).launch = d.launch := rfl
@[simp] theorem modTrc_pdieBeat (f : Trace → Trace) (d : Dev) : (modTrc f d).pdieBeat = d.pdieBeat := rfl
@[simp] theorem modTrc_hostRead (f : Trace → Trace) (d : Dev) : (modTrc f d).hostRead = d.hostRead := rfl
@[simp] theorem modTrc_mgmtJobs (f : Trace → Trace) (d : Dev) : (modTrc f d).mgmtJobs = d.mgmtJobs := rfl
@[simp] theorem modTrc_mgmtOut (f : Trace → Trace) (d : Dev) : (modTrc f d).mgmtOut = d.mgmtOut := rfl
@[simp] theorem modTrc_wipedAt (f : Trace → Trace) (d : Dev) : (modTrc f d).wipedAt = d.wipedAt := rfl
@[simp] theorem modTrc_plane (f : Trace → Trace) (d : Dev) : (modTrc f d).plane = d.plane := rfl
@[simp] theorem modTrc_planeBad (f : Trace → Trace) (d : Dev) : (modTrc f d).planeBad = d.planeBad := rfl
@[simp] theorem modTrc_collUse (f : Trace → Trace) (d : Dev) : (modTrc f d).collUse = d.collUse := rfl
@[simp] theorem modTrc_draws (f : Trace → Trace) (d : Dev) : (modTrc f d).draws = d.draws := rfl

/-! modPwr changes pwr and no other field. -/

@[simp] theorem modPwr_phase (f : Power → Power) (d : Dev) : (modPwr f d).phase = d.phase := rfl
@[simp] theorem modPwr_clk (f : Power → Power) (d : Dev) : (modPwr f d).clk = d.clk := rfl
@[simp] theorem modPwr_regs (f : Power → Power) (d : Dev) : (modPwr f d).regs = d.regs := rfl
@[simp] theorem modPwr_eff (f : Power → Power) (d : Dev) : (modPwr f d).eff = d.eff := rfl
@[simp] theorem modPwr_mem (f : Power → Power) (d : Dev) : (modPwr f d).mem = d.mem := rfl
@[simp] theorem modPwr_flash (f : Power → Power) (d : Dev) : (modPwr f d).flash = d.flash := rfl
@[simp] theorem modPwr_bad (f : Power → Power) (d : Dev) : (modPwr f d).bad = d.bad := rfl
@[simp] theorem modPwr_weak (f : Power → Power) (d : Dev) : (modPwr f d).weak = d.weak := rfl
@[simp] theorem modPwr_plic (f : Power → Power) (d : Dev) : (modPwr f d).plic = d.plic := rfl
@[simp] theorem modPwr_bridle (f : Power → Power) (d : Dev) : (modPwr f d).bridle = d.bridle := rfl
@[simp] theorem modPwr_plans (f : Power → Power) (d : Dev) : (modPwr f d).plans = d.plans := rfl
@[simp] theorem modPwr_queues (f : Power → Power) (d : Dev) : (modPwr f d).queues = d.queues := rfl
@[simp] theorem modPwr_flights (f : Power → Power) (d : Dev) : (modPwr f d).flights = d.flights := rfl
@[simp] theorem modPwr_reserved (f : Power → Power) (d : Dev) : (modPwr f d).reserved = d.reserved := rfl
@[simp] theorem modPwr_rr (f : Power → Power) (d : Dev) : (modPwr f d).rr = d.rr := rfl
@[simp] theorem modPwr_disabled (f : Power → Power) (d : Dev) : (modPwr f d).disabled = d.disabled := rfl
@[simp] theorem modPwr_tiles (f : Power → Power) (d : Dev) : (modPwr f d).tiles = d.tiles := rfl
@[simp] theorem modPwr_tables (f : Power → Power) (d : Dev) : (modPwr f d).tables = d.tables := rfl
@[simp] theorem modPwr_stackSt (f : Power → Power) (d : Dev) : (modPwr f d).stackSt = d.stackSt := rfl
@[simp] theorem modPwr_trackers (f : Power → Power) (d : Dev) : (modPwr f d).trackers = d.trackers := rfl
@[simp] theorem modPwr_frecs (f : Power → Power) (d : Dev) : (modPwr f d).frecs = d.frecs := rfl
@[simp] theorem modPwr_counters (f : Power → Power) (d : Dev) : (modPwr f d).counters = d.counters := rfl
@[simp] theorem modPwr_trc (f : Power → Power) (d : Dev) : (modPwr f d).trc = d.trc := rfl
@[simp] theorem modPwr_farLost (f : Power → Power) (d : Dev) : (modPwr f d).farLost = d.farLost := rfl
@[simp] theorem modPwr_fab (f : Power → Power) (d : Dev) : (modPwr f d).fab = d.fab := rfl
@[simp] theorem modPwr_harts (f : Power → Power) (d : Dev) : (modPwr f d).harts = d.harts := rfl
@[simp] theorem modPwr_colls (f : Power → Power) (d : Dev) : (modPwr f d).colls = d.colls := rfl
@[simp] theorem modPwr_ingots (f : Power → Power) (d : Dev) : (modPwr f d).ingots = d.ingots := rfl
@[simp] theorem modPwr_twin (f : Power → Power) (d : Dev) : (modPwr f d).twin = d.twin := rfl
@[simp] theorem modPwr_led (f : Power → Power) (d : Dev) : (modPwr f d).led = d.led := rfl
@[simp] theorem modPwr_firm (f : Power → Power) (d : Dev) : (modPwr f d).firm = d.firm := rfl
@[simp] theorem modPwr_tetherReq (f : Power → Power) (d : Dev) : (modPwr f d).tetherReq = d.tetherReq := rfl
@[simp] theorem modPwr_fenced (f : Power → Power) (d : Dev) : (modPwr f d).fenced = d.fenced := rfl
@[simp] theorem modPwr_loss (f : Power → Power) (d : Dev) : (modPwr f d).loss = d.loss := rfl
@[simp] theorem modPwr_launch (f : Power → Power) (d : Dev) : (modPwr f d).launch = d.launch := rfl
@[simp] theorem modPwr_pdieBeat (f : Power → Power) (d : Dev) : (modPwr f d).pdieBeat = d.pdieBeat := rfl
@[simp] theorem modPwr_hostRead (f : Power → Power) (d : Dev) : (modPwr f d).hostRead = d.hostRead := rfl
@[simp] theorem modPwr_mgmtJobs (f : Power → Power) (d : Dev) : (modPwr f d).mgmtJobs = d.mgmtJobs := rfl
@[simp] theorem modPwr_mgmtOut (f : Power → Power) (d : Dev) : (modPwr f d).mgmtOut = d.mgmtOut := rfl
@[simp] theorem modPwr_wipedAt (f : Power → Power) (d : Dev) : (modPwr f d).wipedAt = d.wipedAt := rfl
@[simp] theorem modPwr_plane (f : Power → Power) (d : Dev) : (modPwr f d).plane = d.plane := rfl
@[simp] theorem modPwr_planeBad (f : Power → Power) (d : Dev) : (modPwr f d).planeBad = d.planeBad := rfl
@[simp] theorem modPwr_collUse (f : Power → Power) (d : Dev) : (modPwr f d).collUse = d.collUse := rfl
@[simp] theorem modPwr_draws (f : Power → Power) (d : Dev) : (modPwr f d).draws = d.draws := rfl

/-! modFirm changes firm and no other field. -/

@[simp] theorem modFirm_phase (f : Firm → Firm) (d : Dev) : (modFirm f d).phase = d.phase := rfl
@[simp] theorem modFirm_clk (f : Firm → Firm) (d : Dev) : (modFirm f d).clk = d.clk := rfl
@[simp] theorem modFirm_regs (f : Firm → Firm) (d : Dev) : (modFirm f d).regs = d.regs := rfl
@[simp] theorem modFirm_eff (f : Firm → Firm) (d : Dev) : (modFirm f d).eff = d.eff := rfl
@[simp] theorem modFirm_mem (f : Firm → Firm) (d : Dev) : (modFirm f d).mem = d.mem := rfl
@[simp] theorem modFirm_flash (f : Firm → Firm) (d : Dev) : (modFirm f d).flash = d.flash := rfl
@[simp] theorem modFirm_bad (f : Firm → Firm) (d : Dev) : (modFirm f d).bad = d.bad := rfl
@[simp] theorem modFirm_weak (f : Firm → Firm) (d : Dev) : (modFirm f d).weak = d.weak := rfl
@[simp] theorem modFirm_plic (f : Firm → Firm) (d : Dev) : (modFirm f d).plic = d.plic := rfl
@[simp] theorem modFirm_bridle (f : Firm → Firm) (d : Dev) : (modFirm f d).bridle = d.bridle := rfl
@[simp] theorem modFirm_plans (f : Firm → Firm) (d : Dev) : (modFirm f d).plans = d.plans := rfl
@[simp] theorem modFirm_queues (f : Firm → Firm) (d : Dev) : (modFirm f d).queues = d.queues := rfl
@[simp] theorem modFirm_flights (f : Firm → Firm) (d : Dev) : (modFirm f d).flights = d.flights := rfl
@[simp] theorem modFirm_reserved (f : Firm → Firm) (d : Dev) : (modFirm f d).reserved = d.reserved := rfl
@[simp] theorem modFirm_rr (f : Firm → Firm) (d : Dev) : (modFirm f d).rr = d.rr := rfl
@[simp] theorem modFirm_disabled (f : Firm → Firm) (d : Dev) : (modFirm f d).disabled = d.disabled := rfl
@[simp] theorem modFirm_tiles (f : Firm → Firm) (d : Dev) : (modFirm f d).tiles = d.tiles := rfl
@[simp] theorem modFirm_tables (f : Firm → Firm) (d : Dev) : (modFirm f d).tables = d.tables := rfl
@[simp] theorem modFirm_stackSt (f : Firm → Firm) (d : Dev) : (modFirm f d).stackSt = d.stackSt := rfl
@[simp] theorem modFirm_trackers (f : Firm → Firm) (d : Dev) : (modFirm f d).trackers = d.trackers := rfl
@[simp] theorem modFirm_frecs (f : Firm → Firm) (d : Dev) : (modFirm f d).frecs = d.frecs := rfl
@[simp] theorem modFirm_counters (f : Firm → Firm) (d : Dev) : (modFirm f d).counters = d.counters := rfl
@[simp] theorem modFirm_trc (f : Firm → Firm) (d : Dev) : (modFirm f d).trc = d.trc := rfl
@[simp] theorem modFirm_farLost (f : Firm → Firm) (d : Dev) : (modFirm f d).farLost = d.farLost := rfl
@[simp] theorem modFirm_fab (f : Firm → Firm) (d : Dev) : (modFirm f d).fab = d.fab := rfl
@[simp] theorem modFirm_harts (f : Firm → Firm) (d : Dev) : (modFirm f d).harts = d.harts := rfl
@[simp] theorem modFirm_colls (f : Firm → Firm) (d : Dev) : (modFirm f d).colls = d.colls := rfl
@[simp] theorem modFirm_ingots (f : Firm → Firm) (d : Dev) : (modFirm f d).ingots = d.ingots := rfl
@[simp] theorem modFirm_twin (f : Firm → Firm) (d : Dev) : (modFirm f d).twin = d.twin := rfl
@[simp] theorem modFirm_led (f : Firm → Firm) (d : Dev) : (modFirm f d).led = d.led := rfl
@[simp] theorem modFirm_pwr (f : Firm → Firm) (d : Dev) : (modFirm f d).pwr = d.pwr := rfl
@[simp] theorem modFirm_tetherReq (f : Firm → Firm) (d : Dev) : (modFirm f d).tetherReq = d.tetherReq := rfl
@[simp] theorem modFirm_fenced (f : Firm → Firm) (d : Dev) : (modFirm f d).fenced = d.fenced := rfl
@[simp] theorem modFirm_loss (f : Firm → Firm) (d : Dev) : (modFirm f d).loss = d.loss := rfl
@[simp] theorem modFirm_launch (f : Firm → Firm) (d : Dev) : (modFirm f d).launch = d.launch := rfl
@[simp] theorem modFirm_pdieBeat (f : Firm → Firm) (d : Dev) : (modFirm f d).pdieBeat = d.pdieBeat := rfl
@[simp] theorem modFirm_hostRead (f : Firm → Firm) (d : Dev) : (modFirm f d).hostRead = d.hostRead := rfl
@[simp] theorem modFirm_mgmtJobs (f : Firm → Firm) (d : Dev) : (modFirm f d).mgmtJobs = d.mgmtJobs := rfl
@[simp] theorem modFirm_mgmtOut (f : Firm → Firm) (d : Dev) : (modFirm f d).mgmtOut = d.mgmtOut := rfl
@[simp] theorem modFirm_wipedAt (f : Firm → Firm) (d : Dev) : (modFirm f d).wipedAt = d.wipedAt := rfl
@[simp] theorem modFirm_plane (f : Firm → Firm) (d : Dev) : (modFirm f d).plane = d.plane := rfl
@[simp] theorem modFirm_planeBad (f : Firm → Firm) (d : Dev) : (modFirm f d).planeBad = d.planeBad := rfl
@[simp] theorem modFirm_collUse (f : Firm → Firm) (d : Dev) : (modFirm f d).collUse = d.collUse := rfl
@[simp] theorem modFirm_draws (f : Firm → Firm) (d : Dev) : (modFirm f d).draws = d.draws := rfl

/-! modIngot changes ingots and no other field. -/

@[simp] theorem modIngot_phase (n : Nat) (f : Ingot → Ingot) (d : Dev) : (modIngot n f d).phase = d.phase := rfl
@[simp] theorem modIngot_clk (n : Nat) (f : Ingot → Ingot) (d : Dev) : (modIngot n f d).clk = d.clk := rfl
@[simp] theorem modIngot_regs (n : Nat) (f : Ingot → Ingot) (d : Dev) : (modIngot n f d).regs = d.regs := rfl
@[simp] theorem modIngot_eff (n : Nat) (f : Ingot → Ingot) (d : Dev) : (modIngot n f d).eff = d.eff := rfl
@[simp] theorem modIngot_mem (n : Nat) (f : Ingot → Ingot) (d : Dev) : (modIngot n f d).mem = d.mem := rfl
@[simp] theorem modIngot_flash (n : Nat) (f : Ingot → Ingot) (d : Dev) : (modIngot n f d).flash = d.flash := rfl
@[simp] theorem modIngot_bad (n : Nat) (f : Ingot → Ingot) (d : Dev) : (modIngot n f d).bad = d.bad := rfl
@[simp] theorem modIngot_weak (n : Nat) (f : Ingot → Ingot) (d : Dev) : (modIngot n f d).weak = d.weak := rfl
@[simp] theorem modIngot_plic (n : Nat) (f : Ingot → Ingot) (d : Dev) : (modIngot n f d).plic = d.plic := rfl
@[simp] theorem modIngot_bridle (n : Nat) (f : Ingot → Ingot) (d : Dev) : (modIngot n f d).bridle = d.bridle := rfl
@[simp] theorem modIngot_plans (n : Nat) (f : Ingot → Ingot) (d : Dev) : (modIngot n f d).plans = d.plans := rfl
@[simp] theorem modIngot_queues (n : Nat) (f : Ingot → Ingot) (d : Dev) : (modIngot n f d).queues = d.queues := rfl
@[simp] theorem modIngot_flights (n : Nat) (f : Ingot → Ingot) (d : Dev) : (modIngot n f d).flights = d.flights := rfl
@[simp] theorem modIngot_reserved (n : Nat) (f : Ingot → Ingot) (d : Dev) : (modIngot n f d).reserved = d.reserved := rfl
@[simp] theorem modIngot_rr (n : Nat) (f : Ingot → Ingot) (d : Dev) : (modIngot n f d).rr = d.rr := rfl
@[simp] theorem modIngot_disabled (n : Nat) (f : Ingot → Ingot) (d : Dev) : (modIngot n f d).disabled = d.disabled := rfl
@[simp] theorem modIngot_tiles (n : Nat) (f : Ingot → Ingot) (d : Dev) : (modIngot n f d).tiles = d.tiles := rfl
@[simp] theorem modIngot_tables (n : Nat) (f : Ingot → Ingot) (d : Dev) : (modIngot n f d).tables = d.tables := rfl
@[simp] theorem modIngot_stackSt (n : Nat) (f : Ingot → Ingot) (d : Dev) : (modIngot n f d).stackSt = d.stackSt := rfl
@[simp] theorem modIngot_trackers (n : Nat) (f : Ingot → Ingot) (d : Dev) : (modIngot n f d).trackers = d.trackers := rfl
@[simp] theorem modIngot_frecs (n : Nat) (f : Ingot → Ingot) (d : Dev) : (modIngot n f d).frecs = d.frecs := rfl
@[simp] theorem modIngot_counters (n : Nat) (f : Ingot → Ingot) (d : Dev) : (modIngot n f d).counters = d.counters := rfl
@[simp] theorem modIngot_trc (n : Nat) (f : Ingot → Ingot) (d : Dev) : (modIngot n f d).trc = d.trc := rfl
@[simp] theorem modIngot_farLost (n : Nat) (f : Ingot → Ingot) (d : Dev) : (modIngot n f d).farLost = d.farLost := rfl
@[simp] theorem modIngot_fab (n : Nat) (f : Ingot → Ingot) (d : Dev) : (modIngot n f d).fab = d.fab := rfl
@[simp] theorem modIngot_harts (n : Nat) (f : Ingot → Ingot) (d : Dev) : (modIngot n f d).harts = d.harts := rfl
@[simp] theorem modIngot_colls (n : Nat) (f : Ingot → Ingot) (d : Dev) : (modIngot n f d).colls = d.colls := rfl
@[simp] theorem modIngot_twin (n : Nat) (f : Ingot → Ingot) (d : Dev) : (modIngot n f d).twin = d.twin := rfl
@[simp] theorem modIngot_led (n : Nat) (f : Ingot → Ingot) (d : Dev) : (modIngot n f d).led = d.led := rfl
@[simp] theorem modIngot_pwr (n : Nat) (f : Ingot → Ingot) (d : Dev) : (modIngot n f d).pwr = d.pwr := rfl
@[simp] theorem modIngot_firm (n : Nat) (f : Ingot → Ingot) (d : Dev) : (modIngot n f d).firm = d.firm := rfl
@[simp] theorem modIngot_tetherReq (n : Nat) (f : Ingot → Ingot) (d : Dev) : (modIngot n f d).tetherReq = d.tetherReq := rfl
@[simp] theorem modIngot_fenced (n : Nat) (f : Ingot → Ingot) (d : Dev) : (modIngot n f d).fenced = d.fenced := rfl
@[simp] theorem modIngot_loss (n : Nat) (f : Ingot → Ingot) (d : Dev) : (modIngot n f d).loss = d.loss := rfl
@[simp] theorem modIngot_launch (n : Nat) (f : Ingot → Ingot) (d : Dev) : (modIngot n f d).launch = d.launch := rfl
@[simp] theorem modIngot_pdieBeat (n : Nat) (f : Ingot → Ingot) (d : Dev) : (modIngot n f d).pdieBeat = d.pdieBeat := rfl
@[simp] theorem modIngot_hostRead (n : Nat) (f : Ingot → Ingot) (d : Dev) : (modIngot n f d).hostRead = d.hostRead := rfl
@[simp] theorem modIngot_mgmtJobs (n : Nat) (f : Ingot → Ingot) (d : Dev) : (modIngot n f d).mgmtJobs = d.mgmtJobs := rfl
@[simp] theorem modIngot_mgmtOut (n : Nat) (f : Ingot → Ingot) (d : Dev) : (modIngot n f d).mgmtOut = d.mgmtOut := rfl
@[simp] theorem modIngot_wipedAt (n : Nat) (f : Ingot → Ingot) (d : Dev) : (modIngot n f d).wipedAt = d.wipedAt := rfl
@[simp] theorem modIngot_plane (n : Nat) (f : Ingot → Ingot) (d : Dev) : (modIngot n f d).plane = d.plane := rfl
@[simp] theorem modIngot_planeBad (n : Nat) (f : Ingot → Ingot) (d : Dev) : (modIngot n f d).planeBad = d.planeBad := rfl
@[simp] theorem modIngot_collUse (n : Nat) (f : Ingot → Ingot) (d : Dev) : (modIngot n f d).collUse = d.collUse := rfl
@[simp] theorem modIngot_draws (n : Nat) (f : Ingot → Ingot) (d : Dev) : (modIngot n f d).draws = d.draws := rfl
end Sys2Proof.Machine
end

