-- ==== Sys2Proof/Laws/Tab.lean ====
section
/-!
SUPPORT. Laws/Tab.lean: what reading and writing a sparse table do, and that every operation keeps its canonical form.
-/
namespace Sys2Proof.Machine

variable {α : Type} [DecidableEq α] {d : Nat → α}

theorem tabWfFrom_mono {lo lo' : Nat} {t : Tab α} (h : tabWfFrom d lo t = true) (hl : lo' ≤ lo) : tabWfFrom d lo' t = true := by
  cases t with
  | nil => rfl
  | cons e t => obtain ⟨a, v⟩ := e; simp only [tabWfFrom, Bool.and_eq_true, decide_eq_true_eq] at h ⊢; exact ⟨⟨by omega, h.1.2⟩, h.2⟩

theorem tabWfFrom_filter {lo : Nat} {p : Nat × α → Bool} {t : Tab α} (h : tabWfFrom d lo t = true) :
    tabWfFrom d lo (t.filter p) = true := by
  induction t generalizing lo with
  | nil => rfl
  | cons e t ih =>
    obtain ⟨a, v⟩ := e
    simp only [tabWfFrom, Bool.and_eq_true, decide_eq_true_eq] at h
    obtain ⟨⟨h1, h2⟩, h3⟩ := h
    by_cases hp : p (a, v) = true
    · simp only [List.filter_cons, hp, if_true, tabWfFrom, Bool.and_eq_true, decide_eq_true_eq]; exact ⟨⟨h1, h2⟩, ih h3⟩
    · simp only [List.filter_cons, hp]; exact tabWfFrom_mono (ih h3) (by omega)

theorem tabWfFrom_cut {lo k : Nat} {t : Tab α} (h : tabWfFrom d lo t = true) : tabWfFrom d lo (tabCut k t) = true :=
  tabWfFrom_filter h

theorem tabCut_above {lo k : Nat} {t : Tab α} (h : tabWfFrom d lo t = true) (hk : k < lo) : tabCut k t = t := by
  induction t generalizing lo with
  | nil => rfl
  | cons e t ih =>
    obtain ⟨a, v⟩ := e
    simp only [tabWfFrom, Bool.and_eq_true, decide_eq_true_eq] at h
    have : (a != k) = true := by simp; omega
    simp only [tabCut, List.filter_cons, this, if_true, List.cons.injEq, true_and]
    exact ih h.2 (by omega)

omit [DecidableEq α] in
theorem tabGet_cut {k j : Nat} {t : Tab α} : tabGet d (tabCut k t) j = if j = k then d j else tabGet d t j := by
  induction t with
  | nil => simp [tabCut, tabGet]
  | cons e t ih =>
    obtain ⟨a, v⟩ := e
    simp only [tabCut] at ih
    by_cases hak : a = k
    · subst hak; simp only [tabCut, List.filter_cons, bne_self_eq_false, Bool.false_eq_true, if_false, ih, tabGet]
      by_cases hj : j = a <;> simp [hj]
    · have : (a != k) = true := by simp [hak]
      simp only [tabCut, List.filter_cons, this, if_true, tabGet, ih]
      by_cases hj : j = a
      · subst hj; simp [hak]
      · simp [hj]

theorem tabWfFrom_tabSet {lo k : Nat} {v : α} {t : Tab α} (h : tabWfFrom d lo t = true) (hk : lo ≤ k) :
    tabWfFrom d lo (tabSet d t k v) = true := by
  induction t generalizing lo with
  | nil => by_cases hv : v = d k <;> simp [tabSet, hv, tabWfFrom, hk]
  | cons e t ih =>
    obtain ⟨a, w⟩ := e
    simp only [tabWfFrom, Bool.and_eq_true, decide_eq_true_eq] at h
    obtain ⟨⟨h1, h2⟩, h3⟩ := h
    simp only [tabSet]
    by_cases hka : k < a
    · by_cases hv : v = d k
      · simp [hka, hv, tabWfFrom, h1, h2, tabWfFrom_cut h3]
      · simp only [hka, hv, if_true, if_false, tabWfFrom, Bool.and_eq_true, decide_eq_true_eq]
        exact ⟨⟨hk, hv⟩, ⟨by omega, h2⟩, tabWfFrom_cut h3⟩
    · by_cases hke : k = a
      · subst hke
        by_cases hv : v = d k
        · simp only [hka, hv, if_true, if_false]; exact tabWfFrom_mono (tabWfFrom_cut h3) (by omega)
        · simp only [hka, hv, if_true, if_false, tabWfFrom, Bool.and_eq_true, decide_eq_true_eq]; exact ⟨⟨hk, hv⟩, tabWfFrom_cut h3⟩
      · simp only [hka, hke, if_false, tabWfFrom, Bool.and_eq_true, decide_eq_true_eq]
        exact ⟨⟨h1, h2⟩, ih h3 (by omega)⟩

/-- A write keeps the canonical form. -/
theorem tabWf_tabSet {k : Nat} {v : α} {t : Tab α} (h : tabWf d t = true) : tabWf d (tabSet d t k v) = true :=
  tabWfFrom_tabSet h (Nat.zero_le k)

theorem tabWf_tabMod {k : Nat} {f : α → α} {t : Tab α} (h : tabWf d t = true) : tabWf d (tabMod d t k f) = true :=
  tabWf_tabSet h

/-- A read after a write: the value written at its key, what was there at every other; of any list. -/
theorem tabGet_tabSet {k j : Nat} {v : α} {t : Tab α} :
    tabGet d (tabSet d t k v) j = if j = k then v else tabGet d t j := by
  induction t with
  | nil => by_cases hv : v = d k <;> by_cases hj : j = k <;> simp [tabSet, hv, hj, tabGet]
  | cons e t ih =>
    obtain ⟨a, w⟩ := e
    simp only [tabSet]
    by_cases hka : k < a
    · have hne : ¬ k = a := by omega
      by_cases hv : v = d k <;> by_cases hj : j = k <;> simp [hka, hv, hj, hne, tabGet, tabGet_cut]
    · by_cases hke : k = a
      · subst hke
        by_cases hv : v = d k <;> by_cases hj : j = k <;> simp [hv, hj, tabGet, tabGet_cut]
      · by_cases hj : j = a
        · subst hj; have : ¬ j = k := fun h => hke h.symm
          simp [hka, hke, tabGet, this]
        · simp only [hka, hke, if_false, tabGet, hj]; exact ih

theorem tabGet_tabMod {k j : Nat} {f : α → α} {t : Tab α} :
    tabGet d (tabMod d t k f) j = if j = k then f (tabGet d t k) else tabGet d t j := tabGet_tabSet

/-- Putting a list in canonical form changes no reading. -/
@[simp] theorem tabGet_tabCanon (t : Tab α) (j : Nat) : tabGet d (tabCanon d t) j = tabGet d t j := by
  induction t with
  | nil => rfl
  | cons e t ih =>
    have ht : tabCanon d (e :: t) = tabSet d (tabCanon d t) e.1 e.2 := rfl
    rw [ht, tabGet_tabSet, ih]; obtain ⟨a, v⟩ := e; rfl

/-- The canonical form of any list. -/
theorem tabWf_tabCanon (t : Tab α) : tabWf d (tabCanon d t) = true := by
  induction t with
  | nil => rfl
  | cons e t ih => exact tabWf_tabSet ih

theorem tabCanon_from {lo : Nat} {t : Tab α} (h : tabWfFrom d lo t = true) : tabCanon d t = t := by
  induction t generalizing lo with
  | nil => rfl
  | cons e t ih =>
    obtain ⟨a, v⟩ := e
    simp only [tabWfFrom, Bool.and_eq_true, decide_eq_true_eq] at h
    obtain ⟨⟨h1, h2⟩, h3⟩ := h
    have ht : tabCanon d ((a, v) :: t) = tabSet d (tabCanon d t) a v := rfl
    rw [ht, ih h3]
    cases t with
    | nil => simp [tabSet, h2]
    | cons e' t' =>
      obtain ⟨b, w⟩ := e'
      simp only [tabWfFrom, Bool.and_eq_true, decide_eq_true_eq] at h3
      have : a < b := by omega
      simp [tabSet, this, h2, tabCut_above h3.2 (show a < b + 1 by omega)]

/-- Putting a table in canonical form leaves one that is alone. -/
theorem tabCanon_of_wf {t : Tab α} (h : tabWf d t = true) : tabCanon d t = t := tabCanon_from h

/-- Dropping keys keeps the canonical form. -/
theorem tabWf_tabDrop {lo hi : Nat} {t : Tab α} (h : tabWf d t = true) : tabWf d (tabDrop lo hi t) = true := tabWfFrom_filter h

omit [DecidableEq α] in
/-- After keys are dropped they read as their defaults; every other key reads as before. -/
theorem tabGet_tabDrop {lo hi j : Nat} {t : Tab α} :
    tabGet d (tabDrop lo hi t) j = if lo ≤ j ∧ j < hi then d j else tabGet d t j := by
  induction t with
  | nil => simp [tabDrop, tabGet]
  | cons e t ih =>
    obtain ⟨a, v⟩ := e
    simp only [tabDrop] at ih ⊢
    by_cases hp : a < lo ∨ hi ≤ a
    · have : (decide (a < lo) || decide (hi ≤ a)) = true := by simpa using hp
      simp only [List.filter_cons, this, if_true, tabGet]
      by_cases hj : j = a
      · subst hj; have : ¬ (lo ≤ j ∧ j < hi) := by omega
        simp [this]
      · simp only [hj, if_false]; exact ih
    · have : (decide (a < lo) || decide (hi ≤ a)) = false := by
        simp only [Bool.or_eq_false_iff, decide_eq_false_iff_not]; omega
      simp only [List.filter_cons, this, Bool.false_eq_true, if_false, ih, tabGet]
      by_cases hj : j = a
      · subst hj; have : lo ≤ j ∧ j < hi := by omega
        simp [this]
      · simp [hj]

end Sys2Proof.Machine
end

