-- ==== Sys2Proof/Laws/Ops.lean ====
section
/-!
SUPPORT. Laws/Ops.lean: what the shared operations do: registers and their fields, bytes of memory, the canonical form, and the
outcome of a command.
-/
namespace Sys2Proof.Machine

/-! Outcomes. -/

theorem formed_canonDev (d : Dev) : Formed (canonDev d) := by
  constructor <;> exact tabWf_tabCanon _

/-- The canonical form of a device in canonical form is the device. -/
theorem canonDev_of_formed {d : Dev} (h : Formed d) : canonDev d = d := by
  have h1 : tabCanon memRest d.mem = d.mem := tabCanon_of_wf h.mem
  simp only [canonDev, h1, tabCanon_of_wf h.regs, tabCanon_of_wf h.eff, tabCanon_of_wf h.flash, tabCanon_of_wf h.queues,
    tabCanon_of_wf h.reserved, tabCanon_of_wf h.rr, tabCanon_of_wf h.tiles, tabCanon_of_wf h.stackSt, tabCanon_of_wf h.trackers,
    tabCanon_of_wf h.counters, tabCanon_of_wf h.harts]

/-- A command with an effect on the device answers a next state that has that effect. -/
theorem onDev_next {s : State} {f : Dev → Dev} (h : Formed (f s.dev)) : onDev s f = .next { s with dev := f s.dev } := by
  simp [onDev, canonDev_of_formed h]

/-! What a command leaves is read as it was made: canonical form changes no reading. -/

@[simp] theorem rg_canonDev (d : Dev) (o : Nat) : rg (canonDev d) o = rg d o := tabGet_tabCanon _ _
@[simp] theorem rf_canonDev (d : Dev) (o lo n : Nat) : rf (canonDev d) o lo n = rf d o lo n := by rw [rf, rg_canonDev, rf]
@[simp] theorem rb_canonDev (d : Dev) (o i : Nat) : rb (canonDev d) o i = rb d o i := by rw [rb, rg_canonDev, rb]
@[simp] theorem byteAt_canonDev (d : Dev) (a : Nat) : byteAt (canonDev d) a = byteAt d a := tabGet_tabCanon _ _
@[simp] theorem queueAt_canonDev (d : Dev) (q : Nat) : queueAt (canonDev d) q = queueAt d q := tabGet_tabCanon _ _
@[simp] theorem stackAt_canonDev (d : Dev) (n : Nat) : stackAt (canonDev d) n = stackAt d n := tabGet_tabCanon _ _
@[simp] theorem trackerAt_canonDev (d : Dev) (n : Nat) : trackerAt (canonDev d) n = trackerAt d n := tabGet_tabCanon _ _
@[simp] theorem tileAt_canonDev (d : Dev) (n : Nat) : tileAt (canonDev d) n = tileAt d n := tabGet_tabCanon _ _
@[simp] theorem hartAt_canonDev (d : Dev) (n : Nat) : hartAt (canonDev d) n = hartAt d n := tabGet_tabCanon _ _

/-- The next state of a command on the device. -/
theorem onDev_eq (s : State) (f : Dev → Dev) : onDev s f = .next { s with dev := canonDev (f s.dev) } := rfl

theorem withFlight_served {op q seq : Nat} {f : Flight} {d : Dev} (body : Flight → Dev → Dev) (h : Served d op q seq f) :
    withFlight op q seq body d = body f d := by
  obtain ⟨h1, h2, h3, h4, h5⟩ := h
  simp [withFlight, h1, h2, Flight.waitingNow, h3, h4, h5]

/-- A command in flight that is served answers what its body makes of the device. -/
theorem served_next {op q seq : Nat} {f : Flight} {s : State} (body : Flight → Dev → Dev) (h : Served s.dev op q seq f)
    (hf : Formed (body f s.dev)) : onDev s (withFlight op q seq body) = .next { s with dev := body f s.dev } := by
  rw [onDev_next (by rw [withFlight_served body h]; exact hf), withFlight_served body h]

/-! Canonical form. -/

/-- The tables of a device. -/
def tabsOf (d : Dev) := (d.mem, d.regs, d.eff, d.flash, d.queues, d.reserved, d.rr, d.tiles, d.stackSt, d.trackers, d.counters, d.harts)

/-- An update that leaves every table alone keeps the canonical form. -/
theorem formed_of_tabs {d e : Dev} (h : Formed d) (he : tabsOf e = tabsOf d) : Formed e := by
  simp only [tabsOf, Prod.mk.injEq] at he
  obtain ⟨h1, h2, h3, h4, h5, h6, h7, h8, h9, h10, h11, h12⟩ := he
  exact ⟨h1 ▸ h.mem, h2 ▸ h.regs, h3 ▸ h.eff, h4 ▸ h.flash, h5 ▸ h.queues, h6 ▸ h.reserved, h7 ▸ h.rr, h8 ▸ h.tiles, h9 ▸ h.stackSt,
    h10 ▸ h.trackers, h11 ▸ h.counters, h12 ▸ h.harts⟩

@[simp] theorem formed_setReg {d : Dev} {o : Nat} {v : Word} (h : Formed d) : Formed (setReg d o v) := { h with regs := tabWf_tabSet h.regs }
@[simp] theorem formed_setRegN {d : Dev} {o v : Nat} (h : Formed d) : Formed (setRegN d o v) := formed_setReg h
@[simp] theorem formed_setF {d : Dev} {o lo n v : Nat} (h : Formed d) : Formed (setF d o lo n v) := formed_setReg h
@[simp] theorem formed_setB {d : Dev} {o i : Nat} {b : Bool} (h : Formed d) : Formed (setB d o i b) := formed_setReg h
@[simp] theorem formed_addSat {d : Dev} {o lo n k : Nat} (h : Formed d) : Formed (addSat d o lo n k) := formed_setReg h
@[simp] theorem formed_latch {d : Dev} {o : Nat} (h : Formed d) : Formed (latch d o) := { h with eff := tabWf_tabSet h.eff }
@[simp] theorem formed_pass {d : Dev} {n : Nat} (h : Formed d) : Formed (pass n d) := formed_of_tabs h rfl
@[simp] theorem formed_frecMod {d : Dev} {n : Nat} {f : FrameRec → FrameRec} (h : Formed d) : Formed (frecMod n f d) := formed_of_tabs h rfl
@[simp] theorem formed_note {d : Dev} {a b c : Nat} (h : Formed d) : Formed (note a b c d) := formed_of_tabs h rfl
@[simp] theorem formed_noteBits {d : Dev} {a b : Nat} (h : Formed d) : Formed (noteBits a b d) := formed_of_tabs h rfl
@[simp] theorem formed_noteFlag {d : Dev} {a : Nat} (h : Formed d) : Formed (noteFlag a d) := formed_of_tabs h rfl
@[simp] theorem formed_modFlight {d : Dev} {q n : Nat} {f : Flight → Flight} (h : Formed d) : Formed (modFlight q n f d) := formed_of_tabs h rfl
@[simp] theorem formed_finish {d : Dev} {q n a b c : Nat} (h : Formed d) : Formed (finish q n a b c d) := formed_of_tabs h rfl
@[simp] theorem formed_modLink {d : Dev} {n : Nat} {f : Link → Link} (h : Formed d) : Formed (modLink n f d) := formed_of_tabs h rfl
@[simp] theorem formed_modPeer {d : Dev} {n : Nat} {f : Peer → Peer} (h : Formed d) : Formed (modPeer n f d) := formed_of_tabs h rfl
@[simp] theorem formed_modTrc {d : Dev} {f : Trace → Trace} (h : Formed d) : Formed (modTrc f d) := formed_of_tabs h rfl
@[simp] theorem formed_modPwr {d : Dev} {f : Power → Power} (h : Formed d) : Formed (modPwr f d) := formed_of_tabs h rfl
@[simp] theorem formed_modFirm {d : Dev} {f : Firm → Firm} (h : Formed d) : Formed (modFirm f d) := formed_of_tabs h rfl
@[simp] theorem formed_modIngot {d : Dev} {n : Nat} {f : Ingot → Ingot} (h : Formed d) : Formed (modIngot n f d) := formed_of_tabs h rfl
@[simp] theorem formed_raise {d : Dev} {n : Nat} (h : Formed d) : Formed (raise n d) := by
  unfold raise; split
  · exact h
  · exact formed_of_tabs h rfl
@[simp] theorem formed_modStack {d : Dev} {n : Nat} {f : Stack → Stack} (h : Formed d) : Formed (modStack n f d) := { h with stackSt := tabWf_tabSet h.stackSt }
@[simp] theorem formed_modTracker {d : Dev} {n : Nat} {f : Tracker → Tracker} (h : Formed d) : Formed (modTracker n f d) := { h with trackers := tabWf_tabSet h.trackers }
@[simp] theorem formed_modTile {d : Dev} {n : Nat} {f : TileSt → TileSt} (h : Formed d) : Formed (modTile n f d) := { h with tiles := tabWf_tabSet h.tiles }
@[simp] theorem formed_modQueue {d : Dev} {n : Nat} {f : QueueX → QueueX} (h : Formed d) : Formed (modQueue n f d) := { h with queues := tabWf_tabSet h.queues }
@[simp] theorem formed_modHart {d : Dev} {n : Nat} {f : Hart → Hart} (h : Formed d) : Formed (modHart n f d) := { h with harts := tabWf_tabSet h.harts }
@[simp] theorem formed_setReserved {d : Dev} {e c : Nat} (h : Formed d) : Formed (setReserved e c d) := { h with reserved := tabWf_tabSet h.reserved }

/-! Entries of the device's tables. -/

theorem queueAt_modQueue {d : Dev} (q p : Nat) (f : QueueX → QueueX) :
    queueAt (modQueue q f d) p = if p = q then f (queueAt d q) else queueAt d p := tabGet_tabMod
theorem stackAt_modStack {d : Dev} (q p : Nat) (f : Stack → Stack) :
    stackAt (modStack q f d) p = if p = q then f (stackAt d q) else stackAt d p := tabGet_tabMod
theorem trackerAt_modTracker {d : Dev} (q p : Nat) (f : Tracker → Tracker) :
    trackerAt (modTracker q f d) p = if p = q then f (trackerAt d q) else trackerAt d p := tabGet_tabMod
theorem tileAt_modTile {d : Dev} (q p : Nat) (f : TileSt → TileSt) :
    tileAt (modTile q f d) p = if p = q then f (tileAt d q) else tileAt d p := tabGet_tabMod
theorem hartAt_modHart {d : Dev} (q p : Nat) (f : Hart → Hart) :
    hartAt (modHart q f d) p = if p = q then f (hartAt d q) else hartAt d p := tabGet_tabMod
theorem ef_latch {d : Dev} (o p lo n : Nat) : ef (latch d o) p lo n = if p = o then rf d o lo n else ef d p lo n := by
  have : tabGet regReset (latch d o).eff p = if p = o then rg d o else tabGet regReset d.eff p := tabGet_tabSet
  simp only [ef, rf, this]; split <;> rfl

/-! Registers and their fields. -/

theorem rg_setReg {d : Dev} (o p : Nat) (v : Word) : rg (setReg d o v) p = if p = o then v else rg d p :=
  tabGet_tabSet

theorem rg_setReg_same {d : Dev} (o : Nat) (v : Word) : rg (setReg d o v) o = v := by simp [rg_setReg]

theorem rg_setReg_other {d : Dev} {o p : Nat} (v : Word) (hp : p ≠ o) : rg (setReg d o v) p = rg d p := by
  simp [rg_setReg, hp]

theorem rg_setF_other {d : Dev} {o p lo n v : Nat} (hp : p ≠ o) : rg (setF d o lo n v) p = rg d p :=
  rg_setReg_other _ hp

theorem rg_setF_same {d : Dev} (o lo n v : Nat) : rg (setF d o lo n v) o = wput (rg d o) lo n v :=
  rg_setReg_same _ _

/-- The field just set. -/
theorem rf_setF_same {d : Dev} {o lo n v : Nat} (hn : lo + n ≤ 64) : rf (setF d o lo n v) o lo n = v % 2 ^ n := by
  rw [rf, rg_setF_same, wbits_wput_same hn]

/-- A field apart from the one set. -/
theorem rf_setF_apart {d : Dev} {o lo n v lo' n' : Nat} (hn : lo + n ≤ 64) (hd : lo' + n' ≤ lo ∨ lo + n ≤ lo') :
    rf (setF d o lo n v) o lo' n' = rf d o lo' n' := by
  rw [rf, rg_setF_same, wbits_wput_other hn hd, rf]

/-- A field of another register. -/
theorem rf_setF_other {d : Dev} {o p lo n v lo' n' : Nat} (hp : p ≠ o) :
    rf (setF d o lo n v) p lo' n' = rf d p lo' n' := by
  rw [rf, rg_setF_other hp, rf]

theorem rb_eq (d : Dev) (o i : Nat) : rb d o i = (rf d o i 1 == 1) := rfl

theorem rb_setB_same {d : Dev} {o i : Nat} {b : Bool} (hi : i < 64) : rb (setB d o i b) o i = b := by
  rw [rb_eq, setB, rf_setF_same (by omega)]; cases b <;> rfl

theorem rb_setF_apart {d : Dev} {o lo n v i : Nat} (hn : lo + n ≤ 64) (hd : i < lo ∨ lo + n ≤ i) :
    rb (setF d o lo n v) o i = rb d o i := by
  rw [rb_eq, rf_setF_apart hn (by omega), rb_eq]

theorem rg_of_eq {d e : Dev} (h : e.regs = d.regs) (o : Nat) : rg e o = rg d o := by simp [rg, h]

theorem byteAt_of_eq {d e : Dev} (h : e.mem = d.mem) (a : Nat) : byteAt e a = byteAt d a := by simp [byteAt, h]

theorem OnlyRegs.refl (d : Dev) : OnlyRegs d d := rfl
theorem OnlyRegs.setReg {d e : Dev} (h : OnlyRegs d e) (o : Nat) (v : Word) : OnlyRegs d (setReg e o v) := by
  unfold OnlyRegs at h ⊢; conv => lhs; rw [h]
  rfl
theorem OnlyRegs.setF {d e : Dev} (h : OnlyRegs d e) (o lo n v : Nat) : OnlyRegs d (setF e o lo n v) := h.setReg _ _
theorem OnlyRegs.setB {d e : Dev} (h : OnlyRegs d e) (o i : Nat) (b : Bool) : OnlyRegs d (setB e o i b) := h.setReg _ _

/-! What an effect leaves alone. -/

/-- An effect on registers of `R` and bytes of `M` only, which keeps the canonical form. -/
structure Touches (R M : Nat → Prop) (d e : Dev) : Prop where
  formed : Formed e
  regs : RegsKept R d e
  mem : MemKept M d e

theorem Touches.refl {R M : Nat → Prop} {d : Dev} (h : Formed d) : Touches R M d d :=
  ⟨h, fun _ _ => rfl, fun _ _ => rfl⟩

theorem Touches.trans {R M : Nat → Prop} {d e g : Dev} (h1 : Touches R M d e) (h2 : Touches R M e g) : Touches R M d g :=
  ⟨h2.formed, fun o ho => (h2.regs o ho).trans (h1.regs o ho), fun a ha => (h2.mem a ha).trans (h1.mem a ha)⟩

theorem Touches.mono {R R' M M' : Nat → Prop} {d e : Dev} (h : Touches R M d e) (hR : ∀ o, R o → R' o) (hM : ∀ a, M a → M' a) :
    Touches R' M' d e :=
  ⟨h.formed, fun o ho => h.regs o fun x => ho (hR o x), fun a ha => h.mem a fun x => ha (hM a x)⟩

/-- A further effect on other fields touches no register and no byte. -/
theorem Touches.of_tabs {R M : Nat → Prop} {d e g : Dev} (h : Touches R M d e) (h1 : tabsOf g = tabsOf e) : Touches R M d g := by
  refine ⟨formed_of_tabs h.formed h1, ?_, ?_⟩
  · simp only [tabsOf, Prod.mk.injEq] at h1; exact fun o ho => (rg_of_eq h1.2.1 o).trans (h.regs o ho)
  · simp only [tabsOf, Prod.mk.injEq] at h1; exact fun a ha => (byteAt_of_eq h1.1 a).trans (h.mem a ha)

section
variable {R M : Nat → Prop} {d e : Dev}

theorem Touches.setReg (h : Touches R M d e) {o : Nat} {v : Word} (ho : R o) : Touches R M d (setReg e o v) :=
  h.trans ⟨formed_setReg h.formed, fun _ hp => rg_setReg_other v (fun x => hp (x ▸ ho)), fun _ _ => rfl⟩
theorem Touches.setRegN (h : Touches R M d e) {o v : Nat} (ho : R o) : Touches R M d (setRegN e o v) := h.setReg ho
theorem Touches.setF (h : Touches R M d e) {o lo n v : Nat} (ho : R o) : Touches R M d (setF e o lo n v) := h.setReg ho
theorem Touches.setB (h : Touches R M d e) {o i : Nat} {b : Bool} (ho : R o) : Touches R M d (setB e o i b) := h.setReg ho
theorem Touches.addSat (h : Touches R M d e) {o lo n k : Nat} (ho : R o) : Touches R M d (addSat e o lo n k) := h.setReg ho
theorem Touches.raise (h : Touches R M d e) {n : Nat} : Touches R M d (raise n e) := by
  unfold Machine.raise; split
  · exact h
  · exact h.of_tabs rfl
theorem Touches.modStack (h : Touches R M d e) {n : Nat} {f : Stack → Stack} : Touches R M d (modStack n f e) :=
  ⟨formed_modStack h.formed, h.regs, h.mem⟩
theorem Touches.modTracker (h : Touches R M d e) {n : Nat} {f : Tracker → Tracker} : Touches R M d (modTracker n f e) :=
  ⟨formed_modTracker h.formed, h.regs, h.mem⟩
theorem Touches.modTile (h : Touches R M d e) {n : Nat} {f : TileSt → TileSt} : Touches R M d (modTile n f e) :=
  ⟨formed_modTile h.formed, h.regs, h.mem⟩
theorem Touches.modHart (h : Touches R M d e) {n : Nat} {f : Hart → Hart} : Touches R M d (modHart n f e) :=
  ⟨formed_modHart h.formed, h.regs, h.mem⟩
theorem Touches.latch (h : Touches R M d e) {o : Nat} : Touches R M d (latch e o) := ⟨formed_latch h.formed, h.regs, h.mem⟩
theorem Touches.ite {p : Prop} [Decidable p] {a b : Dev} (h1 : p → Touches R M d a) (h2 : ¬ p → Touches R M d b) :
    Touches R M d (if p then a else b) := by
  split
  · exact h1 ‹_›
  · exact h2 ‹_›
end

end Sys2Proof.Machine
end

