-- ==== Sys2Proof/Laws/Mem.lean ====
section
/-!
SUPPORT. Laws/Mem.lean: what writes of memory do: the bytes they store, the bytes and registers they leave alone, and that memory
keeps its canonical form.
-/
namespace Sys2Proof.Machine

/-! Bytes stored. -/

theorem memory_wf_putMem {m : Tab Byte} (bs : List Byte) (a : Nat) (h : Memory.wf m = true) : Memory.wf (putMem m a bs) = true := by
  induction bs generalizing m a with
  | nil => exact h
  | cons b t ih => exact ih (a + 1) (tabWf_tabSet h)

theorem tabGet_putMem {m : Tab Byte} (bs : List Byte) (a x : Nat) (h : Memory.wf m = true) :
    tabGet memRest (putMem m a bs) x = if a ≤ x ∧ x < a + bs.length then bs.getD (x - a) 0 else tabGet memRest m x := by
  induction bs generalizing m a with
  | nil => rw [if_neg (by simp only [List.length_nil]; omega)]; rfl
  | cons b t ih =>
    rw [putMem, ih (a + 1) (tabWf_tabSet h), tabGet_tabSet]
    by_cases h1 : a + 1 ≤ x ∧ x < a + 1 + t.length
    · have : a ≤ x ∧ x < a + (b :: t).length := by simp only [List.length_cons]; omega
      rw [if_pos h1, if_pos this]
      have : x - a = (x - (a + 1)) + 1 := by omega
      rw [this, List.getD_cons_succ]
    · rw [if_neg h1]
      by_cases h2 : x = a
      · subst h2; simp
      · have : ¬ (a ≤ x ∧ x < a + (b :: t).length) := by simp only [List.length_cons]; omega
        rw [if_neg h2, if_neg this]

/-- Every memory operation keeps the canonical form: storing bytes, wiping, and the form any command ends in. -/
theorem memory_wf_poke {d : Dev} (a : Nat) (bs : List Byte) (h : Memory.wf d.mem = true) : Memory.wf (poke a bs d).mem = true :=
  memory_wf_putMem bs a h

theorem memory_wf_wipe {d : Dev} (a n : Nat) (h : Memory.wf d.mem = true) : Memory.wf (wipe a n d).mem = true := tabWf_tabDrop h

theorem memory_wf_canonDev (d : Dev) : Memory.wf (canonDev d).mem = true := tabWf_tabCanon _

theorem tabWf_dropResv {a n : Nat} {hs : Tab Hart} (h : tabWf hart0 hs = true) : tabWf hart0 (dropResv a n hs) = true := by
  unfold dropResv; split
  · exact tabWf_tabCanon _
  · exact h

@[simp] theorem formed_poke {d : Dev} {a : Nat} {bs : List Byte} (h : Formed d) : Formed (poke a bs d) :=
  { h with mem := memory_wf_putMem bs a h.mem, harts := tabWf_dropResv h.harts }

@[simp] theorem formed_wipe {d : Dev} {a n : Nat} (h : Formed d) : Formed (wipe a n d) := { h with mem := tabWf_tabDrop h.mem }

/-- A byte after bytes were stored. -/
theorem byteAt_poke {d : Dev} (h : Formed d) (a : Nat) (bs : List Byte) (x : Nat) :
    byteAt (poke a bs d) x = if a ≤ x ∧ x < a + bs.length then bs.getD (x - a) 0 else byteAt d x :=
  tabGet_putMem bs a x h.1

/-- A byte after a range was wiped. -/
theorem byteAt_wipe {d : Dev} (a n x : Nat) :
    byteAt (wipe a n d) x = if a ≤ x ∧ x < a + n then 0#8 else byteAt d x := tabGet_tabDrop

@[simp] theorem poke_regs (a : Nat) (bs : List Byte) (d : Dev) : (poke a bs d).regs = d.regs := rfl
@[simp] theorem poke_trackers (a : Nat) (bs : List Byte) (d : Dev) : (poke a bs d).trackers = d.trackers := rfl
@[simp] theorem poke_flights (a : Nat) (bs : List Byte) (d : Dev) : (poke a bs d).flights = d.flights := rfl
@[simp] theorem poke_queues (a : Nat) (bs : List Byte) (d : Dev) : (poke a bs d).queues = d.queues := rfl
@[simp] theorem poke_tiles (a : Nat) (bs : List Byte) (d : Dev) : (poke a bs d).tiles = d.tiles := rfl
@[simp] theorem poke_plic (a : Nat) (bs : List Byte) (d : Dev) : (poke a bs d).plic = d.plic := rfl
@[simp] theorem poke_clk (a : Nat) (bs : List Byte) (d : Dev) : (poke a bs d).clk = d.clk := rfl

theorem Touches.poke {R M : Nat → Prop} {d e : Dev} (h : Touches R M d e) {a : Nat} {bs : List Byte}
    (hm : ∀ x, a ≤ x → x < a + bs.length → M x) : Touches R M d (poke a bs e) :=
  h.trans ⟨formed_poke h.formed, fun _ _ => rfl, fun x hx => by rw [byteAt_poke h.formed, if_neg fun y => hx (hm x y.1 y.2)]⟩

theorem length_ldBytes (d : Dev) (a n : Nat) : (ldBytes d a n).length = n := by
  induction n generalizing a with
  | zero => rfl
  | succ n ih => simp [ldBytes, ih]

theorem ldBytes_congr {d e : Dev} {a n : Nat} (h : ∀ x, a ≤ x → x < a + n → byteAt e x = byteAt d x) :
    ldBytes e a n = ldBytes d a n := by
  induction n generalizing a with
  | zero => rfl
  | succ n ih =>
    rw [ldBytes, ldBytes, h a (Nat.le_refl a) (by omega), ih fun x h1 h2 => h x (by omega) (by omega)]

theorem ld_congr {d e : Dev} {a n : Nat} (h : ∀ x, a ≤ x → x < a + n → byteAt e x = byteAt d x) : ld e a n = ld d a n := by
  induction n generalizing a with
  | zero => rfl
  | succ n ih => rw [ld, ld, h a (Nat.le_refl a) (by omega), ih fun x h1 h2 => h x (by omega) (by omega)]

theorem ldBytes_of_getD {d : Dev} {a : Nat} {bs : List Byte} (h : ∀ i, i < bs.length → byteAt d (a + i) = bs.getD i 0) :
    ldBytes d a bs.length = bs := by
  induction bs generalizing a with
  | nil => rfl
  | cons b t ih =>
    rw [List.length_cons, ldBytes]
    have h0 := h 0 (by simp)
    simp only [Nat.add_zero, List.getD_cons_zero] at h0
    rw [h0, ih fun i hi => ?_]
    have := h (i + 1) (by simpa using hi)
    rw [List.getD_cons_succ] at this
    rw [← this]; congr 1; omega

/-- The bytes just stored. -/
theorem ldBytes_poke {d : Dev} (h : Formed d) (a : Nat) (bs : List Byte) : ldBytes (poke a bs d) a bs.length = bs := by
  apply ldBytes_of_getD
  intro i hi
  rw [byteAt_poke h, if_pos (by omega)]; congr 1; omega

/-! The address map. -/

/-- The address map and the state of its lines depend on these fields alone. -/
structure SameMap (d e : Dev) : Prop where
  regs : e.regs = d.regs
  eff : e.eff = d.eff
  fenced : e.fenced = d.fenced
  farLost : e.farLost = d.farLost
  stackSt : e.stackSt = d.stackSt
  bad : e.bad = d.bad
  collUse : e.collUse = d.collUse

section
variable {d e : Dev}

theorem rg_map (h : SameMap d e) : rg e = rg d := funext fun o => rg_of_eq h.regs o
theorem rf_map (h : SameMap d e) : rf e = rf d := by funext o lo n; simp [rf, rg_map h]
theorem rb_map (h : SameMap d e) : rb e = rb d := by funext o i; simp [rb, rg_map h]
theorem ef_map (h : SameMap d e) : ef e = ef d := by funext o lo n; simp [ef, h.eff]
theorem tileGone_map (h : SameMap d e) : tileGone e = tileGone d := by
  funext t; simp [tileGone, tileAbsent, physTile, ef_map h, h.fenced]
theorem stackOf_map (h : SameMap d e) : stackOf e = stackOf d := by funext a; simp [stackOf, retired, ef_map h]
theorem farSets_map (h : SameMap d e) : farSets e = farSets d := by
  simp [farSets, farIn, farCap, rf_map h, rb_map h, h.farLost]
theorem farLen_map (h : SameMap d e) : farLen e = farLen d := by simp [farLen, farSets_map h]
theorem poolBytes_map (h : SameMap d e) : poolBytes e = poolBytes d := by simp [poolBytes, ef_map h]
theorem regionOf_map (h : SameMap d e) : regionOf e = regionOf d := by
  funext a; simp [regionOf, stackOf_map h, tileGone_map h, poolBytes_map h, farLen_map h, farSets_map h, ef_map h]
theorem lineErr_map (h : SameMap d e) : lineErr e = lineErr d := by
  funext l; simp [lineErr, regionOf_map h, stackAt, h.stackSt, h.bad, rb_map h]
theorem firstErr_map (h : SameMap d e) (n l : Nat) : firstErr e n l = firstErr d n l := by
  induction n generalizing l with
  | zero => rfl
  | succ n ih => simp [firstErr, lineErr_map h, ih]
theorem readErr_map (h : SameMap d e) (a n : Nat) : readErr e a n = readErr d a n := firstErr_map h _ _
theorem lineWriteErr_map (h : SameMap d e) (a n l : Nat) : lineWriteErr e a n l = lineWriteErr d a n l := by
  simp only [lineWriteErr, lineErr_map h, regionOf_map h, stackAt, h.stackSt]; rfl
theorem firstWriteErr_map (h : SameMap d e) (a n k l : Nat) : firstWriteErr e a n k l = firstWriteErr d a n k l := by
  induction k generalizing l with
  | zero => rfl
  | succ k ih => simp [firstWriteErr, lineWriteErr_map h, ih]
theorem writeErr_map (h : SameMap d e) (a n : Nat) : writeErr e a n = writeErr d a n := firstWriteErr_map h _ _ _ _
end

/-! Writes by requesters. -/

theorem mustHold_congr {d e : Dev} (h : e.trackers = d.trackers) (x : Nat) : mustHold e x = mustHold d x := by
  simp [mustHold, trackerAt, h]

theorem noHolds_congr {d e : Dev} (h : e.trackers = d.trackers) (hd : NoHolds d) : NoHolds e :=
  fun x => by rw [mustHold_congr h]; exact hd x

theorem noHolds_of_nil {d : Dev} (h : d.trackers = []) : NoHolds d := by
  intro x; simp [mustHold, trackerAt, h, tabGet, tracker0, owesGranule]

section
variable {R M : Nat → Prop} {d e : Dev}

theorem Touches.writePiece (h : Touches R M d e) {r : Req} {a : Nat} {bs : List Byte}
    (hR : ∀ k, R (aCbwStat k)) (hm : ∀ x, a ≤ x → x < a + bs.length → M x) : Touches R M d (writePiece r a bs e) := by
  unfold Machine.writePiece; dsimp only; split
  · exact (h.modTracker.addSat (hR _)).of_tabs rfl
  · exact h.poke hm

theorem Touches.memWriteF (h : Touches R M d e) {r : Req} (n : Nat) {a : Nat} {bs : List Byte} (hR : ∀ k, R (aCbwStat k))
    (hm : ∀ x, a ≤ x → x < a + bs.length → M x) : Touches R M d (memWriteF r n a bs e) := by
  induction n generalizing a bs e with
  | zero => exact h
  | succ n ih =>
    rw [Machine.memWriteF]; split
    · exact h
    · refine ih (h.writePiece hR fun x h1 h2 => hm x h1 ?_) fun x h2 h3 => hm x (by omega) ?_
      · rw [List.length_take] at h2; omega
      · rw [List.length_drop] at h3; omega

theorem Touches.ownLines (h : Touches R M d e) {r : Req} {a n : Nat} : Touches R M d (ownLines r a n e) := by
  unfold Machine.ownLines; split
  · exact h.modTile
  · exact h

/-- Everything a write can do to registers and memory: it stores its bytes, or a copy session holds them and counts a stall. -/
theorem Touches.memWrite (h : Touches R M d e) {r : Req} {a : Nat} {bs : List Byte} (hR : ∀ k, R (aCbwStat k))
    (hm : ∀ x, a ≤ x → x < a + bs.length → M x) : Touches R M d (memWrite r a bs e) :=
  (h.memWriteF _ hR hm).ownLines

theorem length_bytesOf (n v : Nat) : (bytesOf n v).length = n := by
  induction n generalizing v with
  | zero => rfl
  | succ n ih => simp [bytesOf, ih]

theorem Touches.memWriteN (h : Touches R M d e) {r : Req} {a n v : Nat} (hR : ∀ k, R (aCbwStat k))
    (hm : ∀ x, a ≤ x → x < a + n → M x) : Touches R M d (memWriteN r a n v e) :=
  h.memWrite hR (by rw [length_bytesOf]; exact hm)
end

/-- Fields other than memory, tile stores' read caches and harts' reservations of a device. -/
structure SameButMem (d e : Dev) : Prop where
  regs : e.regs = d.regs
  trackers : e.trackers = d.trackers
  flights : e.flights = d.flights
  queues : e.queues = d.queues
  plic : e.plic = d.plic
  clk : e.clk = d.clk

theorem sameButMem_poke (a : Nat) (bs : List Byte) (d : Dev) : SameButMem d (poke a bs d) := ⟨rfl, rfl, rfl, rfl, rfl, rfl⟩

theorem SameButMem.trans {d e g : Dev} (h1 : SameButMem d e) (h2 : SameButMem e g) : SameButMem d g :=
  ⟨h2.1.trans h1.1, h2.2.trans h1.2, h2.3.trans h1.3, h2.4.trans h1.4, h2.5.trans h1.5, h2.6.trans h1.6⟩

theorem memWriteF_noHolds {r : Req} (n a : Nat) (bs : List Byte) (d : Dev) (h : Formed d) (hh : NoHolds d)
    (hn : bs.length + a % 0x40000 ≤ n * 0x40000) :
    Formed (memWriteF r n a bs d) ∧ SameButMem d (memWriteF r n a bs d) ∧
    ∀ x, byteAt (memWriteF r n a bs d) x = if a ≤ x ∧ x < a + bs.length then bs.getD (x - a) 0 else byteAt d x := by
  induction n generalizing a bs d with
  | zero =>
    have : bs = [] := List.eq_nil_of_length_eq_zero (by omega)
    subst this
    exact ⟨h, ⟨rfl, rfl, rfl, rfl, rfl, rfl⟩, fun x => by rw [if_neg (by simp only [List.length_nil]; omega)]; rfl⟩
  | succ n ih =>
    rw [memWriteF]; split
    · rename_i hb
      have : bs = [] := by simpa using hb
      subst this
      exact ⟨h, ⟨rfl, rfl, rfl, rfl, rfl, rfl⟩, fun x => by rw [if_neg (by simp only [List.length_nil]; omega)]⟩
    · generalize hN : 0x40000 - a % 0x40000 = N
      have hw : writePiece r a (bs.take N) d = poke a (bs.take N) d := by simp [writePiece, hh a]
      dsimp only
      rw [hw]
      have hl : (bs.drop N).length = bs.length - N := List.length_drop
      have ih := ih (a + N) (bs.drop N) (poke a (bs.take N) d) (formed_poke h) (noHolds_congr rfl hh) (by rw [hl]; omega)
      refine ⟨ih.1, (sameButMem_poke _ _ _).trans ih.2.1, fun x => ?_⟩
      rw [ih.2.2 x, hl, byteAt_poke h]
      have ht : (bs.take N).length = min N bs.length := List.length_take
      rw [ht]
      by_cases h1 : a + N ≤ x ∧ x < a + N + (bs.length - N)
      · rw [if_pos h1, if_pos (by omega)]
        simp only [List.getD_eq_getElem?_getD, List.getElem?_drop]
        congr 2; omega
      · rw [if_neg h1]
        by_cases h2 : a ≤ x ∧ x < a + min N bs.length
        · rw [if_pos h2, if_pos (by omega)]
          simp only [List.getD_eq_getElem?_getD, List.getElem?_take]
          rw [if_pos (by omega)]
        · rw [if_neg h2, if_neg (by omega)]

/-- A write that no copy session holds stores its bytes and nothing else of the device but read caches, reservations and the
state of its lines. -/
theorem memWrite_noHolds {r : Req} {a : Nat} {bs : List Byte} {d : Dev} (h : Formed d) (hh : NoHolds d) :
    Formed (memWrite r a bs d) ∧ SameButMem d (memWrite r a bs d) ∧
    ∀ x, byteAt (memWrite r a bs d) x = if a ≤ x ∧ x < a + bs.length then bs.getD (x - a) 0 else byteAt d x := by
  have hn : bs.length + a % 0x40000 ≤ (bs.length / 0x40000 + 2) * 0x40000 := by omega
  obtain ⟨h1, h2, h3⟩ := memWriteF_noHolds (r := r) _ a bs d h hh hn
  unfold memWrite ownLines; split
  · exact ⟨formed_modTile h1, h2.trans ⟨rfl, rfl, rfl, rfl, rfl, rfl⟩, h3⟩
  · exact ⟨h1, h2, h3⟩

theorem ldBytes_memWrite {r : Req} {a : Nat} {bs : List Byte} {d : Dev} (h : Formed d) (hh : NoHolds d) :
    ldBytes (memWrite r a bs d) a bs.length = bs := by
  apply ldBytes_of_getD
  intro i hi
  rw [(memWrite_noHolds h hh).2.2, if_pos (by omega)]; congr 1; omega

end Sys2Proof.Machine
end

