-- ==== Sys2Proof/Laws/Queue.lean ====
section
/-!
SUPPORT. Laws/Queue.lean: what writing a reply, an error record and the end of a command do.
-/
namespace Sys2Proof.Machine

/-! Commands in flight. -/

theorem updFirst_find {α : Type} {p : α → Bool} {f : α → α} {l : List α} {x : α} (h : l.find? p = some x) (hp : p (f x) = true) :
    (updFirst p f l).find? p = some (f x) := by
  induction l with
  | nil => cases h
  | cons y t ih =>
    by_cases hy : p y = true
    · rw [List.find?_cons_of_pos hy] at h; cases h
      simp [updFirst, hy, hp]
    · rw [List.find?_cons_of_neg hy] at h
      simp [updFirst, hy, ih h]

theorem Flight.is_finish (f : Flight) (a b c q n : Nat) : (f.finish a b c).is q n = f.is q n := rfl

/-- After a command ends, it is in flight with its outcome. -/
theorem findFlight_finish {d : Dev} {q seq : Nat} {f : Flight} (h : findFlight d q seq = some f) (a b c : Nat) :
    findFlight (finish q seq a b c d) q seq = some (f.finish a b c) := by
  have hp : f.is q seq = true := List.find?_some (p := fun x : Flight => x.is q seq) h
  exact updFirst_find (p := fun x : Flight => x.is q seq) (f := fun f : Flight => f.finish a b c) h hp

theorem onlyFlights_modFlight (q seq : Nat) (f : Flight → Flight) (d : Dev) : OnlyFlights d (modFlight q seq f d) := rfl
theorem onlyFlights_finish (q seq a b c : Nat) (d : Dev) : OnlyFlights d (finish q seq a b c d) := rfl

theorem updFirst_mem_other {α : Type} {p : α → Bool} {f : α → α} {l : List α} {x : α} (hx : p x = false) (h : x ∈ l) :
    x ∈ updFirst p f l := by
  induction l with
  | nil => cases h
  | cons y t ih =>
    by_cases hy : p y = true
    · simp only [updFirst, hy, if_true]
      rcases List.mem_cons.1 h with rfl | h
      · rw [hx] at hy; cases hy
      · exact List.mem_cons_of_mem _ h
    · simp only [updFirst, hy]
      rcases List.mem_cons.1 h with rfl | h
      · exact List.mem_cons_self
      · exact List.mem_cons_of_mem _ (ih h)

/-! Error records (R268). -/

/-- Bytes of the error ring. -/
def errRing (d : Dev) (x : Nat) : Prop :=
  rb d mErrRing 54 = true ∧ rf d mErrRing 6 42 * 64 ≤ x ∧ x < rf d mErrRing 6 42 * 64 + 32 * 2 ^ rf d mErrRing 48 5

theorem errRing_congr {d e : Dev} (h : rg e mErrRing = rg d mErrRing) (x : Nat) : errRing e x ↔ errRing d x := by
  simp [errRing, rb, rf, h]

theorem length_errBytes (d : Dev) (a b c : Nat) (r : Req) : (errBytes d a b c r).length = 32 := by
  simp [errBytes, length_bytesOf]

/-- What an effect that may write error records and wait for copy sessions is allowed: their registers and the error ring. -/
structure Allows (R M : Nat → Prop) (d : Dev) : Prop where
  errPtr : R mErrPtr
  far : R mFarStat
  cbw : ∀ k, R (aCbwStat k)
  keep : ¬ R mErrRing
  ring : ∀ x, errRing d x → M x

section
variable {R M : Nat → Prop} {d e : Dev}

/-- An error record touches M_ERRPTR and a slot of the error ring. -/
theorem Touches.errRecord (h : Touches R M d e) (A : Allows R M d) {typ addr sym : Nat} {r : Req} :
    Touches R M d (errRecord typ addr sym r e) := by
  simp only [Machine.errRecord]
  split
  · exact h
  · rename_i he
    split
    · exact h.addSat A.errPtr
    · refine Touches.raise (Touches.setF (Touches.ite (fun _ => h) (fun _ => h.poke fun x h1 h2 => A.ring x ?_)) A.errPtr)
      rw [← errRing_congr (h.regs _ A.keep)]
      refine ⟨by simpa using he, by omega, ?_⟩
      rw [length_errBytes] at h2
      have : rf e mErrPtr 0 24 % 2 ^ rf e mErrRing 48 5 < 2 ^ rf e mErrRing 48 5 := Nat.mod_lt _ (Nat.two_pow_pos _)
      omega

theorem Touches.countErr (h : Touches R M d e) {ce : Bool} {l : Nat} : Touches R M d (countErr ce l e) := by
  unfold Machine.countErr; split
  · exact h.of_tabs rfl
  · exact h

theorem Touches.logErr (h : Touches R M d e) (A : Allows R M d) {x : Nat × Nat} {r : Req} : Touches R M d (logErr x r e) := by
  simp only [Machine.logErr]
  have h2 : Touches R M d (Machine.errRecord x.2 x.1 255 r (if x.2 = 2 then Machine.countErr false x.1 e else e)) :=
    Touches.errRecord (Touches.ite (fun _ => h.countErr) (fun _ => h)) A
  split
  · split
    · exact h2.setB A.far
    · exact h2
  · exact h2

theorem Touches.logWriteErr (h : Touches R M d e) (A : Allows R M d) {x : Nat × Nat} {r : Req} : Touches R M d (logWriteErr x r e) :=
  h.logErr A

theorem Touches.foldl {α : Type} {f : Dev → α → Dev} (l : List α) (h : Touches R M d e)
    (hf : ∀ e x, Touches R M d e → Touches R M d (f e x)) : Touches R M d (l.foldl f e) := by
  induction l generalizing e with
  | nil => exact h
  | cons x t ih => exact ih (hf e x h)

theorem Touches.draw (h : Touches R M d e) : Touches R M d (draw e).2 := h.of_tabs rfl

/-- Where no line has a symbol in error, a read changes nothing. -/
theorem correctReads_of_none (h : e.weak = []) {a n : Nat} {r : Req} : correctReads a n r e = e := by simp [correctReads, h]
theorem correctSpans_of_none (h : e.weak = []) {l : List (Nat × Nat)} {r : Req} : correctSpans l r e = e := by simp [correctSpans, h]

/-- Corrected reads touch only the error ring and its pointer. -/
theorem Touches.correctReads (h : Touches R M d e) (A : Allows R M d) {a n : Nat} {r : Req} : Touches R M d (correctReads a n r e) := by
  unfold Machine.correctReads
  refine Touches.foldl _ h fun e l he => ?_
  have hc : ∀ ls, Touches R M d (Machine.countErr true l { e with weak := ls }) :=
    fun ls => Touches.countErr (he.of_tabs (g := { e with weak := ls }) rfl)
  extract_lets g
  have hg : Touches R M d g := hc _
  clear_value g
  split
  · extract_lets sd
    have hsd : Touches R M d sd.2 := Touches.draw (Touches.modStack hg)
    clear_value sd
    exact Touches.ite (fun _ => hsd.errRecord A) (fun _ => hg)
  · exact hg
theorem Touches.correctSpans (h : Touches R M d e) (A : Allows R M d) {l : List (Nat × Nat)} {r : Req} :
    Touches R M d (correctSpans l r e) := by
  unfold Machine.correctSpans
  exact Touches.ite (fun _ => h) fun _ => Touches.foldl _ h fun _ _ hx => hx.correctReads A

/-! Replies (R81 to R83). -/

theorem Touches.modQueue (h : Touches R M d e) {q : Nat} {f : QueueX → QueueX} : Touches R M d (modQueue q f e) :=
  ⟨formed_modQueue h.formed, h.regs, h.mem⟩

theorem Touches.hold (h : Touches R M d e) {q st : Nat} (hR : R (qPtr q)) : Touches R M d (hold q st e) := by
  simp only [Machine.hold]
  exact Touches.ite (fun _ => (h.setF hR).setF hR) (fun _ => h.setF hR)

theorem Touches.advanceRetire {q : Nat} (hR : R (qPtr q)) (n : Nat) (h : Touches R M d e) : Touches R M d (advanceRetire q n e) := by
  induction n generalizing e with
  | zero => exact h
  | succ n ih =>
    rw [Machine.advanceRetire]
    exact Touches.ite (fun _ => ih (h.modQueue.setF hR)) (fun _ => h)

theorem Touches.mgmtAnswer (h : Touches R M d e) {q seq : Nat} {bs : List Byte} : Touches R M d (mgmtAnswer q seq bs e) := by
  unfold Machine.mgmtAnswer; split
  · exact h.of_tabs rfl
  · exact h

theorem length_replyBytes (a b c d e f g h : Nat) : (replyBytes a b c d e f g h).length = 16 := by
  simp [replyBytes, length_bytesOf]

/-- Everything a reply can do to registers and memory: the queue's pointers, the counts of held writes and of error records, the
reply's slot and the error ring. -/
theorem Touches.writeReply (h : Touches R M d e) (A : Allows R M d) {q seq tag idx status detail count : Nat} {holds : Bool}
    (hq : R (qPtr q)) (hM : ∀ x, replyAddr e q seq ≤ x → x < replyAddr e q seq + 16 → M x) :
    Touches R M d (writeReply q seq tag idx status detail count holds e) := by
  simp only [Machine.writeReply]
  split
  · exact Touches.hold (Touches.advanceRetire hq _ (Touches.logWriteErr (Touches.modQueue (Touches.mgmtAnswer h)) A)) hq
  · have h3 : ∀ (r : Req) (b : List Byte) (f : QueueX → QueueX), b.length = 16 → Touches R M d (Machine.advanceRetire q 65536
        (Machine.memWrite r (replyAddr e q seq) b (Machine.modQueue q f (Machine.mgmtAnswer q seq b e)))) := by
      intro r b f hb
      exact Touches.advanceRetire hq _ (Touches.memWrite (Touches.modQueue (Touches.mgmtAnswer h)) A.cbw (by rw [hb]; exact hM))
    exact Touches.ite (fun _ => (h3 _ _ _ (length_replyBytes ..)).hold hq) (fun _ => h3 _ _ _ (length_replyBytes ..))
end

/-! A reply that is stored (R81 to R83). -/

/-- What moves only a queue's pointers: registers of A_QPTR and the list of written replies. -/
structure OnlyPtr (q : Nat) (d e : Dev) : Prop where
  formed : Formed e
  mem : e.mem = d.mem
  regs : RegsKept (· = qPtr q) d e
  trackers : e.trackers = d.trackers
  flights : e.flights = d.flights
  plic : e.plic = d.plic
  clk : e.clk = d.clk
  head : rf e (qPtr q) 0 16 = rf d (qPtr q) 0 16
  tail : rf e (qPtr q) 16 16 = rf d (qPtr q) 16 16

theorem onlyPtr_refl {q : Nat} {d : Dev} (h : Formed d) : OnlyPtr q d d := ⟨h, rfl, fun _ _ => rfl, rfl, rfl, rfl, rfl, rfl, rfl⟩

theorem OnlyPtr.setF {q : Nat} {d e : Dev} (h : OnlyPtr q d e) {lo n v : Nat} (hn : lo + n ≤ 64) (hl : 32 ≤ lo) :
    OnlyPtr q d (setF e (qPtr q) lo n v) :=
  ⟨formed_setF h.formed, h.mem, fun o ho => (rg_setF_other ho).trans (h.regs o ho), h.trackers, h.flights, h.plic, h.clk,
    (rf_setF_apart hn (by omega)).trans h.head, (rf_setF_apart hn (by omega)).trans h.tail⟩

theorem OnlyPtr.modQueue {q : Nat} {d e : Dev} (h : OnlyPtr q d e) {p : Nat} {f : QueueX → QueueX} : OnlyPtr q d (modQueue p f e) :=
  ⟨formed_modQueue h.formed, h.mem, h.regs, h.trackers, h.flights, h.plic, h.clk, h.head, h.tail⟩

theorem OnlyPtr.hold {q st : Nat} {d e : Dev} (h : OnlyPtr q d e) : OnlyPtr q d (hold q st e) := by
  simp only [Machine.hold]; split
  · exact (h.setF (by omega) (by omega)).setF (by omega) (by omega)
  · exact h.setF (by omega) (by omega)

theorem OnlyPtr.advanceRetire {q : Nat} {d : Dev} (n : Nat) {e : Dev} (h : OnlyPtr q d e) : OnlyPtr q d (advanceRetire q n e) := by
  induction n generalizing e with
  | zero => exact h
  | succ n ih =>
    rw [Machine.advanceRetire]
    generalize qRetire e q = r
    split
    · exact ih (h.modQueue.setF (by omega) (by omega))
    · exact h

/-- retire and the list of written replies move; the queue's state and hold status stay. -/
theorem advanceRetire_state {q : Nat} (n : Nat) {d : Dev} (h : Formed d) :
    qState (advanceRetire q n d) q = qState d q ∧ rf (advanceRetire q n d) (qPtr q) 51 8 = rf d (qPtr q) 51 8 := by
  induction n generalizing d with
  | zero => exact ⟨rfl, rfl⟩
  | succ n ih =>
    rw [Machine.advanceRetire]
    generalize hr : qRetire d q = r
    split
    · have h1 : Formed (modQueue q (fun x => { x with written := x.written.filter (· != r) }) d) := formed_modQueue h
      obtain ⟨e1, e2⟩ := ih (formed_setF (o := qPtr q) (lo := 32) (n := 16) (v := r + 1) h1)
      exact ⟨e1.trans (rf_setF_apart (by omega) (by omega)), e2.trans (rf_setF_apart (by omega) (by omega))⟩
    · exact ⟨rfl, rfl⟩

/-- retire moves past the one reply written, where it is the oldest, and stays elsewhere. -/
theorem advanceRetire_one {q seq n : Nat} {d : Dev} (h : Formed d) (hw : (queueAt d q).written = [seq]) :
    qRetire (advanceRetire q (n + 2) d) q = if qRetire d q = seq then (seq + 1) % 65536 else qRetire d q := by
  rw [advanceRetire]; simp only [hw]
  by_cases hr : qRetire d q = seq
  · have h1 : Formed (modQueue q (fun x => { x with written := x.written.filter (· != seq) }) d) := formed_modQueue h
    have hq : (queueAt (setF (modQueue q (fun x => { x with written := x.written.filter (· != seq) }) d) (qPtr q) 32 16 (seq + 1)) q).written = [] := by
      have : ∀ o lo n v, queueAt (setF (modQueue q (fun x => { x with written := x.written.filter (· != seq) }) d) o lo n v) q =
          queueAt (modQueue q (fun x => { x with written := x.written.filter (· != seq) }) d) q := fun _ _ _ _ => rfl
      rw [this, queueAt_modQueue]; simp [hw]
    have hs : qRetire (setF (modQueue q (fun x => { x with written := x.written.filter (· != seq) }) d) (qPtr q) 32 16 (seq + 1)) q =
        (seq + 1) % 2 ^ 16 := rf_setF_same (by omega)
    rw [if_pos hr, hr]; simp only [List.contains_cons, List.contains_nil, beq_self_eq_true, Bool.true_or, if_true]
    rw [advanceRetire]; simp only [hq, List.contains_nil, Bool.false_eq_true, if_false]
    exact hs
  · rw [if_neg hr]
    simp [hr]

/-- What a reply stored in its slot does. -/
structure Replied (q seq tag idx st det n : Nat) (holds : Bool) (d e : Dev) : Prop where
  formed : Formed e
  slot : ldBytes e (replyAddr d q seq) 16 = replyBytes (qLog d q) seq tag idx st det n (podNs d % 2 ^ 32)
  mem : MemKept (fun x => replyAddr d q seq ≤ x ∧ x < replyAddr d q seq + 16) d e
  regs : RegsKept (· = qPtr q) d e
  trackers : e.trackers = d.trackers
  flights : e.flights = d.flights
  plic : e.plic = d.plic
  clk : e.clk = d.clk
  head : qHead e q = qHead d q
  tail : qTail e q = qTail d q
  held : holds = true → holding st = true → rf e (qPtr q) 51 8 = st % 256 ∧ (qState d q = 1 ∨ qState d q = 2 → qState e q = 2)
  free : holds = false ∨ holding st = false → rf e (qPtr q) 51 8 = rf d (qPtr q) 51 8 ∧ qState e q = qState d q
  retire : (queueAt d q).written = [] →
    qRetire e q = if qRetire d q = seq % 65536 then (seq % 65536 + 1) % 65536 else qRetire d q

theorem hold_spec {q st : Nat} {d : Dev} (h : Formed d) :
    rf (hold q st d) (qPtr q) 51 8 = st % 256 ∧ (qState d q = 1 ∨ qState d q = 2 → qState (hold q st d) q = 2) ∧
    qRetire (hold q st d) q = qRetire d q := by
  have h1 : Formed (setF d (qPtr q) 51 8 st) := formed_setF h
  have hs : qState (setF d (qPtr q) 51 8 st) q = qState d q := rf_setF_apart (by omega) (by omega)
  have hr : qRetire (setF d (qPtr q) 51 8 st) q = qRetire d q := rf_setF_apart (by omega) (by omega)
  have hv : rf (setF d (qPtr q) 51 8 st) (qPtr q) 51 8 = st % 2 ^ 8 := rf_setF_same (by omega)
  simp only [hold]
  by_cases h1' : qState d q = 1
  · rw [if_pos (hs.trans h1')]
    exact ⟨(rf_setF_apart (by omega) (by omega)).trans hv, fun _ => rf_setF_same (by omega),
      (rf_setF_apart (by omega) (by omega)).trans hr⟩
  · rw [if_neg (by rw [hs]; exact h1')]
    exact ⟨hv, fun h2 => by rw [hs]; omega, hr⟩

/-- A reply whose slot can be written and that no copy session holds. -/
theorem writeReply_stored {q seq tag idx st det n : Nat} {holds : Bool} {d : Dev} (h : Formed d) (hn : NoHolds d)
    (hj : mgmtJob d q seq = none) (hw : writeErr d (replyAddr d q seq) 16 = none) :
    Replied q seq tag idx st det n holds d (writeReply q seq tag idx st det n holds d) := by
  simp only [writeReply]
  generalize hb : replyBytes (qLog d q) seq tag idx st det n (podNs d % 2 ^ 32) = bs
  have hl : bs.length = 16 := by rw [← hb]; exact length_replyBytes ..
  have hm : mgmtAnswer q seq bs d = d := by simp [mgmtAnswer, hj]
  rw [hm]
  generalize hd1 : modQueue q (fun x => { x with written := insUp (seq % 65536) x.written }) d = d1
  have hf1 : Formed d1 := by rw [← hd1]; exact formed_modQueue h
  have hr1 : d1.regs = d.regs := by rw [← hd1]; rfl
  have ht1 : d1.trackers = d.trackers := by rw [← hd1]; rfl
  have hq1 : (queueAt d q).written = [] → (queueAt d1 q).written = [seq % 65536] := by
    intro h0; rw [← hd1, queueAt_modQueue]; simp [h0, insUp]
  have hw1 : writeErr d1 (replyAddr d q seq) 16 = none := by
    rw [← hd1]; exact (writeErr_map (d := d) (e := modQueue q _ d) ⟨rfl, rfl, rfl, rfl, rfl, rfl, rfl⟩ _ _).trans hw
  have hp1 : d1.mem = d.mem ∧ d1.flights = d.flights ∧ d1.plic = d.plic ∧ d1.clk = d.clk := by rw [← hd1]; exact ⟨rfl, rfl, rfl, rfl⟩
  clear hd1
  rw [hw1]; dsimp only
  obtain ⟨hf2, hs2, hb2⟩ := memWrite_noHolds (r := { queue := 0xFFFF, tag := tag, rkind := 9, rindex := qTile q, seq := seq })
    (a := replyAddr d q seq) (bs := bs) hf1 (noHolds_congr ht1 hn)
  have hsl := ldBytes_memWrite (r := { queue := 0xFFFF, tag := tag, rkind := 9, rindex := qTile q, seq := seq })
    (a := replyAddr d q seq) (bs := bs) hf1 (noHolds_congr ht1 hn)
  generalize hd2 : memWrite { queue := 0xFFFF, tag := tag, rkind := 9, rindex := qTile q, seq := seq } (replyAddr d q seq) bs d1 = d2 at *
  have hq2 : d2.queues = d1.queues := hs2.queues
  have hr2 : d2.regs = d.regs := hs2.regs.trans hr1
  have hP := OnlyPtr.advanceRetire 65536 (onlyPtr_refl (q := q) hf2)
  have hS := advanceRetire_state (q := q) 65536 hf2
  have hR := fun h0 => advanceRetire_one (q := q) (seq := seq % 65536) (n := 65534) hf2 (by
    show (tabGet queueX0 d2.queues q).written = _
    rw [hq2]; exact hq1 h0)
  generalize advanceRetire q 65536 d2 = d3 at *
  have rg2 : ∀ o, rg d2 o = rg d o := fun o => rg_of_eq hr2 o
  have rf2 : ∀ o lo n, rf d2 o lo n = rf d o lo n := fun o lo n => by rw [rf, rf, rg2]
  have base : Replied q seq tag idx st det n false d d3 :=
    { formed := hP.formed
      slot := by rw [hb, ← hl, ldBytes_congr (fun x _ _ => byteAt_of_eq hP.mem x)]; exact hsl
      mem := fun x hx => by
        rw [byteAt_of_eq hP.mem, hb2, if_neg (by rw [hl]; exact hx), byteAt_of_eq hp1.1]
      regs := fun o ho => (hP.regs o ho).trans (rg2 o)
      trackers := hP.trackers.trans (hs2.trackers.trans ht1)
      flights := hP.flights.trans (hs2.flights.trans hp1.2.1)
      plic := hP.plic.trans (hs2.plic.trans hp1.2.2.1)
      clk := hP.clk.trans (hs2.clk.trans hp1.2.2.2)
      head := hP.head.trans (rf2 _ _ _)
      tail := hP.tail.trans (rf2 _ _ _)
      held := fun h => by cases h
      free := fun _ => ⟨hS.2.trans (rf2 _ _ _), hS.1.trans (rf2 _ _ _)⟩
      retire := fun h0 => by
        have := hR h0
        rw [show qRetire d2 q = qRetire d q from rf2 _ _ _] at this
        exact this }
  split
  · rename_i hh
    simp only [Bool.and_eq_true] at hh
    have hH := OnlyPtr.hold (q := q) (st := st) (onlyPtr_refl base.formed)
    obtain ⟨v1, v2, v3⟩ := hold_spec (q := q) (st := st) base.formed
    exact
      { formed := hH.formed
        slot := by rw [ldBytes_congr (fun x _ _ => byteAt_of_eq hH.mem x)]; exact base.slot
        mem := fun x hx => (byteAt_of_eq hH.mem x).trans (base.mem x hx)
        regs := fun o ho => (hH.regs o ho).trans (base.regs o ho)
        trackers := hH.trackers.trans base.trackers
        flights := hH.flights.trans base.flights
        plic := hH.plic.trans base.plic
        clk := hH.clk.trans base.clk
        head := hH.head.trans base.head
        tail := hH.tail.trans base.tail
        held := fun _ _ => ⟨v1, fun h => v2 (by rw [(base.free (.inl rfl)).2]; exact h)⟩
        free := fun h => by rcases h with h | h <;> simp [hh] at h
        retire := fun h0 => v3.trans (base.retire h0) }
  · rename_i hh
    exact { base with
      held := fun h1 h2 => by simp [h1, h2] at hh
      free := fun _ => base.free (.inl rfl) }

end Sys2Proof.Machine
end

