-- ==== Sys2Proof/Tests/Slice0.lean ====
section
/-!
SUPPORT. Tests/Slice0.lean: the author's tests: ill-formed commands that `wf` refuses, worked examples of the spec, and for each
statement of Obligations.lean states and operands that meet the hypotheses of its clauses.
-/
namespace Sys2Proof.Tests
set_option Elab.async false
open Sys2Proof Sys2Proof.Machine

/-! States the tests are built from. -/

/-- A package that runs, in local frame 0. -/
def run0 : Dev := { Dev.reset with phase := .running, clk := ⟨700, 28000, 48, true, false, .local', false, false, none, none⟩ }
/-- A package whose registers hold the words listed. -/
def withRegs (l : List (Nat × Nat)) (d : Dev) : Dev := l.foldl (fun d e => setRegN d e.1 e.2) d
/-- A package with bytes in memory. -/
def withMem (a : Nat) (bs : List Byte) (d : Dev) : Dev := { d with mem := putMem d.mem a bs }
/-- A packet from (byte, value) pairs. -/
def pkt (l : List (Nat × Nat)) : Packet := BitVec.ofNat 512 (l.foldl (fun n e => n + e.2 <<< (8 * e.1)) 0)
/-- A command of one packet in flight. -/
def flt (q seq : Nat) (l : List (Nat × Nat)) : Flight :=
  ⟨q, seq, 1, pkt l, [], 0, false, 0, none, 0, [], 0, .waiting, 0, 0, [], []⟩
/-- A state with the commands in flight. -/
def fly (l : List Flight) (d : Dev) : State := ⟨{ d with flights := l }, []⟩

/-- `Formed`, as a check. -/
def formedB (d : Dev) : Bool :=
  Memory.wf d.mem && tabWf regReset d.regs && tabWf regReset d.eff && tabWf flashRest d.flash && tabWf queueX0 d.queues &&
    tabWf (fun _ => 0) d.reserved && tabWf (fun _ => 0) d.rr && tabWf tile0 d.tiles && tabWf stack0 d.stackSt &&
    tabWf tracker0 d.trackers && tabWf (fun _ => 0) d.counters && tabWf hart0 d.harts
theorem formed_of_check {d : Dev} (h : formedB d = true) : Formed d := by
  simp only [formedB, Bool.and_eq_true] at h
  obtain ⟨⟨⟨⟨⟨⟨⟨⟨⟨⟨⟨h1, h2⟩, h3⟩, h4⟩, h5⟩, h6⟩, h7⟩, h8⟩, h9⟩, h10⟩, h11⟩, h12⟩ := h
  exact ⟨h1, h2, h3, h4, h5, h6, h7, h8, h9, h10, h11, h12⟩
theorem far_bounds {d : Dev} {l p : Nat} : regionOf d l = .far p → farBase ≤ l ∧ l < farBase + farLen d := by
  generalize hn : farLen d = n
  unfold regionOf
  rw [hn]
  dsimp only
  repeat' split
  all_goals first | (intro _; assumption) | nofun
theorem goodLines_of_check {d : Dev} (h : d.bad = [] ∧ d.stackSt = [] ∧ farLen d = 0) : GoodLines d := by
  obtain ⟨h1, h2, h3⟩ := h
  intro l
  unfold lineErr
  split
  · simp [stackAt, h2, tabGet, stack0, h1]
  · rename_i p hp
    have := far_bounds hp
    rw [h3] at this
    exact absurd this (Nat.not_lt.mpr this.1 ∘ And.right)
  · simp [h1]
theorem noHolds_of_check {d : Dev} (h : d.trackers = []) : NoHolds d := by
  intro x
  simp [mustHold, trackerAt, h, tabGet, tracker0, owesGranule]

/-- `Formed` and `Served`, as a check. -/
def ready (s : State) (op q seq : Nat) (f : Flight) : Bool :=
  formedB s.dev && decide (findFlight s.dev q seq = some f) && f.op == op && f.waitingNow && turn s.dev f && !retraining s.dev
theorem ready_spec {s : State} {op q seq : Nat} {f : Flight} (h : ready s op q seq f = true) : Formed s.dev ∧ Served s.dev op q seq f := by
  simp only [ready, Bool.and_eq_true, decide_eq_true_eq, beq_iff_eq, Bool.not_eq_true'] at h
  obtain ⟨⟨⟨⟨⟨h1, h2⟩, h3⟩, h4⟩, h5⟩, h6⟩ := h
  exact ⟨formed_of_check h1, h2, h3, by simpa [Flight.waitingNow] using h4, h5, h6⟩
/-- Values in force. -/
def withEff (l : List (Nat × Nat)) (d : Dev) : Dev := l.foldl (fun d e => { d with eff := tabSet regReset d.eff e.1 (BitVec.ofNat 64 e.2) }) d
/-- A queue's pointers: head, tail, retire, state. -/
def ptrs (h t r st : Nat) : Nat := h + t <<< 16 + r <<< 32 + st <<< 48

/-! The queue of commands and the whole machine. -/

/-- The hypotheses of the statements about the queue of commands and the whole machine. -/
theorem witness_StepKeepsCanonicalForm : ∃ s t : State, Formed s.dev ∧ step s = .next t :=
  ⟨⟨run0, [.fastGuard]⟩, _, formed_of_check (by decide +kernel), rfl⟩
theorem witness_TilemapWrites : ∃ (s : State) (v w : Word), Formed s.dev ∧ s.dev.phase ≠ .off ∧
    (wbits v 0 4 = wbits v 28 4 ∧ wbits v 0 4 ≠ 0xF) ∧ (tilemapOk w = true ∧ wbits w 0 4 = 0xF ∧ wbits w 28 4 = 0xF) ∧
    ∃ u : Word, wbits u 28 4 = 9 := by
  refine ⟨⟨run0, []⟩, 0x06543210, 0xF654321F, formed_of_check (by decide +kernel), by decide, by decide +kernel, by decide +kernel, 0x96543210, by decide +kernel⟩

/-! Queues (Queue statements). -/

theorem witness_DoorbellMovesTail :
    Formed run0 ∧ running run0 = true ∧ inTether run0 = false ∧ tileAbsent run0 (qTile 65535) = false ∧
    2 ^ qLog run0 65535 < seqSub 17 (qRetire run0 65535) ∧
    (seqSub 16 (qRetire run0 65535) ≤ 2 ^ qLog run0 65535 ∧
      seqSub (qTail run0 65535) (qRetire run0 65535) < seqSub 16 (qRetire run0 65535)) ∧
    seqSub 0 (qRetire run0 65535) ≤ seqSub (qTail run0 65535) (qRetire run0 65535) :=
  ⟨formed_of_check (by decide +kernel), by decide +kernel⟩

/-- Tile 0 absent, the command ring of its queue 0 in its store. -/
def absent0 : Dev := withEff [(aTileMap 0, 0x7654321F)] (withRegs [(qRing 0, 0x8000000000 + 4 <<< 48)] run0)
/-- Queue 5 running, packet 1 announced, an empty slot there. -/
def late5 : Dev := withRegs [(qPtr 5, ptrs 1 2 1 1)] run0
theorem witness_AnsweredWithoutRunning :
    (Formed absent0 ∧ running absent0 = true ∧ inTether absent0 = false ∧ tileAbsent absent0 (qTile 0) = true ∧
      inStacks absent0 (qSBase absent0 0) (16 * 2 ^ qLog absent0 0) = true ∧
      inStacks absent0 (qBase absent0 0) (64 * 2 ^ qLog absent0 0) = false ∧ absent0.trackers = [] ∧
      seqSub 1 (qTail absent0 0) = 1 ∧ qTail absent0 0 = qRetire absent0 0 ∧ mgmtJob absent0 0 (qTail absent0 0) = none ∧
      writeErr absent0 (replyAddr absent0 0 (qTail absent0 0)) 16 = none) ∧
    (let d := withRegs [(qStatus 0, 0x8000000000)] absent0
     Formed d ∧ inStacks d (qSBase d 0) (16 * 2 ^ qLog d 0) = false) ∧
    (Formed late5 ∧ running late5 = true ∧ tileAbsent late5 (qTile 5) = false ∧ qState late5 5 = 1 ∧
      parseHead late5 5 = .mismatch [0] ∧ late5.trackers = [] ∧ late5.weak = [] ∧ mgmtJob late5 5 (qHead late5 5) = none ∧
      readErr late5 (slotAddr late5 5 (qHead late5 5)) 64 = none ∧ writeErr late5 (replyAddr late5 5 (qHead late5 5)) 16 = none) :=
  ⟨⟨formed_of_check (by decide +kernel), by decide +kernel⟩, ⟨formed_of_check (by decide +kernel), by decide +kernel⟩,
    ⟨formed_of_check (by decide +kernel), by decide +kernel⟩⟩

/-- Queue 7 in a state, with a NOP in flight. -/
def q7 (st : Nat) : Dev := withRegs [(qPtr 7, ptrs 1 1 0 st)] { run0 with flights := [flt 7 0 [(0, 0)]] }
/-- A QDISABLE of a target, kind and mode in flight. -/
def qdis (op target kind mode : Nat) : Flight := flt 1024 0 [(0, op), (10, target), (12, mode), (13, kind)]
theorem witness_QueueControl :
    (Formed (withRegs [(qCfg 7, 6)] run0) ∧ qMgmt (withRegs [(qCfg 7, 6)] run0) 7 = true ∧ running run0 = true) ∧
    (∀ st, st < 5 → formedB (q7 st) = true ∧ running (q7 st) = true ∧ tileAbsent (q7 st) (qTile 7) = false ∧ qState (q7 st) 7 = st ∧
      qMgmt (q7 st) 7 = false ∧ qTail (q7 st) 7 = qHead (q7 st) 7 ∧ (∃ f ∈ (q7 st).flights, f.q = 7 ∧ f.op ≠ 0x05) ∧
      ∀ f ∈ (q7 st).flights, f.op ≠ 0x05) ∧
    (Formed run0 ∧ qState run0 7 = 0 ∧ enableRefusal run0 7 = none ∧ freeContext run0 (qTile 7) = some 0 ∧
      qTail run0 7 = qHead run0 7 ∧ run0.flights = [] ∧ (queueAt run0 7).after = []) ∧
    (let d := withRegs [(qRing 7, 3 <<< 48)] run0
     Formed d ∧ qState d 7 = 0 ∧ enableRefusal d 7 = some (0x0D, 0x0006, 1)) ∧
    (let d := withRegs [(qPtr 7, ptrs 0 0 0 2)] run0
     Formed d ∧ qState d 7 = 2 ∧ d.flights = [] ∧ (queueAt d 7).after = []) ∧
    ((flt 0 0 [(0, 0x04)]).stage = .waiting ∧ (flt 0 0 [(0, 0x04)]).op = 0x04 ∧ (flt 0 0 [(0, 0x41)]).op = 0x41 ∧
      (flt 0 0 [(0, 0x10)]).op = 0x10) :=
  ⟨⟨formed_of_check (by decide +kernel), by decide +kernel⟩, by decide +kernel,
    ⟨formed_of_check (by decide +kernel), by decide +kernel⟩, ⟨formed_of_check (by decide +kernel), by decide +kernel⟩,
    ⟨formed_of_check (by decide +kernel), by decide +kernel⟩, by decide +kernel⟩
theorem witness_QueueControl_commands :
    (let f := qdis 5 3 0 0
     let s := fly [f] (withEff [(aTileMap 0, 0x7654321F)] run0)
     (Formed s.dev ∧ Served s.dev 0x05 1024 0 f) ∧ f.prog = 0 ∧ targetTile f = some 0 ∧ tileAbsent s.dev 0 = true) ∧
    (let f := qdis 5 7 0 0
     let s := fly [f] run0
     (Formed s.dev ∧ Served s.dev 0x05 1024 0 f) ∧ pbytes f.head 13 1 = 0 ∧ pbytes f.head 10 2 = 7 ∧ tileAbsent s.dev (qTile 7) = false ∧
       qState s.dev 7 = 0) ∧
    (let f := qdis 5 7 0 0
     let s := fly [flt 7 0 [(0, 0)], f] (q7 1)
     (Formed s.dev ∧ Served s.dev 0x05 1024 0 f) ∧ qState s.dev 7 = 1 ∧ pbytes f.head 12 1 = 0 ∧
       ∃ g ∈ s.dev.flights, g.q = 7 ∧ g.op ≠ 0x05) ∧
    (let f := qdis 5 3 2 0
     let s := fly [f] run0
     (Formed s.dev ∧ Served s.dev 0x05 1024 0 f) ∧ pbytes f.head 13 1 = 2 ∧ pbytes f.head 10 2 = 3 ∧ onEngine s.dev (256 + 3) = []) ∧
    (let f := qdis 6 7 0 0
     let s := fly [f] (q7 2)
     (Formed s.dev ∧ Served s.dev 0x06 1024 0 f) ∧ tileAbsent s.dev (qTile 7) = false ∧ qState s.dev 7 = 2 ∧ pbytes f.head 12 1 = 0) ∧
    (let f := qdis 6 3 2 0
     let s := fly [f] run0
     (Formed s.dev ∧ Served s.dev 0x06 1024 0 f) ∧ pbytes f.head 13 1 = 2) :=
  ⟨⟨ready_spec (by decide +kernel), by decide +kernel⟩, ⟨ready_spec (by decide +kernel), by decide +kernel⟩,
    ⟨ready_spec (by decide +kernel), by decide +kernel⟩, ⟨ready_spec (by decide +kernel), by decide +kernel⟩,
    ⟨ready_spec (by decide +kernel), by decide +kernel⟩, ⟨ready_spec (by decide +kernel), by decide +kernel⟩⟩

/-- Queues 3 and 9 of tile 0 ready with a NOP each, classes BULK and SCHEDULED. -/
def two : Dev := withRegs [(qRing 3, 0x1000 + 4 <<< 48), (qRing 9, 0x2000 + 4 <<< 48), (qPtr 3, ptrs 0 1 0 1), (qPtr 9, ptrs 0 1 0 1),
  (qCfg 3, 2), (qCfg 9, 0)] (withMem 0x1000 [0, 0x10] run0)
theorem witness_IssueOrder :
    (Formed two ∧ choose two 0 = some (9, .start [0] 0 none 700) ∧ 3 ∈ liveQueues two 0 ∧ readyAt two 3 ≠ .no) ∧
    engineOf 0 0x07 = none ∧ engineOf 0 0x80 = some 600 ∧ pkClass (pkt [(0, 0)]) ≠ qClass run0 0 ∧ takesMore 0x10 = false ∧
    mgmtOnly (pkt [(0, 0x80)]) = true ∧ qMgmt run0 0 = false :=
  ⟨⟨formed_of_check (by decide +kernel), by decide +kernel⟩, by decide +kernel⟩
/-- Queue 3 of tile 0 has announced an opcode that is reserved. -/
def odd3 : Dev := withRegs [(qRing 3, 0x1000 + 4 <<< 48), (qPtr 3, ptrs 0 1 0 1)] (withMem 0x1000 [0x0F, 0x10] run0)
theorem witness_PacketIssue :
    (Formed two ∧ running two = true ∧ inTether two = false ∧ tileGone two 0 = false ∧ retraining two = false ∧ two.weak = [] ∧
      choose two 0 = some (9, .start [0] 0 none 700) ∧ readErr two (slotAddr two 9 0) 64 = none ∧ choose two 63 = none) ∧
    (Formed odd3 ∧ choose odd3 0 = some (3, .refuse [pkt [(0, 0x100F)]] 0x0D 0x0001) ∧ odd3.trackers = [] ∧ odd3.weak = [] ∧
      mgmtJob odd3 3 (qHead odd3 3) = none ∧ readErr odd3 (slotAddr odd3 3 (qHead odd3 3)) 64 = none ∧
      writeErr odd3 (replyAddr odd3 3 (qHead odd3 3)) 16 = none) :=
  ⟨⟨formed_of_check (by decide +kernel), by decide +kernel⟩, ⟨formed_of_check (by decide +kernel), by decide +kernel⟩⟩
/-- NOP 0xFFFF of queue 7 has ended with a status. -/
def ended (st : Nat) : State := fly [(flt 7 0xFFFF [(0, 0)]).finish st 0 0] (withRegs [(qPtr 7, ptrs 0 0 0xFFFF 1), (qCfg 7, 0x12)] run0)
theorem witness_CommandCompletion :
    ∀ st, st < 3 → formedB (ended st).dev = true ∧ findFlight (ended st).dev 7 0xFFFF = some ((flt 7 0xFFFF [(0, 0)]).finish st 0 0) ∧
      (ended st).dev.trackers = [] ∧ mgmtJob (ended st).dev 7 0xFFFF = none ∧ qState (ended st).dev 7 = 1 ∧
      writeErr (ended st).dev (replyAddr (ended st).dev 7 0xFFFF) 16 = none ∧ qRetire (ended st).dev 7 = 0xFFFF ∧
      (queueAt (ended st).dev 7).written = [] ∧ rf (ended st).dev (qCfg 7) 4 10 ≠ 0 ∧ holding st = decide (st = 2) := by decide +kernel
/-- The flight with its progress, aux word and frame set. -/
def fset (f : Flight) (prog aux frame : Nat) : Flight := { f with prog := prog, aux := aux, frame := frame }
theorem witness_ControlCommands :
    (let f := flt 0 0 [(0, 0)]
     Formed (fly [f] run0).dev ∧ Served (fly [f] run0).dev 0x00 0 0 f) ∧
    (let f := fset (flt 0 0 [(0, 2), (12, 652)]) 0 0 0
     (Formed (fly [f] run0).dev ∧ Served (fly [f] run0).dev 0x02 0 0 f) ∧ f.aux ≠ 1 ∧ f.frame = frameNum (fly [f] run0).dev ∧
       run0.clk.mode ≠ .waiting ∧ run0.clk.cyc0 + pbytes f.head 12 4 = run0.clk.cyc) ∧
    (let f := fset (flt 0 0 [(0, 2), (12, 653)]) 0 0 0
     (Formed (fly [f] run0).dev ∧ Served (fly [f] run0).dev 0x02 0 0 f) ∧ run0.clk.cyc < run0.clk.cyc0 + pbytes f.head 12 4) ∧
    (let f := fset (flt 0 0 [(0, 2)]) 0 1 0
     (Formed (fly [f] run0).dev ∧ Served (fly [f] run0).dev 0x02 0 0 f) ∧ f.aux = 1) ∧
    (let f := flt 0 0 [(0, 1)]
     let g := flt 0 1 [(0, 1)]
     (Formed (fly [f, g] run0).dev ∧ Served (fly [f, g] run0).dev 0x01 0 0 f) ∧ pbytes f.head 10 1 = 0 ∧
       qRetire (fly [f, g] run0).dev 0 = 0 ∧ Served (fly [f, g] run0).dev 0x01 0 1 g) :=
  ⟨ready_spec (by decide +kernel), ⟨ready_spec (by decide +kernel), by decide +kernel⟩, ⟨ready_spec (by decide +kernel), by decide +kernel⟩,
    ⟨ready_spec (by decide +kernel), by decide +kernel⟩,
    ⟨ready_spec (by decide +kernel), by decide +kernel, by decide +kernel, (ready_spec (by decide +kernel)).2⟩⟩

/-- A FENCE GLOBAL that has sent a message 2 toward node 9, in the resend store or not. -/
def fence9 (store : List Sent) (lost : List Nat) : State :=
  fly [fset (flt 0 0 [(0, 1), (10, 1)]) 1 0 0]
    { run0 with queues := [(0, { queueX0 0 with dests := [(9, 3)] })], fab := { run0.fab with store := store, lost := lost } }
def sent9 : Sent := ⟨9, 2, 0, ⟨2, 1, 0, 0, 0, []⟩⟩
theorem witness_ControlCommands_global :
    (∀ s ∈ [fence9 [] [9], fence9 [] [], fence9 [sent9] []], ready s 0x01 0 0 (fset (flt 0 0 [(0, 1), (10, 1)]) 1 0 0) = true ∧
      qRetire s.dev 0 = 0 ∧ (queueAt s.dev 0).mcasts = [] ∧ (queueAt s.dev 0).refusal = none) ∧
    (queueAt (fence9 [] [9]).dev 0).dests.find? (fun e => (fence9 [] [9]).dev.fab.lost.contains e.1) = some (9, 3) ∧
    (queueAt (fence9 [] []).dev 0).dests.find? (fun e => (fence9 [] []).dev.fab.lost.contains e.1) = none ∧
    ackedTo (fence9 [] []).dev 9 3 = true ∧ ackedTo (fence9 [sent9] []).dev 9 3 = false := by decide +kernel

/-- A WAITSEM of a mode on the word at 0x1000, which holds `v`. -/
def wait4 (mode x prog : Nat) : Flight := fset (flt 0 0 [(0, 4), (10, mode), (12, 1), (16, 0x1000), (24, x)]) prog 0 0
def watchers : List Flight := (upto 64).map fun i => fset (flt 0 (1 + i) [(0, 4), (16, 64 * i)]) 1 0 0
theorem witness_SignalAndWaitsem :
    (let f := flt 0 0 [(0, 3), (16, 0xFFFF0008), (24, 1)]
     let s := fly [f] run0
     (Formed s.dev ∧ Served s.dev 0x03 0 0 f) ∧ NoHolds s.dev ∧ f.prog = 0 ∧ qRetire s.dev 0 = 0 ∧ gNode (pbytes f.head 16 8) = myNode s.dev ∧
       badRange s.dev true (gOff (pbytes f.head 16 8)) 8 = none ∧ writeErr s.dev (gOff (pbytes f.head 16 8)) 8 = none ∧
       s.dev.weak = []) ∧
    (let f := flt 0 1 [(0, 3), (16, 128 * 2 ^ 48)]
     let s := fly [f] run0
     (Formed s.dev ∧ Served s.dev 0x03 0 1 f) ∧ qRetire s.dev 0 ≠ 1 ∧ inRack s.dev (gNode (pbytes f.head 16 8)) = false) ∧
    (∀ m, m < 3 → ready (fly [wait4 m 0 0] run0) 0x04 0 0 (wait4 m 0 0) = true ∧ ld run0 0x1000 8 = 0 ∧ run0.weak = [] ∧
      badRange run0 true 0x1000 8 = none ∧ readErr run0 0x1000 8 = none ∧ sext 64 0 ≤ sext 64 0) ∧
    (∀ m, m < 3 → ready (fly [wait4 m 1 0] run0) 0x04 0 0 (wait4 m 1 0) = true ∧ sext 64 0 < sext 64 1 ∧
      (watched (fly [wait4 m 1 0] run0).dev 0).length = 0) ∧
    (let s := fly (wait4 0 1 0 :: watchers) run0
     ready s 0x04 0 0 (wait4 0 1 0) = true ∧ (watched s.dev 0).length = 64 ∧ (watched s.dev 0).contains (lineOf 0x1000) = false ∧
       pbytes (wait4 0 1 0).head 12 4 ≠ 0 ∧ (wait4 0 1 0).aux + 24 * pbytes (wait4 0 1 0).head 12 4 ≤ mono run0) ∧
    (let s := fly [wait4 1 0 1] run0
     ready s 0x04 0 0 (wait4 1 0 1) = true ∧ (wait4 1 0 1).prog = 1 ∧ s.dev.flights = [wait4 1 0 1]) :=
  ⟨⟨ready_spec (by decide +kernel), noHolds_of_check rfl, by decide +kernel⟩, ⟨ready_spec (by decide +kernel), by decide +kernel⟩,
    by decide +kernel⟩

/-! Number formats and engines. -/

/-- A command of two packets in flight. -/
def flt2 (q seq : Nat) (l m : List (Nat × Nat)) : Flight := { flt q seq l with cont := [pkt m], npkt := 2 }
/-- A Planish command over a 2 × 3 × 2 product of ZQ8 from 0x1000 and 0x2000 into FP32 at 0x3000. -/
def mma0 (op afmt : Nat) : List (Nat × Nat) :=
  [(0, op), (10, afmt + 16 * afmt), (13, 1), (16, 2), (20, 3), (24, 2), (28, 0x1000), (34, 0x2000), (40, 0x3000), (46, 64), (50, 64), (54, 64)]
def isWhole : Machine.Num → Bool | .fin _ _ e => decide (-17 ≤ e) | _ => false
theorem whole_of_check {a : Machine.Num} (h : isWhole a = true) : ∃ g m e, a = .fin g m e ∧ -17 ≤ e := by
  match a with
  | .fin g m e => exact ⟨g, m, e, rfl, by simpa [isWhole] using h⟩
theorem witness_FormatsAndExactSums :
    (∀ c ∈ [0x00, 0x7F, 0xFF], (decodeF (fmtF 3) c).isNan = false) ∧ (decodeF (fmtF 3) 0x80).isNan = true ∧ 0x80 < 2 ^ (fmtF 3).w ∧
    (2 ^ 16 : Nat) ≤ 1 * 2 ^ (16 : Int).toNat ∧
    (let x := mmaOf 0 (pkt (mma0 0x20 3)) []
     x.afmt = 3 ∧ (∀ a ∈ [decodeF (fmtF 3) 0x7F], ∃ g m e, a = .fin g m e ∧ -17 ≤ e) ∧
       ∀ b ∈ x.bCol run0 none 0 0, ∃ g m e, b = .fin g m e ∧ -17 ≤ e) := by
  refine ⟨by decide +kernel, by decide +kernel, by decide +kernel, by decide, by decide +kernel, ?_, ?_⟩
  · exact fun a h => whole_of_check (by revert a; decide +kernel)
  · intro b h
    have : ((mmaOf 0 (pkt (mma0 0x20 3)) []).bCol run0 none 0 0).all isWhole = true := by decide +kernel
    exact whole_of_check (List.all_eq_true.mp this b h)
theorem witness_MmaComputes :
    let f := flt 0 0 (mma0 0x20 3)
    let s := fly [f] run0
    let x := mmaOf 0 f.head f.cont
    (Formed s.dev ∧ Served s.dev 0x20 0 0 f) ∧ NoHolds s.dev ∧ f.stop = 0 ∧ x.fused = false ∧ (∃ w, x.epi = [w] ∧ w.fmt ≤ 4 ∧ x.N * esz w.fmt ≤ x.ldc) ∧
      x.afmt ≤ 5 ∧ x.bfmt ≤ 5 ∧ 0 < x.K ∧ badRange s.dev true x.c (x.M * x.ldc) = none ∧
      x.goodPasses s.dev (x.loaded s.dev).isSome (x.nBlocks * x.mBlocks * x.chunks) 0 = (x.nBlocks * x.mBlocks * x.chunks, none) ∧
      rowBytes x.afmt x.K ≤ x.lda ∧ rowBytes x.bfmt x.K ≤ x.ldb ∧ (x.afmt = 5 ∨ x.bfmt = 5 → x.K % 16 = 0) ∧
      (x.a + x.aLen ≤ x.c) ∧ x.b + x.bLen ≤ x.c ∧ s.dev.weak = [] :=
  ⟨ready_spec (by decide +kernel), noHolds_of_check rfl, by decide +kernel, by decide +kernel, ⟨⟨0x14, 1, 0, false, 0, false, false, false, 0, 0, 0, 0⟩, by decide +kernel⟩,
    by decide +kernel⟩
/-- A package with a bad line at 0x2000. -/
def bad2 : Dev := { run0 with bad := [0x2000] }
theorem witness_WloadAndMmaStops :
    (let f := flt 0 0 (mma0 0x21 3)
     let x := mmaOf 0 f.head []
     (Formed (fly [f] run0).dev ∧ Served (fly [f] run0).dev 0x21 0 0 f) ∧
       (∀ n, n < 3 → readErr (fly [f] run0).dev (x.b + n * x.ldb) 2 = none) ∧ Nat.min x.N x.nb = 3 ∧ run0.weak = [] ∧
       (Formed (fly [f] bad2).dev ∧ Served (fly [f] bad2).dev 0x21 0 0 f) ∧ readErr (fly [f] bad2).dev x.b 2 = some (0x2000, 2)) ∧
    (let f := flt 0 0 (mma0 0x20 3)
     let x := mmaOf 0 f.head f.cont
     (Formed (fly [f] bad2).dev ∧ Served (fly [f] bad2).dev 0x20 0 0 f) ∧
       x.goodPasses (fly [f] bad2).dev (x.loaded (fly [f] bad2).dev).isSome (x.nBlocks * x.mBlocks * x.chunks) 0 = (0, some ((0x2000, 2), false)) ∧
       badRange (fly [f] bad2).dev true x.c (x.M * x.ldc) = none) ∧
    (let f := flt 0 0 ((mma0 0x20 3).filter (·.1 != 40) ++ [(40, 2 ^ 47)])
     let x := mmaOf 0 f.head f.cont
     (Formed (fly [f] run0).dev ∧ Served (fly [f] run0).dev 0x20 0 0 f) ∧
       badRange (fly [f] run0).dev true x.c (x.M * x.ldc) = some (0x0E, 0x0002)) :=
  ⟨⟨ready_spec (by decide +kernel), by decide +kernel, by decide +kernel, rfl, ready_spec (by decide +kernel), by decide +kernel⟩,
    ⟨ready_spec (by decide +kernel), by decide +kernel⟩, ⟨ready_spec (by decide +kernel), by decide +kernel⟩⟩
theorem witness_VchainComputes :
    let f := flt2 0 0 [(0, 0x30), (1, 1), (10, 1), (11, 1), (16, 2), (20, 65), (24, 0x1000), (30, 0x3000), (36, 320), (40, 320)] [(56, 0x0110)]
    let s := fly [f] run0
    let x := vchainOf 0 f.head f.cont
    (Formed s.dev ∧ Served s.dev 0x30 0 0 f) ∧ NoHolds s.dev ∧ f.stop = 0 ∧ s.dev.weak = [] ∧ x.sts ≠ [] ∧
      (∀ w ∈ x.sts, w.use = false ∧ w.op ∉ [0x01, 0x02, 0x12, 0x15, 0x16]) ∧ x.blocky = false ∧
      rowBytes x.ifmt x.L ≤ x.lds ∧ x.L * esz x.ofmt ≤ x.ldd ∧ badRange s.dev true x.dst (matLen x.ofmt x.rows x.ldd) = none ∧
      x.goodGroups s.dev (x.rows * x.groups) 0 = (x.rows * x.groups, none) ∧ x.src + matLen x.ifmt x.rows x.lds ≤ x.dst ∧
      (∃ w : StageW, w.use = false ∧ w.fmt ≤ 4 ∧ w.op = 0x10) :=
  ⟨ready_spec (by decide +kernel), noHolds_of_check rfl, by decide +kernel, rfl, by decide +kernel, by decide +kernel, by decide +kernel, by decide +kernel,
    by decide +kernel, by decide +kernel, by decide +kernel, by decide +kernel, ⟨⟨0x10, 1, 0, false, 0, false, false, false, 0, 0, 0, 0⟩, by decide⟩⟩
/-- COMPRESS or EXPAND of four bytes. -/
def pack0 (op : Nat) : Flight := flt 0 0 [(0, op), (12, 4), (16, 0x1000), (22, 0x2000), (28, 0x3000), (34, 0x4000), (40, 4)]
theorem witness_PackAndHisto :
    (∀ c : Bool, let f := pack0 (if c then 0x31 else 0x32)
     let s := fly [f] (withMem 0x2000 [1, 0, 1, 1] run0)
     let x := packOf 0 f.head
     (Formed s.dev ∧ Served s.dev (if c then 0x31 else 0x32) 0 0 f) ∧ NoHolds s.dev ∧ GoodLines s.dev ∧ f.stop = 0 ∧ 0 < x.n ∧ x.n ≤ 64 ∧ x.opt = false ∧
       (∀ r ∈ x.regions c, badRange s.dev true r.1 r.2 = none) ∧ apart (x.regions c) = true ∧
       ((upto x.n).filter fun j => byteAt s.dev (x.mask + j) != 0) = [0, 2, 3] ∧ 3 ≤ x.lim ∧ s.dev.weak = []) ∧
    (∀ op, op < 4 → let f := flt 0 0 [(0, 0x33), (10, 1), (11, op), (16, 0x1000)]
     ready (fly [f] run0) 0x33 0 0 f = true ∧ pbytes f.head 11 1 = op ∧ badRange run0 true (pbytes f.head 16 8) 320 = none ∧
       writeErr run0 (pbytes f.head 16 8) 320 = none) := by
  refine ⟨?_, by decide +kernel⟩
  intro c
  cases c <;> exact ⟨ready_spec (by decide +kernel), noHolds_of_check rfl, goodLines_of_check ⟨rfl, rfl, by decide +kernel⟩, by decide +kernel⟩
theorem witness_HistogramBins :
    (2 ^ ((3 : Int) + 2048).toNat ≤ 9 * 2 ^ ((0 : Int) + 2048).toNat ∧ 9 * 2 ^ ((0 : Int) + 2048).toNat < 2 ^ ((3 : Int) + 2049).toNat) ∧
    tabWf (fun _ => 0) hist0.bins = true ∧ ∀ b, tabGet (fun _ => 0) hist0.bins b < 0xFFFFFFFF := by
  refine ⟨by decide +kernel, by decide, fun b => by simp [hist0, tabGet]⟩
/-- Frame 9 has come, armed for a table switch. -/
def frame9 : Dev := withRegs [(fFrameNum, 9), (mChtabApply, 9)] run0
theorem witness_TableSets :
    Formed run0 ∧ running run0 = true ∧ tileAbsent run0 63 = false ∧ frameNum run0 + 3 ≤ (3 : Word).toNat ∧ (2 : Word).toNat < frameNum run0 + 3 ∧
    (Formed frame9 ∧ running frame9 = true ∧ frameNum frame9 ≠ 0 ∧ (rg frame9 mChtabApply).toNat = frameNum frame9 ∧ frame9.tables.snap = none) ∧
    (Formed { frame9 with tables := ⟨some 65535, none⟩ } ∧ (65535 : Nat) < 65536) :=
  ⟨formed_of_check (by decide +kernel), by decide +kernel, by decide +kernel, by decide +kernel, by decide +kernel,
    ⟨formed_of_check (by decide +kernel), by decide +kernel⟩, ⟨formed_of_check (by decide +kernel), by decide⟩⟩
/-- An Anvil command over one system of two unknowns. -/
def anv (op : Nat) : Flight :=
  flt2 0 0 [(0, op), (1, 1), (12, if op = 0x41 then 0 else 1), (13, if op = 0x41 then 1 else 0), (14, 2), (16, 1), (20, 0x1000), (26, 0x2000),
    (32, 0x3000), (38, 0x4000), (44, 0x5000), (50, 64), (54, 64), (58, 64)] []
theorem witness_AnvilCompletes :
    (let f := anv 0x40
     let s := fly [f] run0
     (Formed s.dev ∧ Served s.dev 0x40 0 0 f) ∧ NoHolds s.dev ∧ GoodLines s.dev ∧
       (∀ r ∈ (slvOf 0 f.head f.cont).regions 0x40, badRange s.dev true r.1 r.2 = none) ∧ (slvOf 0 f.head f.cont).nsys = 1 ∧ s.dev.weak = []) ∧
    (let f := anv 0x42
     let s := fly [f] run0
     let x := slvOf 0 f.head f.cont
     (Formed s.dev ∧ Served s.dev 0x42 0 0 f) ∧ (∀ r ∈ x.regions 0x42, badRange s.dev true r.1 r.2 = none) ∧ x.opt6 = false ∧ x.method < 2 ∧ s.dev.weak = []) ∧
    (let f := anv 0x41
     let s := fly [f] run0
     let x := facOf 0 f.head f.cont
     (Formed s.dev ∧ Served s.dev 0x41 0 0 f) ∧ (∀ r ∈ x.regions, badRange s.dev true r.1 r.2 = none) ∧ x.nmat = 1 ∧ x.nrhs = 1 ∧ s.dev.weak = []) ∧
    (let c := certOf (4 + 8 <<< 64) 0
     c.tau.p = c.fu ∧ 0 < c.tau.v) :=
  ⟨⟨ready_spec (by decide +kernel), noHolds_of_check rfl, goodLines_of_check ⟨rfl, rfl, by decide +kernel⟩, by decide +kernel⟩,
    ⟨ready_spec (by decide +kernel), by decide +kernel⟩, ⟨ready_spec (by decide +kernel), by decide +kernel⟩, by decide +kernel⟩

/-! Memory and the fabric. -/

/-- COPY of 100 bytes from 0x1000 to `dst`, with progress and aux. -/
def copy0 (dst prog : Nat) : Flight := fset (flt 0 0 [(0, 0x10), (16, 0x1000), (24, dst), (32, 100)]) prog 0 0
/-- A die whose open session still owes granule 1, with a write to it held. -/
def owing : Session := ⟨7, 0, 2, 0, [], [], [], [], []⟩
def heldW : Held := ⟨reqOf 5 0, 0x40010, [1, 2, 3]⟩
def sess0 : Dev := { run0 with trackers := [(0, ⟨some owing, none, [heldW]⟩)] }
theorem witness_CopyAndHeldWrites :
    (let f := copy0 0x8000 0
     let s := fly [f] run0
     (Formed s.dev ∧ Served s.dev 0x10 0 0 f) ∧ NoHolds s.dev ∧ f.stop = 0 ∧ copyOf 0 f.head = ⟨qTile 0, 0x1000, myNode s.dev, 0x8000, myNode s.dev, 100⟩ ∧
       f.prog = 0 ∧ copyRefusal s.dev (copyOf 0 f.head) = none ∧ inCtrl 0x1000 = false ∧ inCtrl 0x8000 = false ∧ s.dev.weak = [] ∧ readErr s.dev 0x1000 100 = none ∧
       writeErr s.dev 0x8000 100 = none ∧ (tileAt s.dev (qTile 0)).rcache = []) ∧
    (let f := copy0 (2 ^ 47) 0
     let s := fly [f] run0
     (Formed s.dev ∧ Served s.dev 0x10 0 0 f) ∧ copyRefusal s.dev (copyOf 0 f.head) = some (0x0E, 0x0002)) ∧
    (let f := copy0 (9 * 2 ^ 48) 100
     let s := fly [f] run0
     (Formed s.dev ∧ Served s.dev 0x10 0 0 f) ∧ copyOf 0 f.head = ⟨qTile 0, 0x1000, myNode s.dev, 0, 9, 100⟩ ∧ f.prog = 100 ∧
       hasLeft s.dev 9 f.aux = true) ∧
    (Formed sess0 ∧ trackerAt sess0 0 = ⟨some owing, none, [heldW]⟩ ∧ owesGranule 1 (some owing) = true ∧ slotFree sess0 owing = true ∧ sess0.weak = [] ∧
      (∀ i, i < 4096 → lineErr sess0 (0 * stackSpan + 1 * 0x40000 + 64 * i) = none) ∧ 0 * stackSpan + 1 * 0x40000 ≤ heldW.addr ∧
      heldW.addr + heldW.data.length ≤ 0 * stackSpan + 1 * 0x40000 + 0x40000 ∧ owing.hi ≤ 0x30000) :=
  ⟨⟨ready_spec (by decide +kernel), noHolds_of_check rfl, by decide +kernel⟩, ⟨ready_spec (by decide +kernel), by decide +kernel⟩,
    ⟨ready_spec (by decide +kernel), by decide +kernel⟩, ⟨formed_of_check (by decide +kernel), by decide +kernel, by decide +kernel,
      by decide +kernel, rfl, fun _ _ => goodLines_of_check ⟨rfl, rfl, by decide +kernel⟩ _, by decide +kernel, by decide +kernel, by decide +kernel⟩⟩
/-- GATHER or SCATTER of two 8-byte elements by 4-byte indices. -/
def gath0 (op base index : Nat) : Flight := flt 0 0 [(0, op), (10, 3), (12, 2), (16, index), (24, base), (32, 0x9000)]
/-- Indices 5 and 1 at 0x1000. -/
def idx51 : Dev := withMem 0x1000 [5, 0, 0, 0, 1, 0, 0, 0] run0
theorem witness_GatherAndScatter :
    (let f := gath0 0x11 0x4000 0x1000
     let s := fly [f] idx51
     let x := gathOf 0 f.head
     (Formed s.dev ∧ Served s.dev 0x11 0 0 f) ∧ NoHolds s.dev ∧ x.n = 2 ∧ x.node = myNode s.dev ∧ badRange s.dev false x.index (x.n * x.iw) = none ∧
       badRange s.dev true x.dest (x.n * x.es) = none ∧ s.dev.weak = [] ∧ (tileAt s.dev (qTile 0)).rcache = [] ∧
       (∀ j, j < x.n → x.fault s.dev false j = none ∧ inCtrl (x.elem s.dev j) = false) ∧ x.index + x.n * x.iw ≤ x.dest ∧
       ∀ j, j < x.n → x.elem s.dev j + x.es ≤ x.dest) ∧
    (let f := gath0 0x12 0x4000 0x1000
     let s := fly [f] idx51
     let x := gathOf 0 f.head
     (Formed s.dev ∧ Served s.dev 0x12 0 0 f) ∧ badRange s.dev false x.dest (x.n * x.es) = none ∧
       (∀ j, j < x.n → x.fault s.dev true j = none ∧ inCtrl (x.elem s.dev j) = false) ∧
       ∀ j, j < x.n → x.elem s.dev j + x.es ≤ x.dest ∧ x.index + x.n * x.iw ≤ x.elem s.dev j ∧
         ∀ k, k < x.n → k ≠ j → x.elem s.dev j + x.es ≤ x.elem s.dev k ∨ x.elem s.dev k + x.es ≤ x.elem s.dev j) ∧
    (∀ sc : Bool, let f := gath0 (if sc then 0x12 else 0x11) 0x4000 (2 ^ 47)
     ready (fly [f] run0) (if sc then 0x12 else 0x11) 0 0 f = true ∧
       busRange run0 false (gathOf 0 f.head).index ((gathOf 0 f.head).n * (gathOf 0 f.head).iw) (gathOf 0 f.head).iw = some (0x0E, 0x0002)) ∧
    (∀ sc : Bool, let f := gath0 (if sc then 0x12 else 0x11) (2 ^ 47) 0x1000
     ready (fly [f] idx51) (if sc then 0x12 else 0x11) 0 0 f = true ∧
       (gathOf 0 f.head).fault (fly [f] idx51).dev sc 0 = some (0x0E, 0x0002, none)) :=
  ⟨⟨ready_spec (by decide +kernel), noHolds_of_check rfl, by decide +kernel⟩, ⟨ready_spec (by decide +kernel), by decide +kernel⟩,
    fun sc => by cases sc <;> decide +kernel, fun sc => by cases sc <;> decide +kernel⟩
/-- PUT of `len` bytes from 0x1000 to `dst`. -/
def putTo (dst len : Nat) : Flight := flt 0 0 [(0, 0x50), (16, 0x1000), (24, dst), (32, len)]
/-- GET of the word at `off` of the control window. -/
def getWord (off : Nat) : Flight := flt 0 0 [(0, 0x51), (16, ctrlBase + off), (24, 0x8000), (32, 8)]
/-- What a command that waits on `run0` with the word 5 at 0x1000 leaves. -/
def afterWord (c : Instr) (f : Flight) : Dev :=
  match exec c (fly [f] (withMem 0x1000 [5] run0)) with | .next t => t.dev | _ => run0
theorem test_put_rings :
    qTail (afterWord (.put 0 0) (putTo (bellBase + 0x2000 + 24) 8)) 1027 = 5 ∧
    (findFlight (afterWord (.put 0 0) (putTo (ctrlBase + 4) 8)) 0 0).map Flight.stage = some (.done 0x0D 0x0006 0) := by decide +kernel
theorem witness_PutGetInval :
    (∀ n ∈ [0, 1023, 65535], let f := putTo (bellBase + n / 1024 * 0x2000 + n % 1024 * 8) 8
     ready (fly [f] run0) 0x50 0 0 f = true ∧ gNode (pbytes f.head 24 8) = myNode run0 ∧
       gOff (pbytes f.head 24 8) = bellBase + n / 1024 * 0x2000 + n % 1024 * 8 ∧ badRange run0 false 0x1000 8 = none ∧
       tileAbsent run0 (qTile n) = false) ∧
    (∀ off ∈ [4, 12, 0xA00000, pRegionOff - 8], let f := putTo (ctrlBase + off) 8
     ready (fly [f] run0) 0x50 0 0 f = true ∧ gOff (pbytes f.head 24 8) = ctrlBase + off ∧ ctrlSlot off = decide (off < 16)) ∧
    (let f := getWord mSerial
     ready (fly [f] run0) 0x51 0 0 f = true ∧ gNode (pbytes f.head 16 8) = myNode run0 ∧ gOff (pbytes f.head 16 8) = ctrlBase + mSerial ∧
       inBlock mSerial = true ∧ badRange run0 true 0x8000 8 = none) ∧
    (let f := flt 0 0 [(0, 0x51), (16, 0x1000), (24, 0x8000), (32, 100)]
     let s := fly [f] run0
     (Formed s.dev ∧ Served s.dev 0x51 0 0 f) ∧ NoHolds s.dev ∧ GoodLines s.dev ∧ bits (pbytes f.head 32 6) 0 40 = 100 ∧
       badRange s.dev false 0x1000 100 = none ∧ badRange s.dev true 0x8000 100 = none ∧ gNode (pbytes f.head 16 8) = myNode s.dev ∧
       gOff (pbytes f.head 16 8) = 0x1000 ∧ bits (pbytes f.head 24 8) 0 48 = 0x8000 ∧ s.dev.weak = []) ∧
    (∀ sig, sig < 2 → let f := flt 0 0 [(0, 0x50), (10, sig), (16, 0x1000), (24, 0x8000), (32, 100), (40, 0x8064), (48, 1)]
     ready (fly [f] run0) 0x50 0 0 f = true ∧ gNode (pbytes f.head 24 8) = myNode run0 ∧ gOff (pbytes f.head 24 8) = 0x8000 ∧
       pbits f.head 10 0 1 = sig ∧ badRange run0 true (gOff (pbytes f.head 40 8)) 8 = none ∧ 0x8000 + 100 ≤ gOff (pbytes f.head 40 8)) ∧
    (let f := fset (flt 0 0 [(0, 0x50), (16, 0x1000), (24, 9 * 2 ^ 48), (32, 100)]) 100 0 0
     (Formed (fly [f] run0).dev ∧ Served (fly [f] run0).dev 0x50 0 0 f) ∧ gNode (pbytes f.head 24 8) ≠ myNode run0 ∧
       f.prog = 100 + pbits f.head 10 0 1 ∧ hasLeft (fly [f] run0).dev (gNode (pbytes f.head 24 8)) f.aux = true) ∧
    (let f := flt 0 0 [(0, 0x13)]
     Formed (fly [f] run0).dev ∧ Served (fly [f] run0).dev 0x13 0 0 f) ∧
    (let f := flt 0 0 [(0, 0x13), (10, 1), (16, 0x1000), (24, 64)]
     (Formed (fly [f] run0).dev ∧ Served (fly [f] run0).dev 0x13 0 0 f) ∧ gNode (pbytes f.head 16 8) = myNode run0) :=
  ⟨by decide +kernel, by decide +kernel, by decide +kernel,
    ⟨ready_spec (by decide +kernel), noHolds_of_check rfl, goodLines_of_check ⟨rfl, rfl, by decide +kernel⟩, by decide +kernel⟩, by decide +kernel,
    ⟨ready_spec (by decide +kernel), by decide +kernel⟩, ready_spec (by decide +kernel), ⟨ready_spec (by decide +kernel), by decide +kernel⟩⟩
theorem witness_RredAndRatom :
    (∀ fmt ∈ [0, 1, 8, 9], let f := flt 0 0 [(0, 0x52), (10, fmt), (11, 1), (12, 2), (16, 0x1000), (24, 0x8000)]
     ready (fly [f] run0) 0x52 0 0 f = true ∧ pbytes f.head 10 1 = fmt ∧ gNode (pbytes f.head 24 8) = myNode run0 ∧
       badRange run0 false 0x1000 (2 * esz fmt) = none ∧ badRange run0 true 0x8000 (2 * esz fmt) = none ∧ run0.weak = []) ∧
    (∀ op, op < 10 → ∀ ret, ret < 2 → let f := flt 0 0 [(0, 0x54), (10, op), (11, ret), (16, 0x1000), (24, 1), (40, 0x8000)]
     ready (fly [f] run0) 0x54 0 0 f = true ∧ gNode (pbytes f.head 16 8) = myNode run0 ∧ badRange run0 true 0x1000 8 = none ∧
       pbits f.head 11 0 1 = ret ∧ bits (pbytes f.head 40 6) 0 48 = 0x8000 ∧ badRange run0 true 0x8000 8 = none) ∧
    (let f := flt 0 0 [(0, 0x54), (16, 128 * 2 ^ 48)]
     ready (fly [f] run0) 0x54 0 0 f = true ∧ inRack run0 (gNode (pbytes f.head 16 8)) = false) ∧
    (let f := flt 0 0 [(0, 0x54), (16, 127 * 2 ^ 48)]
     let s := fly [f] { run0 with fab := { run0.fab with lost := [127] } }
     ready s 0x54 0 0 f = true ∧ inRack s.dev (gNode (pbytes f.head 16 8)) = true ∧ gNode (pbytes f.head 16 8) ∈ s.dev.fab.lost) := by decide +kernel
/-- An MCAST this package has sent to node 9. -/
def mcOut9 : McOut := ⟨5, 0, 2, [9], ⟨0, 2, 0, 0, 0, [1]⟩, 0⟩
theorem witness_McastSet :
    (mcMember 5 3 7 = true ∧ mcMember 5 3 9 = false) ∧
    (let f := fset (flt 0 0 [(0, 0x53), (16, 0x1000), (24, 0x8000), (36, 4096)]) 4096 0 0
     ready (fly [f] run0) 0x53 0 0 f = true ∧ bits (pbytes f.head 36 6) 0 40 = 4096 ∧ mcLeft (fly [f] run0).dev 0 = true) ∧
    (let f := flt 0 0 [(0, 0x53), (16, 0x1000), (24, 0x8000), (36, 4096)]
     let d := (fly [f] run0).dev
     ready (fly [f] run0) 0x53 0 0 f = true ∧ pbytes f.head 32 2 % 2 ^ 14 = myNode d ∧ pbytes f.head 34 2 % 2 ^ 14 = 0 ∧
       (queueAt d 0).mcasts = [] ∧ badRange d false 0x1000 4096 = none ∧ badRange d true 0x8000 4096 = none ∧ mcRoom d 0 = true ∧
       0x8000 % 4096 + 4096 ≤ 4096 ∧ (mcMembers d (myNode d) 0).filter (fun n => n != myNode d) = []) ∧
    ({ run0.fab with mcout := [mcOut9] }).mcout = [mcOut9] := by decide +kernel
/-- RECV into 0x8000 for `cap` bytes, and a SEND of 100 bytes that waits for it. -/
def recv0 (cap : Nat) : Flight := flt 0 0 [(0, 0x56), (12, 0x33), (16, 0xFF), (24, 0x8000), (32, cap), (40, 0x9000)]
def send0 (prog stop : Nat) : Flight := { fset (flt 1 0 [(0, 0x55), (12, 0x133), (16, 0x1000), (32, 100)]) prog 0 0 with stop := stop }
def ann0 : Ann := ⟨0, 0, 65536, 0, 0x133, 100⟩
def met (cap : Nat) : State := fly [recv0 cap, send0 1 0] { run0 with fab := { run0.fab with anns := [ann0] } }
theorem witness_SendRecvMatch :
    (∀ cap ∈ [99, 100], ready (met cap) 0x56 0 0 (recv0 cap) = true ∧ bits (pbytes (recv0 cap).head 24 6) 0 48 = 0x8000 ∧
      bits (pbytes (recv0 cap).head 32 6) 0 32 = cap ∧ bits (pbytes (recv0 cap).head 40 6) 0 48 = 0x9000 ∧
      badRange (met cap).dev true 0x8000 cap = none ∧ badRange (met cap).dev true 0x9000 16 = none ∧
      (met cap).dev.fab.anns.find? (fun a => a.queue == 0 && a.path == pbytes (recv0 cap).head 10 1 &&
        (a.mtag &&& pbytes (recv0 cap).head 16 4) == (pbytes (recv0 cap).head 12 4 &&& pbytes (recv0 cap).head 16 4)) = some ann0 ∧
      ann0.src = myNode (met cap).dev ∧ findFlight (met cap).dev (ann0.id / 65536) (ann0.id % 65536) = some (send0 1 0) ∧
      (send0 1 0).op = 0x55 ∧ bits (pbytes (send0 1 0).head 16 8) 0 48 = 0x1000 ∧ bits (pbytes (send0 1 0).head 32 6) 0 32 = 100 ∧
      badRange (met cap).dev false 0x1000 100 = none ∧ 0x1000 + 100 ≤ 0x8000 ∧ 0x8000 + cap ≤ 0x9000) ∧
    (ready (fly [recv0 100] run0) 0x56 0 0 (recv0 100) = true ∧ run0.fab.anns = []) ∧
    ready (fly [send0 1 0] run0) 0x55 1 0 (send0 1 0) = true ∧
    (let f := flt 1 0 [(0, 0x55), (16, 2 ^ 47), (32, 100)]
     ready (fly [f] run0) 0x55 1 0 f = true ∧ busRange run0 false (bits (pbytes f.head 16 8) 0 48) (bits (pbytes f.head 32 6) 0 32) 8 = some (0x0E, 0x0002)) ∧
    (ready (fly [send0 2 1] run0) 0x55 1 0 (send0 2 1) = true ∧ run0.fab.asks = []) := by decide +kernel
/-- A package with one message it has received. -/
def got (n : Nat) (m : Msg) (l : List Flight) : State := fly l { run0 with fab := { run0.fab with inbox := [(n, m)] } }
theorem witness_SendAnnounces :
    (ready (fly [send0 0 0] run0) 0x55 1 0 (send0 0 0) = true ∧ pbytes (send0 0 0).head 10 1 = 0 ∧
      bits (pbytes (send0 0 0).head 24 8) 16 14 = myNode run0 ∧ run0.fab.anns.length < 4096 ∧
      badRange run0 false (bits (pbytes (send0 0 0).head 16 8) 0 48) (bits (pbytes (send0 0 0).head 32 6) 0 32) = none) ∧
    (ready (fly [send0 2 0] run0) 0x55 1 0 (send0 2 0) = true ∧ (send0 2 0).aux ≤ mono run0) ∧
    (let s := got 0x3FFF ⟨0, 6, 0, 7, 0, []⟩ []
     formedB s.dev = true ∧ bitAt 0 2 = false) ∧
    (∀ cap ∈ [0, 1], let m : Msg := ⟨0, 7, 0, 0x8000, 65536 * 65536 + cap * 2 ^ 48, []⟩
     let s := got 9 m [send0 1 0]
     formedB s.dev = true ∧ bits m.args 16 32 = cmdId 1 0 ∧ bits m.args 48 32 = cap ∧ findFlight s.dev 1 0 = some (send0 1 0) ∧
       9 ≠ myNode s.dev ∧ 0 < bits (pbytes (send0 1 0).head 32 6) 0 32) ∧
    (let s := fly [send0 1 0] { run0 with fab := { run0.fab with store := (upto 5000).map fun k => ⟨9, 2, 1, ⟨k, 1, 0, 0, 0, []⟩⟩ } }
     roomFor s.dev 1 4096 = false) := by decide +kernel

/-! Ports, the fabric and collectives. -/

/-- Node 0 of a pod of four dimensions whose port 1 is in state `st`, with all its 8 lanes up, and has the link state `l`. -/
def onPort (st : Nat) (l : Link) : Dev :=
  withEff [(fPortCtl 1, 0xFF)] (withRegs [(fNodeCfg, 4 <<< 14), (fPortStat 1, st + 0xFF <<< 4 + 2 <<< 20)] { run0 with fab := { run0.fab with links := [(1, l)] } })
def quiet : Link := { link0 1 with rxNext := 9 }
def fx (dest src typ : Nat) : FlitX := ⟨dest, src, typ, 2, 0, 15, 1, 0, 15, [], 1, 0⟩
def busyL : Link := { link0 1 with txq := [fx 2 0 1] }
theorem witness_PortOperations :
    (∀ st ∈ [0, 4, 5], formedB (onPort st quiet) = true ∧ portState (onPort st quiet) 1 = st ∧ mayTrain (onPort st quiet) 1 = true) ∧
    (∀ st ∈ [1, 2, 3], formedB (onPort st quiet) = true ∧ portState (onPort st quiet) 1 = st ∧ (linkAt (onPort st quiet) 1).txq = [] ∧
      (linkAt (onPort st quiet) 1).replay = []) ∧
    (formedB (onPort 2 busyL) = true ∧ portState (onPort 2 busyL) 1 = 2 ∧ (linkAt (onPort 2 busyL) 1).txq ≠ []) ∧
    (let d := onPort 1 quiet
     formedB d = true ∧ portState d 1 = 1 ∧ ef d (fPortCtl 1) 0 16 % 2 ^ portLanes 1 = 0xFF ∧
       identityOk d 1 ⟨2, 1, 4, 0, 1⟩ = true ∧ identityOk d 1 ⟨3, 1, 4, 0, 1⟩ = false ∧ 2 * popCount 16 (7 &&& 0xFF) < popCount 16 0xFF ∧
       0xF &&& 0xFF ≠ 0 ∧ popCount 16 0xFF ≤ 2 * popCount 16 (0xF &&& 0xFF)) := by decide +kernel
theorem witness_PortTrouble :
    (let d := onPort 2 quiet
     formedB d = true ∧ portState d 1 = 2 ∧ rb d (fPortStat 1) (4 + 7) = true ∧ tooNarrow (laneOut 1 7 d) 1 = false ∧
       (linkAt d 1).retrain = [] ∧ (linkAt d 1).txq = [] ∧ (linkAt d 1).replay = []) ∧
    (let d := setF (onPort 2 quiet) (fPortStat 1) 4 16 0xF0
     formedB d = true ∧ portState d 1 = 2 ∧ rb d (fPortStat 1) (4 + 7) = true ∧ tooNarrow (laneOut 1 7 d) 1 = true ∧
       (linkAt d 1).txq = [] ∧ (linkAt d 1).replay = []) ∧
    (let d := onPort 2 { quiet with retrain := [(7, 1)] }
     formedB d = true ∧ portState d 1 = 2 ∧ rb d (fPortStat 1) (4 + 7) = true ∧ (linkAt d 1).retrain = [(7, 1)]) ∧
    (∀ st ∈ [2, 3], formedB (onPort st quiet) = true ∧ portState (onPort st quiet) 1 = st) := by decide +kernel
/-- A flit on the wire: header word and body, with its CRC-32 (R298, R299). -/
def wire (dest src typ cls lseq : Nat) (body : List Byte) : Flit :=
  let bs := bytesOf 8 (dest + src <<< 14 + typ <<< 28 + cls <<< 32 + lseq <<< 40) ++ (body ++ bytesOf 116 0).take 116
  BitVec.ofNat 1024 (natOf (bs ++ bytesOf 4 (crc32 bs)))
theorem witness_LinkAndRouting :
    (let d := onPort 2 quiet
     formedB d = true ∧ portState d 1 = 2 ∧ (linkAt d 1).rxNext = 9 ∧ (linkAt d 1).txq = [] ∧
       (∀ lseq ∈ [9, 10], let r := flitParse (wire 0 2 1 2 lseq []) (portDim d 1)
         r.2.2.2 = true ∧ r.1.typ = 1 ∧ r.2.1 = lseq) ∧
       (flitParse (wire 0 2 1 2 9 [] ^^^ 1) (portDim d 1)).2.2.2 = false) ∧
    (let d := onPort 2 { quiet with replay := [(4, fx 2 0 1)], failSeq := 4, fails := 7 }
     formedB d = true ∧ portState d 1 = 2 ∧ (4, fx 2 0 1) ∈ (linkAt d 1).replay ∧ (linkAt d 1).failSeq = 4 ∧ (linkAt d 1).fails = 7) ∧
    (let d := onPort 2 { quiet with replay := [(4, fx 2 0 1)], failSeq := 3, fails := 7 }
     formedB d = true ∧ (linkAt d 1).failSeq ≠ 4) ∧
    (let d := onPort 2 quiet
     let x := fx 6 0 1
     planPort d x = none ∧ chordUp d 0 = false ∧ chordUp d 1 = false ∧ 1 < rf d fNodeCfg 14 4 ∧ bitAt (myNode d ^^^ x.dest) 1 = true ∧
       dimPort d 1 = some 1 ∧ bitAt (myNode d ^^^ x.dest) 0 = false ∧ planPort (onPort 0 quiet) x = none ∧
       ∀ k, k < 4 → dimPort (onPort 0 quiet) k = none) ∧
    (let x : FlitX := { fx 1 9 1 with lastdim := 0 }
     let d : Dev := withRegs [(fNodeCfg, 4 <<< 14), (fPortStat 0, 2)] { run0 with fab := { run0.fab with inq := [x] } }
     d.fab.inq = [x] ∧ x.src = 9 ∧ x.dest ≠ myNode d ∧ route d x = some (0, x.layer, 0) ∧ portState d 0 = 2 ∧ (linkAt d 0).txq = [] ∧
       (linkAt d 0).replay = [] ∧ tabGet (fun _ => 0) (linkAt d 0).used (poolOf { x with outLayer := x.layer, outLast := 0 }) < 64) := by decide +kernel
/-- A package with one flit accepted. -/
def flitIn (x : FlitX) (lost : List Nat) : Dev := { run0 with fab := { run0.fab with inq := [x], lost := lost } }
/-- A WRITE of four bytes at 0x8000 from node 9. -/
def wr9 (dseq : Nat) : Msg := ⟨dseq, 1, 0, 0x8000, 0, [1, 2, 3, 4]⟩
def wr9X (dseq : Nat) : FlitX := { fx 0 9 1 with body := bytesOf 4 dseq ++ bytesOf 1 1 ++ bytesOf 1 0 ++ bytesOf 2 4 ++ bytesOf 6 0x8000 ++ bytesOf 14 0 ++ [1, 2, 3, 4] }
theorem witness_MessagesInOrder :
    (∀ dseq ∈ [0, 1], ∀ lost ∈ [[], [9]], let d := flitIn (wr9X dseq) lost
      formedB d = true ∧ (wr9X dseq).dest = myNode d ∧ headMsg (wr9X dseq).body = (wr9 dseq, (wr9 dseq).data.length) ∧ (wr9 dseq).op = 1 ∧
        argFlag (wr9 dseq) 3 = false ∧ retraining d = false ∧ 9 ≠ myNode d) ∧
    NoHolds (flitIn (wr9X 0) []) ∧
    (let d := flitIn (wr9X 0) []
     9 ∉ d.fab.lost ∧ 9 ∈ (flitIn (wr9X 0) [9]).fab.lost ∧ isBell 0x8000 = false ∧ inTether d = false ∧ badRange d true 0x8000 4 = none ∧
       writeErr d 0x8000 4 = none ∧ (wr9 0).dseq = (peerAt d 9).rxNext ∧ (peerAt d 9).got < 31 ∧ (wr9 1).dseq ≠ (peerAt d 9).rxNext) ∧
    (let x : FlitX := { fx 0 9 3 with body := [5, 0, 0, 0, 0] }
     let d := flitIn x []
     formedB d = true ∧ x.dest = myNode d ∧ 9 ∉ d.fab.lost ∧ natOf (x.body.take 4) = 5 ∧ natOf ((x.body.drop 4).take 1) = 0 ∧ (peerAt d 9).acked ≠ 5) ∧
    (let d : Dev := { run0 with fab := { run0.fab with peers := [(9, { peer0 9 with got := 3 })], store := [⟨9, 2, 0x20000, wr9 7⟩] } }
     formedB d = true ∧ peerAt d 9 ≠ peer0 9 ∧ 9 ≠ myNode d ∧ 9 ∉ d.fab.lost ∧ d.fab.store = [⟨9, 2, 0x20000, wr9 7⟩] ∧ d.fab.asks = []) :=
  ⟨by decide +kernel, noHolds_of_check rfl, by decide +kernel, by decide +kernel, by decide +kernel⟩
/-- An RRED of one element `v` of format `fmt` at 0x8000 from node `src`. -/
def rred9 (fmt v : Nat) : Msg := ⟨0, 2, fmt, 0x8000, 0, bytesOf (esz fmt) v⟩
def rred9X (src fmt v : Nat) : FlitX := { fx 0 src 1 with body := msgHeader (rred9 fmt v) ++ bytesOf (esz fmt) v, came := src }
theorem witness_MessagesInOrder_merged :
    (∀ fmt ∈ [9, 1], let x := rred9X 9 fmt 3
     let y := rred9X 73 fmt 0x40000000
     let d : Dev := { run0 with fab := { run0.fab with inq := [x, y] } }
     formedB d = true ∧ x.src = 9 ∧ y.src = 73 ∧ x.dest = myNode d ∧ y.dest = myNode d ∧ x.typ = 1 ∧ y.typ = 1 ∧
       headMsg x.body = (rred9 fmt 3, (rred9 fmt 3).data.length) ∧
       headMsg y.body = (rred9 fmt 0x40000000, (rred9 fmt 0x40000000).data.length) ∧ (peerAt d 9).rxNext = 0 ∧ (peerAt d 73).rxNext = 0 ∧
       0x8000 % esz fmt = 0 ∧ 0x40000000 < 2 ^ (8 * esz fmt) ∧ x.port = y.port ∧ x.cls = y.cls ∧ x.layer = y.layer ∧ x.came ≤ y.came ∧
       y.came ≤ x.came + 64 ∧ retraining d = false ∧ 9 ∉ d.fab.lost ∧ 73 ∉ d.fab.lost ∧ inTether d = false ∧
       badRange d true 0x8000 (esz fmt) = none ∧ d.weak = [] ∧ (peerAt d 9).got < 31 ∧ (peerAt d 73).got < 31) ∧
    ∀ l, NoHolds { run0 with fab := { run0.fab with inq := l } } ∧ GoodLines { run0 with fab := { run0.fab with inq := l } } :=
  ⟨by decide +kernel, fun _ => ⟨noHolds_of_check rfl, goodLines_of_check ⟨rfl, rfl, (by decide +kernel : farLen run0 = 0)⟩⟩⟩
/-- INT64 elements 3 and 5 from two nodes, added to one word in one update (R330). -/
theorem test_merged_sum :
    let d : Dev := { run0 with mem := putMem [] 0x8000 [1], fab := { run0.fab with inq := [rred9X 9 9 3, rred9X 10 9 5] } }
    let t := messageReceive 10 d
    (ld t 0x8000 8, (peerAt t 9).rxNext, (peerAt t 10).rxNext, t.fab.inq.length, t.fab.merged) = (9, 1, 1, 0, [0x8000]) := by decide +kernel
/-- A package with group 5, of this node alone, in entry 0: epoch 2, next number 3. -/
def inGrp (span : Nat) (d : Dev) : Dev := withRegs [(fGroupTab 0 0, 5 + 2 ^ 15 + 2 <<< 16 + span <<< 48), (fGroupTab 0 4, 3)] d
def coll0 (op kind epoch : Nat) : Flight := flt 0 0 [(0, op), (10, kind), (14, 5), (16, epoch)]
def inst0 (phase : Nat) : Coll := ⟨0, 0, 5, 2, 3, phase, 0, 0, false, [], [], [], false, 0, false, [], some 4⟩
theorem witness_CollectivesEnd :
    (∀ op ∈ [0x60, 0x62], let f := coll0 op 4 2
      ready (fly [f] run0) op 0 0 f = true ∧ findColl run0 0 0 = none ∧ findGrp run0 (pbytes f.head 14 2 % 4096) = none) ∧
    (∀ op ∈ [0x60, 0x62], let f := coll0 op 4 4
      let d := inGrp 0 run0
      ready (fly [f] d) op 0 0 f = true ∧ (findGrp d (pbytes f.head 14 2 % 4096)).any (fun g => pbytes f.head 16 2 != g.epoch && pbytes f.head 16 2 != g.epoch + 1) = true ∧
        f.prog ≠ 7) ∧
    (let f := coll0 0x60 4 2
     let d := (fly [f] (inGrp 0 run0)).dev
     ready (fly [f] d) 0x60 0 0 f = true ∧ d.colls.insts = [] ∧ d.colls.rx = [] ∧ d.colls.ended = [] ∧ d.flights = [f] ∧
       (findGrp d (pbytes f.head 14 2 % 4096)).any (fun g => pbytes f.head 16 2 == g.epoch && g.base == myNode d && g.span == 0 &&
         g.absent == [] && (rg d mTouchmark).toNat == g.tm) = true ∧ pbytes f.head 10 1 = 4 ∧ pbytes f.head 21 1 = 0 ∧ pbytes f.head 24 4 = 0) ∧
    (∀ op ∈ [0x60, 0x62], let f := coll0 op 0 2
      let d := (fly [f] (inGrp 0 { run0 with colls := { run0.colls with insts := [inst0 6] } })).dev
      ready (fly [f] d) op 0 0 f = true ∧ findColl d 0 0 = some (inst0 6) ∧ (inst0 6).phase = 6 ∧ (inst0 6).werr = false ∧ d.colls.rx = [] ∧
        (inst0 6).grp = pbytes f.head 14 2 % 4096 ∧ (findGrp d 5).any (fun g => (descOf d f g.size).afmt != 0xC) = true) ∧
    (List.replicate 256 (0 : Nat)).length = 256 := by decide +kernel
/-- A package with a message of node 2 it has received. -/
def msgIn (m : Msg) (d : Dev) : Dev := { d with fab := { d.fab with inbox := [(2, m)] } }
/-- A stage message of group 5, epoch `e`, number `c`, of `n` bytes. -/
def stageM (op e c n : Nat) : Msg := ⟨0, op, 0, 0, 5 + e <<< 16 + c <<< 32, bytesOf n 1⟩
theorem witness_CollectiveEvents :
    (∀ ec ∈ [(2, 3), (2, 2), (1, 9)], let d := msgIn (stageM 0x10 ec.1 ec.2 64) (inGrp 0 run0)
      formedB d = true ∧ (findGrp d (mGrp (stageM 0x10 ec.1 ec.2 64))).isSome = true ∧ d.colls.insts = [] ∧
        stagedBytes d + 64 ≤ poolBytes d ∧ mEpoch (stageM 0x10 ec.1 ec.2 64) = ec.1 ∧ mCseq (stageM 0x10 ec.1 ec.2 64) = ec.2) ∧
    (let d := withEff [(fCollPool, 0)] (msgIn (stageM 0x10 2 3 64) (inGrp 0 run0))
     formedB d = true ∧ poolBytes d < stagedBytes d + 64) ∧
    (let m := stageM 0x14 2 3 4
     let d := (fly [coll0 0x60 0 2] (msgIn m (inGrp 0 { run0 with colls := { run0.colls with insts := [inst0 1] } }))).dev
     formedB d = true ∧ m.op = 0x14 ∧ d.colls.rx = [] ∧ d.colls.insts = [inst0 1] ∧ (inst0 1).owns m = true ∧
       (findGrp d (mGrp m)).isSome = true ∧ findFlight d 0 0 = some (coll0 0x60 0 2)) ∧
    (let d := (fly [coll0 0x60 0 2] (withRegs [(fFrameNum, 4)] (inGrp 0 { run0 with colls := { run0.colls with insts := [inst0 1] } }))).dev
     formedB d = true ∧ (inst0 1).dl = some 4 ∧ 4 ≤ frameNum d ∧ d.clk.mode ≠ .waiting ∧ (findGrp d 5).isSome = true ∧
       findFlight d 0 0 = some (coll0 0x60 0 2) ∧ rb d fCollErr 56 = false) ∧
    (∀ k, k < 2 → let f := flt 0 0 [(0, 0x61), (10, k), (12, 5)]
      let d := (fly [f] run0).dev
      ready (fly [f] run0) 0x61 0 0 f = true ∧ f.prog = 0 ∧ d.flights = [f] ∧ d.colls.insts = [] ∧ findGrp d (pbytes f.head 12 2 % 4096) = none ∧
        findUp (fun e => !(grpAt d e).valid) 64 0 = some 0 ∧ (formGrp d f.head 0 0 0).lives = [myNode d]) ∧
    (∀ k ∈ [0, 2], let f := flt 0 0 [(0, 0x61), (10, k), (12, 5)]
      let d := (fly [f] (inGrp 0 run0)).dev
      ready (fly [f] d) 0x61 0 0 f = true ∧ pbytes f.head 10 1 = k ∧ (findGrp d (pbytes f.head 12 2 % 4096)).any (fun h => decide (h.idx < 64)) = true) ∧
    (let f := fset (flt 0 0 [(0, 0x61), (12, 5), (18, 3)]) 1 0 0
     let d := (fly [f] run0).dev
     ready (fly [f] run0) 0x61 0 0 f = true ∧ f.prog = 1 ∧ d.colls.forms = [] ∧ (formGrp d f.head 0 0 0).lives = [0, 1, 2, 3] ∧ 1 ≠ myNode d) ∧
    (let m : Msg := ⟨0, 0x15, 0, 0, 0, bytesOf 64 0⟩
     formedB (msgIn m run0) = true ∧ (msgIn m run0).fab.inbox = [(2, m)] ∧ natOf (m.data.take 1) = 0 ∧ (msgIn m run0).colls.forms = []) := by decide +kernel

/-! Registers, frames and time. -/

/-- The clock of a package that runs pod frames. -/
def podClk : Clock := ⟨700, 28000, 48, true, false, .pod, true, true, none, none⟩
/-- A member that is locked in pod frames, frame 5, node 0 under root 3, its parent on port 1, which is up. -/
def pod0 : Dev :=
  withEff [(fBridleCfg, 3 + 2 ^ 30)] (withRegs [(fFrameNum, 5), (fBridleCfg, 3 + 2 ^ 30), (fBridleStat, 1 + 1 <<< 3), (fPortStat 1, 2 + 9 <<< 20)]
    { run0 with clk := podClk })
/-- The acting root in pod frames. -/
def root0 : Dev := setB pod0 fBridleStat 2 true
/-- A package that waits for its first pod tick, as root or as member. -/
def wait0 (root : Nat) (at' : Option Nat) : Dev :=
  withEff [(fBridleCfg, root + 2 ^ 30)] (withRegs [(fBridleCfg, root + 2 ^ 30)] { run0 with clk := ⟨700, 28000, 48, true, false, .waiting, false, false, at', none⟩ })

theorem witness_AccessTypes :
    Formed run0 ∧ running run0 = true ∧ absentReg run0 mStatus = false ∧ absentReg run0 (aChTab 63) = false ∧
      (regFields mStatus).isSome = true ∧ (regFields (aChTab 63)).isSome = true ∧ (regFields (pPcieStat 1)).isSome = true ∧
      rb run0 mStatus 5 = false ∧ rb (setB run0 mStatus 5 true) mStatus 5 = true :=
  ⟨formed_of_check (by decide +kernel), by decide +kernel⟩
theorem witness_CheckedRegisters :
    (Formed run0 ∧ running run0 = true ∧ Agent.myeles ≠ .job ∧ rb run0 mStatus 5 = false) ∧
    (Formed (setB run0 mStatus 5 true) ∧ rb (setB run0 mStatus 5 true) mStatus 5 = true ∧
      ∀ lo n, ef (setB run0 mStatus 5 true) pLlcCfg lo n = rf (setB run0 mStatus 5 true) pLlcCfg lo n) ∧
    (qState (withRegs [(qPtr 65535, ptrs 0 0 0 1)] run0) 65535 ≠ 0 ∧ tileAbsent (withRegs [(qPtr 65535, ptrs 0 0 0 1)] run0) (qTile 65535) = false) ∧
    assigned 0x7FFF8 = false :=
  ⟨⟨formed_of_check (by decide +kernel), by decide +kernel⟩, ⟨formed_of_check (by decide +kernel), by decide +kernel, fun _ _ => rfl⟩,
    by decide +kernel, by decide +kernel⟩
theorem witness_FrameTicks :
    (∀ s ∈ [Dev.reset, run0, pod0, wait0 0 none, wait0 3 none, wait0 0 (some 5000000)], formedB s = true ∧ s.tetherReq = none ∧
      ∀ a, a < 8 → tabGet regReset s.eff (aTileMap a) = rg s (aTileMap a)) ∧
    (running Dev.reset = false ∧ running run0 = true ∧ run0.clk.ticked = true ∧ run0.clk.nextTick = none ∧ run0.clk.mode = .local' ∧
      brEnable run0 = false ∧ running pod0 = true ∧ pod0.clk.ticked = true ∧ pod0.clk.nextTick = none ∧ pod0.clk.mode = .pod ∧
      brEnable pod0 = true) ∧
    ((wait0 0 none).clk.mode = .waiting ∧ myNode (wait0 0 none) = brRoot (wait0 0 none) ∧ (wait0 0 none).clk.changeAt = none ∧
      myNode (wait0 3 none) ≠ brRoot (wait0 3 none) ∧ (wait0 3 none).bridle.rootTick = none ∧
      tabGet regReset (wait0 0 (some 5000000)).eff fBridleCfg = rg (wait0 0 (some 5000000)) fBridleCfg ∧
      myNode (wait0 0 (some 5000000)) = brRoot (wait0 0 (some 5000000)) ∧ (wait0 0 (some 5000000)).clk.changeAt = some 5000000) ∧
    (run0.clk.inSlack = false ∧ run0.clk.mode ≠ .waiting) ∧
    (let r (due : Bool) : FrameRec := ⟨4, 0, 1000, 0, 0, [], 0, true, due⟩
     let d (ptr : Nat) : Dev := withRegs [(mFrmRing, 0x9000 + 10 <<< 48 + 1 <<< 53), (mFrmPtr, ptr)] { run0 with frecs := [r true] }
     formedB { run0 with frecs := [r false] } = true ∧ (r false).due = false ∧
       formedB (setB (d 0) mFrmRing 53 false) = true ∧ rb (setB (d 0) mFrmRing 53 false) mFrmRing 53 = false ∧
       formedB (d 1024) = true ∧ rb (d 1024) mFrmRing 53 = true ∧ ringFull (d 1024) mFrmPtr 24 10 = true ∧
       formedB (d 1023) = true ∧ ringFull (d 1023) mFrmPtr 24 10 = false ∧ rf (d 1023) mFrmRing 48 5 = 10 ∧
       writeErr (d 1023) (0x9000 + 64 * 1023) 64 = none ∧ (d 1023).frecs = [r true] ∧ (r true).due = true) := by decide +kernel
/-- A plan image of node 0 with the default geometry and no flow. -/
def img0 : List Byte := bytesOf 64 (7 + 100000 <<< 32 + 80000 <<< 64 + 80000 <<< 96 + 64 <<< 224)
def imgCrc : List Byte := img0.take 60 ++ bytesOf 4 (crc32 (img0.take 60 ++ [0, 0, 0, 0]))
theorem witness_FramePlans :
    (formedB run0 = true ∧ running run0 = true ∧ actingRoot run0 = false ∧ run0.plans.announced = none ∧
      badRange (setRegN run0 fPlanBase (2 ^ 47)) false (2 ^ 47) 64 = some (0x0E, 0x0002) ∧ actingRoot pod0 = false ∧ pod0.clk.mode = .pod) ∧
    (let d := setRegN (withMem 0x4000 img0 run0) fPlanBase 0x4000
     formedB d = true ∧ running d = true ∧ actingRoot d = false ∧ rf d fPlanBase 0 48 = 0x4000 ∧ badRange d false 0x4000 64 = none ∧
       readErr d 0x4000 64 = none ∧ ld d (0x4000 + 28) 4 = 64 ∧ planErr (myNode d) 64 (ldBytes d 0x4000 64) = 1 ∧ d.weak = []) ∧
    (formedB root0 = true ∧ running root0 = true ∧ actingRoot root0 = true ∧ rb root0 fPlanStat 36 = false ∧
      rb (setB root0 fPlanStat 36 true) fPlanStat 36 = true ∧ frameNum root0 = 5 ∧ (7 : Word).toNat < 5 + 3 ∧ 5 + 3 ≤ (8 : Word).toNat ∧
      rg (setRegN root0 fPlanApply 9) fPlanApply ≠ 0) ∧
    (let g : Geometry := ⟨100000, 90000, 90000, 0, 0⟩
     ∀ ok : Bool, ok = true ∨ (let d := { root0 with plans := { root0.plans with announced := some (5, g), snap := img0, snapOk := ok } }
      formedB d = true ∧ running d = true ∧ d.plans.announced = some (5, g) ∧ d.clk.mode = .pod ∧ frameNum d = 5 ∧ g.period < 2 ^ 24 ∧
      g.slackStart < 2 ^ 24 ∧ g.exchStart < 2 ^ 24 ∧ g.slotLen < 2 ^ 16 ∧ g.slotCount < 2 ^ 13)) ∧
    planErr 0 64 imgCrc = 0 := by
  refine ⟨by decide +kernel, by decide +kernel, by decide +kernel, fun ok => ?_, by decide +kernel⟩
  cases ok
  · exact .inr (by decide +kernel)
  · exact .inl rfl
/-- A node that runs with stack 15 as `x` says. -/
def refr (x : Stack) : Dev := { run0 with stackSt := [(15, x)] }
theorem witness_RefreshEvents :
    (∀ x ∈ [stack0 15, { stack0 15 with owed := 1023, pause := 100000 }, { stack0 15 with owed := 5, carried := 5 },
        { stack0 15 with owed := 3, waitUntil := some 9 }],
      x = stack0 15 ∨ formedB (refr x) = true ∧ running (refr x) = true ∧ stackAt (refr x) 15 = x ∧ x.parked = false ∧ retired (refr x) 15 = false) ∧
    (let x : Stack := { stack0 15 with owed := 1023, pause := 100000 }
     paying (refr x) 15 = false ∧ x.owed < 1024 ∧ (refr x).clk.inSlack = false ∧ x.pause ≠ 0 ∧ x.pause < periodNs (refr x) ∧
       (x.pausesDone + 1) * x.pause < slackNs (refr x)) ∧
    (let x : Stack := { stack0 15 with owed := 5, carried := 5 }
     x.carriedDone < x.carried ∧ (x.carriedDone + 1) * forcedGap (refr x) x.carried < slackNs (refr x)) ∧
    (let x : Stack := { stack0 15 with owed := 3, waitUntil := some 9 }
     x.waitUntil = some 9 ∧ boundOn (refr x) 15 = false) ∧
    (stack0 15).waitUntil = none := by decide +kernel
theorem witness_BridleAndTime :
    (formedB run0 = true ∧ Agent.myeles ≠ .job ∧ brEnable run0 = false ∧ jobQueuesOff run0 = true ∧
      jobQueuesOff (withRegs [(qPtr 7, ptrs 0 0 0 1)] run0) = false ∧ formedB (withRegs [(qPtr 7, ptrs 0 0 0 1)] pod0) = true ∧
      brEnable (withRegs [(qPtr 7, ptrs 0 0 0 1)] pod0) = true ∧ jobQueuesOff (withRegs [(qPtr 7, ptrs 0 0 0 1)] pod0) = false ∧
      brSource run0 = 0 ∧ formedB pod0 = true ∧ brEnable pod0 = true ∧ jobQueuesOff pod0 = true ∧ pod0.clk.mode = .pod ∧
      formedB (wait0 3 none) = true ∧ brEnable (wait0 3 none) = true ∧ jobQueuesOff (wait0 3 none) = true ∧ (wait0 3 none).clk.mode = .waiting ∧
      wbit (2 ^ 30 : Word) 30 = true) ∧
    (portState pod0 1 = 2 ∧ rb pod0 fBridleStat 2 = false ∧ rf pod0 fBridleStat 3 5 = 1 ∧
      rf (setF pod0 fBridleStat 3 5 2) fBridleStat 3 5 ≠ 1 ∧ tabGet (fun _ => 0) pod0.bridle.heard 1 + 2 ≤ frameNum pod0 ∧ rb pod0 fHbLost 1 = false ∧
      frameNum (setRegN pod0 fFrameNum 1) < tabGet (fun _ => 0) pod0.bridle.heard 1 + 2 ∧ myNode pod0 ≠ brBackup pod0 + 1 ∧
      rb root0 fBridleStat 2 = true ∧ formedB root0 = true ∧ portState root0 1 = 2) ∧
    (let d := { pod0 with bridle := { pod0.bridle with holdStart := some 3 } }
     formedB d = true ∧ portState d 1 = 2 ∧ brEnable d = true ∧ d.clk.mode = .pod ∧ d.bridle.holdStart = some 3 ∧ rb d fBridleStat 2 = false) ∧
    (∀ src, 0 < src → src < 4 → let d := withEff [(fBridleCfg, src <<< 28 + 2 ^ 30)] (setRegN pod0 fBridleCfg (src <<< 28 + 2 ^ 30))
     formedB d = true ∧ portState d 1 = 2 ∧ brEnable d = true ∧ d.clk.mode = .pod ∧ rb d fBridleStat 2 = false ∧ myNode d = brBackup d ∧
       running d = true ∧ myNode d = brRoot d ∧ brSource d = src) := by
  refine ⟨by decide +kernel, by decide +kernel, by decide +kernel, fun src h1 h2 => ?_⟩
  have : src = 1 ∨ src = 2 ∨ src = 3 := by omega
  rcases this with rfl | rfl | rfl <;> decide +kernel

/-! Faults, lost nodes, pairing, launch, stacks, ingots and replicas. -/

theorem far_port {d : Dev} {l p : Nat} : regionOf d l = .far p → p = farPortIn (farSets d) (l - farBase) := by
  unfold regionOf
  dsimp only
  repeat' split
  all_goals intro h; first | (cases h; rfl) | cases h
theorem goodLines_far {d : Dev} {n : Nat} (h : d.bad = [] ∧ d.stackSt = [] ∧ farSets d = [(0, 4, n)] ∧ ∀ p, p < 4 → rb d mFarStat p = true) :
    GoodLines d := by
  obtain ⟨h1, h2, h3, h4⟩ := h
  have port : ∀ o, rb d mFarStat (farPortIn (farSets d) o) = true := by
    intro o
    rw [h3]
    unfold farPortIn
    split
    · rw [Nat.zero_add]; exact h4 _ (Nat.mod_lt _ (by decide))
    · unfold farPortIn; exact h4 0 (by decide)
  intro l
  unfold lineErr
  split
  · simp [stackAt, h2, tabGet, stack0, h1]
  · rename_i p hp
    rw [far_port hp, port]
    simp [h1]
  · simp [h1]

/-- A package in pod frames, node 0, of which nothing is in flight. -/
def quiet0 : Dev := setF pod0 mFaultStat 42 10 7
theorem witness_FaultsRecorded :
    (formedB quiet0 = true ∧ running quiet0 = true ∧ quiet0.tetherReq = none ∧ inTether quiet0 = false ∧ quiet0.colls.insts = [] ∧
      rf quiet0 mFaultStat 42 10 ≠ 0 ∧ tileGone quiet0 (8 * 7 + 7) = false ∧ retired quiet0 15 = false ∧ (stackAt quiet0 15).parked = false ∧
      pcState quiet0 15 31 = 0 ∧ quiet0.planeBad = false ∧ quiet0.plane < 2 ∧ bits quiet0.bridle.refsLost 0 1 = 0 ∧
      bits quiet0.bridle.refsLost 1 1 = 0 ∧ myelesAlive quiet0 = true ∧ quiet0.pdieBeat = 0 ∧ Agent.myeles ≠ .job) ∧
    (let d : Dev := { quiet0 with stackSt := [(15, { stack0 15 with pcs := [(31, 1)] })], planeBad := true, pdieBeat := 4 }
     let d := setF (setB d mFarStat 3 true) pCoreStat 31 1 1
     formedB d = true ∧ running d = true ∧ d.tetherReq = none ∧ inTether d = false ∧ d.colls.insts = [] ∧ pcState d 15 31 = 1 ∧
       rb d pCoreStat 31 = true ∧ rb d pCoreStat (32 + 31) = false ∧ d.planeBad = true ∧ rb d mFarStat 3 = true ∧ d.pdieBeat ≠ 0 ∧
       rf d mFlashOwn 0 2 ≠ 1) := by decide +kernel
theorem witness_NodeLostAndPairing :
    (let d : Dev := { quiet0 with loss := { quiet0.loss with suspects := [(2, 3), (2, 6)] } }
     formedB d = true ∧ running d = true ∧ brEnable d = true ∧ d.clk.mode = .pod ∧ 2 ∉ d.fab.lost ∧ evidence d 2 4 = true ∧ evidence d 5 4 = false ∧
       2 ≤ (d.loss.suspects.filter fun e => e.1 == 2).length ∧ 2 ≠ myNode d ∧ 2 ≠ twinNode d ∧ d.flights = [] ∧ d.fab.asks = [] ∧
       d.fab.mcout = [] ∧ findUp (fun k => !rb d (fLostTab k 0) 15) 64 0 = some 0 ∧ myNode d = 0 ∧ inTether d = false ∧ d.tetherReq = none) ∧
    (let d : Dev := { quiet0 with fab := { quiet0.fab with lost := [2] } }
     formedB d = true ∧ running d = true ∧ 2 ∈ d.fab.lost ∧ 2 ≠ myNode d) ∧
    (∀ tm < 2, let d := setB quiet0 mTwinStat 3 true
     let r : PairRec := ⟨twinNode d, tm, 0, 4, true, false, 5, 4, 3, 0⟩
     formedB d = true ∧ running d = true ∧ findIngot d replicaOwner = none ∧ twinNode d < 2 ^ 14 ∧ twinNode d ∉ d.fab.lost ∧
       rb d mTwinStat 3 = true ∧ rf d mLifecycle 0 3 ≠ 3 ∧ r.tm < 2 ^ 32 ∧ r.held < 2 ^ 64 ∧ (tm = 0 → r.tm = (rg d mTouchmark).toNat) ∧
       (tm = 1 → r.tm ≠ (rg d mTouchmark).toNat) ∧ r.mixed = false ∧ rb d mTwinCfg 0 = false ∧ twinState d ≤ 1 ∧ 0 ≠ twinNode d) ∧
    (let d := setB (setB quiet0 mTwinStat 3 true) mTwinCfg 0 true
     formedB d = true ∧ rb d mTwinCfg 0 = true ∧ 1 < twinState (setF d mTwinStat 0 3 2)) :=
  ⟨by decide +kernel, by decide +kernel, fun tm h => by match tm, h with | 0, _ => decide +kernel | 1, _ => decide +kernel, by decide +kernel⟩
/-- A launch record of epoch 3 from node 0 to four nodes. -/
def rec0 (ack : Bool) (left : Nat) : LaunchRec := ⟨ack, 3, 9, 0, left, 0, left, [], []⟩
theorem witness_Launch :
    (∀ left ∈ [0, 3], formedB run0 = true ∧ running run0 = true ∧ 2 ∉ run0.fab.lost ∧ run0.launch.last = none ∧ 0 < (rec0 false left).epoch ∧
      (rec0 false left).ack = false) ∧
    (let d : Dev := { run0 with launch := { run0.launch with last := some (rec0 false 3) } }
     formedB d = true ∧ running d = true ∧ 2 ∉ d.fab.lost ∧ d.launch.last = some (rec0 false 3) ∧ (rec0 false 3).epoch ≤ (rec0 false 3).epoch ∧
       2 ≠ myNode d ∧ d.launch.waiting = [] ∧ (rec0 true 3).epoch = (rec0 false 3).epoch ∧ (rec0 true 3).ack = true ∧
       (rec0 false 3).place = myNode d ∧ (rec0 false 3).left = (rec0 false 3).span ∧ d.launch.parents = [] ∧ frameNum d < (rec0 false 3).deadline) ∧
    (let d : Dev := setRegN { run0 with launch := { run0.launch with last := some (rec0 false 3), waiting := [1] } } fFrameNum 9
     formedB d = true ∧ running d = true ∧ (rec0 false 3).deadline ≤ frameNum d ∧ d.launch.complete = false ∧ d.launch.waiting ≠ []) := by decide +kernel
theorem witness_StackMaintenance :
    (formedB run0 = true ∧ running run0 = true ∧ rb run0 (aMargCtl 7) 15 = false ∧ inTether run0 = false ∧ rb run0 mTether 6 = false ∧
      retired run0 15 = false ∧ (stackAt run0 15).parked = false ∧ rf run0 (aMemCfg 7) 0 2 = ef run0 (aMemCfg 7) 0 2) ∧
    (let d := setB run0 (aMargCtl 7) 15 true
     formedB d = true ∧ running d = true ∧ rb d (aMargCtl 7) 15 = true) ∧
    (let d : Dev := { run0 with stackSt := [(15, { stack0 15 with parked := true })] }
     formedB d = true ∧ running d = true ∧ (stackAt d 15).parked = true ∧ rf d (aStackTherm 15) 0 8 < 90) ∧
    (let d := setF run0 (aMemCfg 7) 0 2 1
     formedB d = true ∧ running d = true ∧ (trackerAt d 7).s0 = none ∧ (trackerAt d 7).s1 = none ∧ rf d (aMemCfg 7) 0 2 ≠ ef d (aMemCfg 7) 0 2 ∧
       ∀ j, j < 2 → ef d (aMemCfg 7) j 1 = 1 → rb d (aMemCfg 7) j = false → (stackAt d (2 * 7 + j)).retrained = true) ∧
    (∀ k, k < 3 → let d : Dev := { (setB run0 mTether 0 true) with firm := { run0.firm with after := k } }
     formedB d = true ∧ inTether d = true ∧ findIngot d replicaOwner = none ∧ d.firm.after = k ∧ d.phase ≠ .off) := by decide +kernel

/-- A descriptor of four FP64 elements at `a`, tensor 7; its stored data at `ioff` with its digest. -/
def extB (a ioff : Nat) (dig : List Byte) : List Byte :=
  bytesOf 56 (7 + 1 <<< 40 + 4 <<< 64 + 4 <<< 320) ++ bytesOf 8 ioff ++ bytesOf 8 32 ++ (dig ++ bytesOf 32 0).take 32 ++ bytesOf 24 a
/-- An ingot of command (0, 0) to 0x40000000000 in the far tier, in stage 2. -/
def ing0 (fail : Option (Nat × Nat)) (dst : Nat) : Ingot := ⟨0, 2, 0, 0, dst, 0, 0, 1, 2, 0, 1, 0, [extB 0x40000 0 []], 2, 0, 32, 0, false, fail⟩
def save0 (prog : Nat) : Flight := fset (flt 0 0 [(0, 0x70), (12, 1), (16, 1), (24, 2), (32, 0x1000), (40, 0x40000000000)]) prog 0 0
/-- A package with 256 GiB of far tier and a descriptor at 0x1000. -/
def farDev : Dev :=
  withMem 0x1000 (extB 0x40000 0 []) (withRegs [(mFarCfg, 2 + 0xF <<< 2), (mFarStat, 0xF + 64 <<< 8 + 64 <<< 20 + 64 <<< 32 + 64 <<< 44)] run0)
/-- A session of A-die 0 with granule 1 staged in slot 0, and its ingot. -/
def staged0 : Session := ⟨0, 1, 3, 0, [1], [], [(0, 1)], [(0x40008, 5)], []⟩
def stagedDev : Dev := { run0 with trackers := [(0, ⟨some staged0, none, []⟩)], ingots := [ing0 none 0x800000000] }
theorem stagedDev_other (b : Nat) (h : b ≠ 0) : trackerAt stagedDev b = tracker0 b := by
  simp [trackerAt, stagedDev, tabGet, h]
theorem stagedDev_holds (i : Nat) : mustHold stagedDev (0x800000000 + i) = false := by
  unfold mustHold
  split
  · dsimp only
    by_cases h0 : (0x800000000 + i) / stackSpan = 0
    · have hlt : 0x800000000 + i < stackSpan := by
        rcases Nat.div_eq_zero_iff.mp h0 with h | h
        · exact absurd h (by decide)
        · exact h
      have hg : ¬ ((0x800000000 + i) >>> 18 < 3) := by rw [Nat.shiftRight_eq_div_pow]; omega
      have ht : trackerAt stagedDev 0 = ⟨some staged0, none, []⟩ := rfl
      rw [h0, ht, Nat.mod_eq_of_lt hlt]
      generalize (0x800000000 + i) >>> 18 = g at hg
      simp [owesGranule, staged0, hg]
    · rw [stagedDev_other _ h0]; rfl
  · rfl
theorem witness_IngotSaved :
    (let s := fly [save0 1] { run0 with ingots := [ing0 (some (6, 3)) 0x100000] }
     (Formed s.dev ∧ Served s.dev 0x70 0 0 (save0 1)) ∧ findIngot s.dev (cmdId 0 0) = some (ing0 (some (6, 3)) 0x100000)) ∧
    (let g := ing0 none 0x100000
     let s := fly [save0 1] { run0 with ingots := [g] }
     (Formed s.dev ∧ Served s.dev 0x70 0 0 (save0 1)) ∧ findIngot s.dev (cmdId 0 0) = some g ∧ g.owner = cmdId 0 0 ∧ g.fail = none ∧
       g.dkind = 0 ∧ g.node = myNode s.dev ∧ g.stage = 2 ∧ ingotDrained s.dev (cmdId 0 0) = true ∧
       ingotSessions s.dev (cmdId 0 0) = [] ∧ (∀ a, (trackerAt s.dev a).held = []) ∧ (∀ b ∈ g.exts, b.length = 128) ∧ NoHolds s.dev ∧
       GoodLines s.dev ∧ ∀ e ∈ g.ext, ∀ ix ∈ e.rows, e.rowAddr ix + e.rowLen e.last ≤ g.dst ∨ g.dst + g.length ≤ e.rowAddr ix) ∧
    (let s := fly [flt 0 0 [(0, 0x70), (12, 1), (32, 2 ^ 47)]] run0
     (Formed s.dev ∧ Served s.dev 0x70 0 0 (flt 0 0 [(0, 0x70), (12, 1), (32, 2 ^ 47)])) ∧ badRange s.dev false (2 ^ 47) 128 = some (0x0E, 0x0002)) ∧
    (let s := fly [save0 0] farDev
     let f := save0 0
     (Formed s.dev ∧ Served s.dev 0x70 0 0 f) ∧ f.prog = 0 ∧ s.dev.ingots = [] ∧ pbytes f.head 10 1 = 0 ∧ pbits f.head 11 1 1 = 0 ∧
       readTable s.dev (bits (pbytes f.head 32 6) 0 48) (pbytes f.head 12 2) = .inr [extB 0x40000 0 []] ∧
       (extOf (extB 0x40000 0 [])).ok s.dev false = true ∧ gNode (pbytes f.head 40 8) = myNode s.dev ∧ gOff (pbytes f.head 40 8) = farBase ∧
       (∀ g : Ingot, g.exts = [extB 0x40000 0 []] → badRange s.dev true farBase g.length = none) ∧ GoodLines s.dev ∧ NoHolds s.dev ∧
       s.dev.trackers = [] ∧ s.dev.weak = []) ∧
    (formedB run0 = true ∧ sessionOf run0 7 0 = none ∧ sessionOf run0 7 1 = none) ∧
    (Formed stagedDev ∧ trackerAt stagedDev 0 = ⟨some staged0, none, []⟩ ∧ findIngot stagedDev staged0.owner = some (ing0 none 0x800000000) ∧
      (∀ i, mustHold stagedDev (0x800000000 + i) = false) ∧ GoodLines stagedDev ∧ 0 < leftOf (some staged0) ∧ staged0.badG = [] ∧
      (∀ b, b ≠ 0 → trackerAt stagedDev b = tracker0 b) ∧
      (granulePieces (ing0 none 0x800000000) (0 * stackSpan + 1 * 0x40000) (0 * stackSpan + 1 * 0x40000 + 0x40000)).Pairwise
        (fun p r => p.1 + p.2.2 ≤ r.1 ∨ r.1 + r.2.2 ≤ p.1)) := by
  refine ⟨⟨ready_spec (by decide +kernel), rfl⟩, ⟨ready_spec (by decide +kernel), ?_⟩, ⟨ready_spec (by decide +kernel), by decide +kernel⟩,
    ⟨ready_spec (by decide +kernel), ?_⟩, by decide +kernel, formed_of_check (by decide +kernel), by decide +kernel, by decide +kernel, ?_, ?_, by decide +kernel, by decide +kernel, ?_, by decide +kernel⟩
  · exact ⟨by decide +kernel, by decide +kernel, by decide +kernel, by decide +kernel, by decide +kernel, by decide +kernel, by decide +kernel,
      by decide +kernel, fun _ => rfl, by decide +kernel, noHolds_of_check rfl, goodLines_of_check ⟨rfl, rfl, by decide +kernel⟩, by decide +kernel⟩
  · refine ⟨by decide +kernel, by decide +kernel, by decide +kernel, by decide +kernel, by decide +kernel, by decide +kernel, by decide +kernel,
      by decide +kernel, fun g hg => ?_, goodLines_far ⟨rfl, rfl, (by decide +kernel : farSets _ = [(0, 4, 256 * gib)]), by decide +kernel⟩, noHolds_of_check rfl, rfl, rfl⟩
    have : g.length = 12288 := by simp only [Ingot.length, Ingot.ext, Ingot.dataAt, hg]; decide +kernel
    rw [this]; decide +kernel
  · exact stagedDev_holds
  · exact goodLines_of_check ⟨rfl, rfl, by decide +kernel⟩
  · exact stagedDev_other

/-- Header, table and data of an ingot of job 2, step 1 with one descriptor whose data are 32 zero bytes at 8192, or `n` none. -/
def ingHead (n : Nat) : List Byte :=
  bytesOf 4 0x47495A48 ++ bytesOf 2 1 ++ bytesOf 2 n ++ bytesOf 8 2 ++ bytesOf 8 1 ++ bytesOf 16 0 ++ bytesOf 8 12288
def zeroDig : List Byte := bytesOf 32 0x6230add55717f81d743633645846db114f1219261dc33b72636a5483827c97f5
def ingDig (good : Bool) : List Byte :=
  bytesOf 32 (if good then 0xf597a44415446393aecb667198a1235314921c27afc1d6670bb4f5beeb7bc7ac else 0x51fc067bd26583fc8002941577020b9181ae30e509664b0edd3b9c74dc3fb7b9)
/-- Memory that holds these bytes from `a` on, before the memory `m` above them. -/
def under (a : Nat) (bs : List Byte) (m : Tab Byte) : Tab Byte := (((upto bs.length).map (a + ·)).zip bs).filter (fun e => e.2 != 0) ++ m
def withImg (good : Bool) : Dev :=
  { run0 with mem := under 0x100000 (ingHead 1 ++ ingDig good ++ (ingDig good).take 8) (under 0x101000 (extB 0 8192 (if good then zeroDig else [])) []) }
def read0 (op flags : Nat) : Flight := flt 0 0 [(0, op), (11, flags), (12, 1), (16, 0x100000), (24, 2), (32, 1), (if op = 0x71 then 40 else 62, if op = 0x71 then 0x1000 else 0)]
def selD (tm : Nat) (d : Dev) : Dev := withRegs [(mTouchmark, tm)] { d with mem := under 0x1000 (extB 0x2000 0 []) d.mem }
/-- What the statement asks of every read of the ingot at 0x100000. -/
def readOk (d : Dev) (op : Nat) (f : Flight) : Bool :=
  ready (fly [f] d) op 0 0 f && f.stop == 0 && f.prog == 0 && f.mark.isEmpty && f.buf.isEmpty && f.aux == 0 && d.weak.isEmpty &&
    gNode (pbytes f.head 16 8) == myNode d && gOff (pbytes f.head 16 8) == 0x100000 && pbytes f.head 24 8 == 2 && pbytes f.head 32 8 == 1 &&
    (blocksOf 0 4096 ++ blocksOf 4096 128 ++ blocksOf 8192 32).all (fun b => badRange d false (0x100000 + 4096 * b) 4096 == none)
theorem witness_IngotRead :
    (GoodLines run0 ∧ NoHolds run0) ∧
    (readOk run0 0x72 (read0 0x72 0) = true ∧ ¬ (ldBytes run0 0x100050 8 = ldBytes run0 0x100030 8 ∧ natOf (ldBytes run0 0x100030 8) ≠ 0)) ∧
    (let d := withMem 0x100050 [1] (withMem 0x100030 [1] run0)
     readOk d 0x72 (read0 0x72 0) = true ∧ ldBytes d 0x100050 8 = ldBytes d 0x100030 8 ∧ natOf (ldBytes d 0x100030 8) ≠ 0 ∧
       natOf (ldBytes d 0x100000 4) ≠ 0x47495A48) ∧
    (let d := withMem 0x100050 [1] (withMem 0x100000 (ingHead 0 ++ [1]) run0)
     readOk d 0x72 (read0 0x72 0) = true ∧ ldBytes d 0x100050 8 = ldBytes d 0x100030 8 ∧ natOf (ldBytes d 0x100030 8) ≠ 0 ∧
       natOf (ldBytes d 0x100000 4) = 0x47495A48 ∧ natOf (ldBytes d 0x100004 2) = 1 ∧ natOf (ldBytes d 0x100008 8) = 2 ∧
       natOf (ldBytes d 0x100010 8) = 1 ∧ shake256 32 (ldBytes d 0x100000 48 ++ ldBytes d 0x101000 (128 * 0)) ≠ ldBytes d 0x100030 32) ∧
    (∀ good : Bool, let d := withImg good
      readOk d 0x72 (read0 0x72 0) = true ∧ ldBytes d 0x100050 8 = ldBytes d 0x100030 8 ∧ natOf (ldBytes d 0x100030 8) ≠ 0 ∧
      natOf (ldBytes d 0x100000 4) = 0x47495A48 ∧ natOf (ldBytes d 0x100004 2) = 1 ∧ natOf (ldBytes d 0x100006 2) = 1 ∧
      natOf (ldBytes d 0x100008 8) = 2 ∧ natOf (ldBytes d 0x100010 8) = 1 ∧
      shake256 32 (ldBytes d 0x100000 48 ++ ldBytes d 0x101000 (128 * 1)) = ldBytes d 0x100030 32 ∧
      (good = true ↔ shake256 32 (ldBytes d (0x100000 + 8192) 32) = (extOf (ldBytes d 0x101000 128)).digest)) ∧
    (let d := selD 0 (withImg true)
      let f := read0 0x71 0
      let e := extOf (ldBytes d 0x101000 128)
      let x := extOf (extB 0x2000 0 [])
      readOk d 0x71 f = true ∧ bits (pbytes f.head 46 6) 0 48 = 0 ∧
        bits (pbytes f.head 40 6) 0 48 = 0x1000 ∧ pbytes f.head 12 2 = 1 ∧ x.ok d true = true ∧
        pbits f.head 11 0 1 = 0 ∧ natOf (ldBytes d 0x100018 4) = (rg d mTouchmark).toNat ∧ natOf (ldBytes d 0x100018 4) ≠ (rg (setRegN d mTouchmark 1) mTouchmark).toNat ∧ readOk (setRegN d mTouchmark 1) 0x71 f = true ∧
        e.fmt = x.fmt ∧ e.ndim = x.ndim ∧ e.gshape = x.gshape ∧ meet e x = some ([0], [4]) ∧ meetRows e x [0] [4] = [(8192, 0x2000, 32)] ∧
        e.ioff = 8192 ∧ e.ilen = 32) ∧
    readTable (selD 0 (withImg true)) 0x1000 1 = .inr [extB 0x2000 0 []] ∧ pbits (read0 0x71 1).head 11 0 1 = 1 := by
  refine ⟨⟨goodLines_of_check ⟨rfl, rfl, by decide +kernel⟩, noHolds_of_check rfl⟩, by decide +kernel, by decide +kernel, by decide +kernel,
    fun good => by cases good <;> decide +kernel, by decide +kernel, by decide +kernel, by decide +kernel⟩
/-- A package with REPLICA_CTL of operation `op`, one descriptor at 0x1000, and the twin in state `tw`. -/
def repl0 (op : Nat) : Flight := flt 0 0 [(0, 0x73), (10, op), (12, 1), (32, 0x1000), (48, 3)]
def twinDev (tw : Nat) (acc : Bool) : Dev :=
  setF { (withMem 0x1000 (extB 0x40000 0 []) run0) with twin := { run0.twin with rsize := 1, accepts := acc } } mTwinStat 0 3 tw
def repIng : Ingot := { ing0 none 0 with owner := replicaOwner }
theorem witness_Replicas :
    (∀ op, op < 4 → ready (fly [repl0 op] run0) 0x73 0 0 (repl0 op) = true ∧ (repl0 op).prog = 0 ∧ pbytes (repl0 op).head 10 1 = op ∧
      findIngot run0 replicaOwner = none ∧ run0.twin.arm = none) ∧
    (let d : Dev := setF { run0 with ingots := [repIng] } mReplStat 26 10 7
     ready (fly [repl0 3] d) 0x73 0 0 (repl0 3) = true ∧ d.ingots = [repIng] ∧ repIng.owner = replicaOwner ∧ d.twin.opener = none ∧
       rf d mReplStat 26 10 ≠ 0 ∧ d.trackers = []) ∧
    (∀ op, op < 2 → let d := twinDev 2 true
      let f := repl0 op
      ready (fly [f] d) 0x73 0 0 f = true ∧ pbits f.head 11 0 1 = 0 ∧
        bits (pbytes f.head 32 6) 0 48 = 0x1000 ∧ pbytes f.head 12 2 = 1 ∧
        (extOf (extB 0x40000 0 [])).ok d false = true ∧
        replicaRefusal d (replicaIngot d (pkClass f.head) (pbytes f.head 16 8) (pbytes f.head 24 8) [extB 0x40000 0 []]) = none ∧
        (findIngot { d with ingots := [repIng] } replicaOwner).isSome = true ∧ d.weak = []) ∧
    readTable (twinDev 2 true) 0x1000 1 = .inr [extB 0x40000 0 []] ∧
    (replicaRefusal (twinDev 3 true) (replicaIngot (twinDev 3 true) 2 0 0 [extB 0x40000 0 []]) = some (6, 1) ∧
      replicaRefusal (twinDev 2 false) (replicaIngot (twinDev 2 false) 2 0 0 [extB 0x40000 0 []]) = some (0x0E, 0x000A)) ∧
    (let a : Arm := ⟨0, 3, 1, 2, 2, []⟩
     let d : Dev := { run0 with ingots := [repIng], twin := { run0.twin with arm := some a } }
     formedB d = true ∧ d.twin.arm = some a ∧ findIngot d replicaOwner = some repIng ∧ running d = true ∧ inTether d = false ∧
       d.clk.mode ≠ .waiting ∧ a.first ≤ frameNum d ∧ 0 < a.every ∧ (frameNum d - a.first) % a.every = 0 ∧ d.twin.lastFrame ≠ some (frameNum d)) ∧
    (let d := setB run0 mTwinStat 51 true
     let e := withMem (replicaBase d (heldGen d)) (bytesOf 48 (0x47495A48 + 1 <<< 224) ++ [1]) (withMem (replicaBase d (heldGen d) + 80) [1] d)
     let x := withMem (replicaBase d (heldGen d) + 80) [1] d
     let a := replicaBase d (heldGen d)
     formedB e = true ∧ formedB x = true ∧ twinNode e = 1 ∧ 1 ≠ myNode e ∧ a = replicaBase e (heldGen e) ∧ rb e mTwinStat 51 = true ∧
       ld e (a + 80) 8 = ld e (a + 48) 8 ∧ ld e (a + 48) 8 ≠ 0 ∧ ld e a 4 = 0x47495A48 ∧ ld e (a + 28) 1 = 1 ∧
       a = replicaBase x (heldGen x) ∧ rb x mTwinStat 51 = true ∧ ld x (a + 80) 8 ≠ ld x (a + 48) 8) := by
  refine ⟨by decide +kernel, by decide +kernel, by decide +kernel, by decide +kernel, by decide +kernel, by decide +kernel, by decide +kernel⟩

/-! Harts. -/

/-- Hart 31 of a running package as `t` says, its core enabled. -/
def onHart (t : Hart) (d : Dev) : Dev := setB { d with harts := [(31, t)] } pCoreStat 31 true
/-- x1 holds 0x8000, x2 holds 24. -/
def hx : Hart := { hart0 0 with x := [(1, 0x8000), (2, 24)] }
def sm (op : ScalarOp) (size imm : Nat) : ScalarMem := ⟨op, BitVec.ofNat 2 size, 5#5, 1#5, 2#5, BitVec.ofNat 12 imm⟩
theorem witness_ScalarAccesses :
    (formedB run0 = true ∧ hartFree run0 31 = false) ∧
    (let d := onHart hx run0
     Formed d ∧ hartFree d 31 = true ∧ Bare d 31 ∧ roomFor d (hartQ 31) 8 = true ∧ GoodLines d ∧ NoHolds d ∧ d.weak = [] ∧
       (∀ k, k < 4 → ∀ op ∈ [ScalarOp.load, .loadU, .fload, .store, .fstore, .lr, .sc, .swap, .add], scalarVa 31 (sm op k 0) d = 0x8000 ∧
         0x8000 % 2 ^ (sm op k 0).size.toNat = 0 ∧ MemAt d false 0x8000 (2 ^ k) ∧ MemAt d true 0x8000 (2 ^ k)) ∧
       (hartAt d 31).resv ≠ some (lineOf 0x8000) ∧
       scalarVa 31 (sm .load 3 0xFFC) d = 0x7FFC ∧ 0x7FFC % 8 ≠ 0 ∧ 4096 < 0x7FFC % 4096 + 8 ∧
       (∀ st : Bool, touchesDevice 31 st 8 (unfenced 31 d) [0x7FFC] = false) ∧ 0 + 4 ≤ 2 ^ 2) ∧
    (let d := onHart { hx with resv := some 0x8000 } run0
     formedB d = true ∧ hartFree d 31 = true ∧ (hartAt d 31).resv = some (lineOf 0x8000)) ∧
    (let d := onHart { hx with x := [(1, ctrlBase + 0x2000000000)] } (setB run0 (pPcieStat 0) 0 true)
     formedB d = true ∧ hartFree d 31 = true ∧ touchesDevice 31 true 8 (unfenced 31 d) [scalarVa 31 (sm .store 3 0) (unfenced 31 d)] = true) := by
  refine ⟨by decide +kernel, ⟨formed_of_check (by decide +kernel), by decide +kernel, ⟨rfl, by decide +kernel, rfl⟩, by decide +kernel,
    goodLines_of_check ⟨rfl, rfl, by decide +kernel⟩, noHolds_of_check rfl, rfl, ?_, by decide +kernel⟩, by decide +kernel, by decide +kernel⟩
  unfold MemAt
  decide +kernel
/-- A hart in state On with 4 elements of 8 bytes: v1 holds 3, 2, 1, 0 and v2 holds four addresses. -/
def hv (cfg frm : Nat) : Hart :=
  { hx with hlvcfg := cfg, shlvctl := 3, hlvl := 4, frm := frm, v := [(1, 3 + 2 <<< 64 + 1 <<< 128), (2, 1 <<< 64 + 2 <<< 128 + 3 <<< 192)] }
def vop (w vd vs1 vs2 pg : Nat) (sc : Bool) : VOp := ⟨BitVec.ofNat 3 w, BitVec.ofNat 5 vd, BitVec.ofNat 5 vs1, BitVec.ofNat 5 vs2, BitVec.ofNat 3 pg, sc⟩
theorem witness_HlvElementwise :
    (∀ w ∈ [0, 1, 2, 3, 6, 7], ∀ sc : Bool, let d := onHart (hv 0 4) run0
      let v := vop w 3 1 2 0 sc
      formedB d = true ∧ hartFree d 31 = true ∧ hlvOn d 31 = true ∧ vEs v ≠ 0 ∧ grp d 31 v.vd = true ∧ grp d 31 v.vs2 = true ∧
        grp d 31 v.vs1 = true ∧ (vFp v = true ↔ 6 ≤ w) ∧ v.scalar = sc ∧ (hartAt d 31).frm ≤ 4 ∧ active d 31 v.pg.toNat (vEs v) ≠ []) ∧
    (vop 7 3 0 2 0 false).vs1 = 0#5 := by
  refine ⟨?_, rfl⟩
  intro w hw sc
  revert w
  cases sc <;> decide +kernel
theorem witness_HlvOther :
    (let d := onHart (hv 0 0) run0
     formedB d = true ∧ hartFree d 31 = true ∧ hlvOn d 31 = true ∧ (hartAt d 31).frm ≤ 4 ∧ (hartAt d 31).shlvctl ≠ 0 ∧
       (∀ w ∈ [0, 1, 2, 3, 6, 7], vEs (vop w 9 1 0 0 false) ≠ 0) ∧ grp d 31 1#5 = true ∧ grp d 31 2#5 = true ∧ (vop 3 9 1 0 0 false).vs2 = 0#5 ∧
       (vop 3 9 1 0 0 false).pg = 0#3 ∧ (vop 3 9 1 2 0 false).vd.toNat % 8 ≠ 0 ∧ vFp (vop 3 9 1 2 0 false) = false ∧ vFp (vop 6 9 1 2 0 false) = true ∧
       isFl 0 = true ∧ isIn 9 = true ∧ (vop 0 9 1 2 0 false).w = 0#3) ∧
    ((decodeF fp32 0x7FC00000).isNan = true ∧ (decodeF fp32 0).isNan = false) ∧
    (bitAt (5 : Word).toNat 0 = true ∧ bitAt (2 : Word).toNat 0 = false ∧ bits (1 : Word).toNat 1 2 = 0) ∧
    (let d := onHart { hv 0 0 with shlvctl := 0 } run0
     formedB d = true ∧ hartFree d 31 = true ∧ hlvOn d 31 = false) ∧
    vEs (vop 4 9 1 2 0 false) = 0 ∧
    (let d := onHart (hv 2 0) run0
     formedB d = true ∧ hartFree d 31 = true ∧ hlvOn d 31 = true ∧ grp d 31 9#5 = false) := by decide +kernel
/-- Base x1, stride x2. -/
def hm (base : Nat) (pc : Nat) : Hart := { hv 0 0 with x := [(1, base), (2, 24)], p := [(2, pc)] }
theorem witness_HlvMemory :
    (let d := onHart (hm 0x8000 7) run0
     Formed d ∧ hartFree d 31 = true ∧ hlvOn d 31 = true ∧ Bare d 31 ∧ GoodLines d ∧ NoHolds d ∧ d.weak = [] ∧
       (∀ k, k < 3 → ∀ i, i < 4 → let v := vop 3 3 1 (if k = 0 then 0 else 2) 2 false
         vAddr v k d 31 i % 8 = 0 ∧ MemAt d false (vAddr v k d 31 i) 8 ∧ MemAt d true (vAddr v k d 31 i) 8) ∧
       (∀ k, k < 3 → let v := vop 3 3 1 (if k = 0 then 0 else 2) 2 false
         memOk 31 v k d = true ∧ vecRoom d 31 4 = true ∧ active d 31 v.pg.toNat (vEs v) = [0, 1, 2] ∧ v.pg ≠ 0#3 ∧
           (∀ i, i < 4 → ∀ j, j < 4 → i ≠ j → vAddr v k d 31 i + 8 ≤ vAddr v k d 31 j ∨ vAddr v k d 31 j + 8 ≤ vAddr v k d 31 i)) ∧
       (hartAt d 31).hlvstart = 0 ∧ vecRoom d 31 256 = true ∧ pmemOk (vop 0 3 1 0 0 false) = true ∧
       (∀ i, i < 256 → MemAt d false (0x8000 + i) 1 ∧ MemAt d true (0x8000 + i) 1)) ∧
    (let d := onHart { hm 0x8000 7 with x := [(1, 0x8000), (2, 12)] } run0
     let v := vop 3 3 1 2 2 false
     formedB d = true ∧ memOk 31 v 1 d = true ∧ vAddr v 1 d 31 0 % 8 = 0 ∧ vAddr v 1 d 31 1 % 8 ≠ 0) ∧
    (let d := onHart { hm 0x8004 7 with v := [(2, 0)] } run0
     formedB d = true ∧ vAddr (vop 3 3 1 2 2 false) 2 d 31 0 % 8 ≠ 0) := by
  refine ⟨⟨formed_of_check (by decide +kernel), by decide +kernel, by decide +kernel, ⟨rfl, by decide +kernel, rfl⟩,
    goodLines_of_check ⟨rfl, rfl, by decide +kernel⟩, noHolds_of_check rfl, rfl, ?_, by decide +kernel, by decide +kernel, by decide +kernel, by decide +kernel, ?_⟩, by decide +kernel, by decide +kernel⟩
  all_goals (unfold MemAt; decide +kernel)

/-! Management, accesses from outside, counters, sensors, power and firmware. -/

/-- MREAD or MWRITE of `n` bytes at register `off` with its buffer at 0x2000. -/
def mg0 (op off n : Nat) : Flight := flt 0 0 [(0, op), (16, ctrlBase + off), (24, 0x2000), (32, n)]
theorem witness_ManagementReads :
    (NoHolds run0 ∧ GoodLines run0 ∧ run0.weak = []) ∧
    (∀ op ∈ [0x80, 0x81], ∀ off ∈ [fNodeCfg, mTwinCfg], let f := mg0 op off 8
      ready (fly [f] run0) op 0 0 f = true ∧ running run0 = true ∧ mgmtJob run0 0 0 = none ∧ pbytes f.head 16 6 = ctrlBase + off ∧
        pbytes f.head 24 6 = 0x2000 ∧ off < pRegionOff ∧ pbytes f.head 32 4 = 8 ∧ badRange run0 false 0x2000 8 = none ∧ inBlock off = true) ∧
    (∀ op ∈ [0x80, 0x81], let f := flt 0 0 [(0, op), (16, ctrlBase), (24, 2 ^ 47), (32, 8)]
      ready (fly [f] run0) op 0 0 f = true ∧ badRange run0 false (2 ^ 47) (pbytes f.head 32 4) = some (0x0E, 0x0002)) ∧
    (let f := mg0 0x80 0xB00000 8
     ready (fly [f] run0) 0x80 0 0 f = true ∧ ctrlRead 0xB00000 run0 = none ∧ ctrlWrite 0xB00000 (BitVec.ofNat 64 (ld run0 0x2000 8)) .mgmtQueue run0 = none) ∧
    (let d := setB run0 mStatus 5 true
     rb run0 mStatus 5 = false ∧ rb d mStatus 5 = true ∧ ready (fly [mg0 0x81 mTwinCfg 8] d) 0x81 0 0 (mg0 0x81 mTwinCfg 8) = true ∧
       (wordWrite ((regFields mTwinCfg).getD []) true true .nothing (rg d mTwinCfg) (rg d mTwinCfg)).2 = false ∧
       (wordWrite ((regFields mTwinCfg).getD []) true true .nothing (rg d mTwinCfg) (rg d mTwinCfg ^^^ 1)).2 = true) ∧
    (∀ op, op < 3 → let f := flt 0 0 [(0, 0x82), (10, op)]
     ready (fly [f] run0) 0x82 0 0 f = true ∧ pbytes f.head 10 1 = op ∧ rf run0 mFlashOwn 0 2 = 0 ∧ (∀ p, p < 18 → rf run0 (fPortCtl p) 22 3 = 0) ∧
       rf (setF run0 mFlashOwn 0 2 1) mFlashOwn 0 2 ≠ 0) := by
  refine ⟨⟨noHolds_of_check rfl, goodLines_of_check ⟨rfl, rfl, by decide +kernel⟩, rfl⟩, by decide +kernel, by decide +kernel, by decide +kernel,
    by decide +kernel, by decide +kernel⟩

/-- A package whose flash holds the bytes listed, the factory's elsewhere, with these fuses. -/
def withFlash (l : Tab Byte) (fuses : Tab Nat) (d : Dev) : Dev :=
  { d with flash := tabCanon flashRest l, firm := { d.firm with fuse := fuses } }
theorem flashBytes_with (l : Tab Byte) (fuses : Tab Nat) (d : Dev) (a n : Nat) :
    flashBytes (withFlash l fuses d) a n = (upto n).map fun i => tabGet flashRest l (a + i) := by
  simp [flashBytes, withFlash]
theorem formed_with {l : Tab Byte} {fuses : Tab Nat} {d : Dev} (h : Formed d) : Formed (withFlash l fuses d) :=
  { h with flash := tabWf_tabCanon l }
/-- The copies of the configuration store carry store number 3 each. -/
def cfgL : Tab Byte := (upto 8).map (fun i => (cfgBase 0 + 8 + i, if i = 0 then 3 else 0)) ++ (upto 8).map (fun i => (cfgBase 1 + 8 + i, if i = 0 then 3 else 0))
theorem witness_ManagementReads_store : let d := withFlash cfgL [] run0
    Formed d ∧ ∀ j, j < 2 → cfgN d j 8 8 < 2 ^ 64 - 1 := by
  refine ⟨formed_with (formed_of_check (by decide +kernel)), fun j hj => ?_⟩
  rw [cfgN, flashBytes_with]
  match j, hj with
  | 0, _ => decide +kernel
  | 1, _ => decide +kernel

/-- A running management queue 7 with its ring at 0x10000, image key 1 in the running slot, no life-cycle fuse blown. -/
def mgmtDev : Dev :=
  withFlash [(9, 1)] [(2, 0), (4, 0), (5, 0), (6, 0)]
    (withRegs [(0x2000000 + 32 * 7, 0x10000 + 4 <<< 48), (0x2000000 + 32 * 7 + 16, 3 + 4), (qPtr 7, ptrs 0 0 0 1)] run0)
/-- A datagram with one MREAD packet of class MANAGEMENT, nonce 5, no data. -/
def dgram (cls : Nat) : List Byte :=
  bytesOf 4 0x4D4D5A48 ++ bytesOf 8 0 ++ bytesOf 8 5 ++ bytesOf 64 (0x80 + cls <<< 11) ++ bytesOf 4 0 ++ bytesOf 1280 0
theorem witness_OutsideAccesses :
    (formedB run0 = true ∧ rb run0 (pPcieStat 1) 1 = false) ∧
    (let d := setB run0 (pPcieStat 1) 1 true
     Formed d ∧ NoHolds d ∧ GoodLines d ∧ d.weak = [] ∧ rb d (pPcieStat 1) 1 = true ∧ rb d (pPcieStat 1) 0 = false ∧ running d = true ∧
       badRange d false 0x1000 64 = none ∧ badRange d true 0x1000 64 = none ∧ 0x1000 + 64 ≤ 512 * gib ∧
       512 * gib < (512 * gib - 4) + [0#8, 0, 0, 0, 0].length ∧ inBlock mStatus = true ∧ mStatus % 8 = 0 ∧ 4 % 8 ≠ 0 ∧ 4 + 4 ≤ pRegionOff) ∧
    (let d := setB { run0 with phase := .recovery } (pPcieStat 0) 1 true
     formedB d = true ∧ d.phase = .recovery ∧ rb d (pPcieStat 0) 1 = true ∧ 0 + [0x48#8].length ≤ slotSize) ∧
    (mgmtOk run0 [] = false ∧ pkClass (BitVec.ofNat 512 (natOf (((dgram 2).drop 20).take 64))) ≠ 3 ∧ mgmtQueueOf run0 = none) :=
  ⟨by decide +kernel, ⟨formed_of_check (by decide +kernel), noHolds_of_check rfl, goodLines_of_check ⟨rfl, rfl, by decide +kernel⟩, by decide +kernel⟩,
    by decide +kernel, by decide +kernel⟩
/-- Where the signature verifies (the check is left open, log entry 3) the datagram is one that may be performed. -/
theorem witness_OutsideAccesses_signed (h : ∀ k m s, Config.falconOk k m s = true) :
    Formed mgmtDev ∧ running mgmtDev = true ∧ NoHolds mgmtDev ∧ mgmtOk mgmtDev (dgram 3) = true ∧
      pkClass (BitVec.ofNat 512 (natOf (((dgram 3).drop 20).take 64))) = 3 ∧ pkMore (BitVec.ofNat 512 (natOf (((dgram 3).drop 20).take 64))) = false ∧
      mgmtQueueOf mgmtDev = some 7 ∧ tileAbsent mgmtDev (qTile 7) = false ∧ inTether mgmtDev = false ∧ qLog mgmtDev 7 < 16 := by
  refine ⟨formed_with (formed_of_check (by decide +kernel)), by decide +kernel, noHolds_of_check rfl, ?_, by decide +kernel⟩
  have hk : signerKey mgmtDev 1 = some (slotGet mgmtDev 0 1088 1793) := by
    have : imgField (slotGet mgmtDev (runSlot mgmtDev)) 9 1 = 1 := by
      rw [imgField, slotGet, mgmtDev, flashBytes_with]; decide +kernel
    simp [signerKey, this]
    rfl
  have hl : lifeState mgmtDev = 0 := by decide +kernel
  simp only [mgmtOk, hk, hl, h, beq_self_eq_true, Bool.or_true, Bool.and_true]
  decide +kernel
theorem witness_CountersAndTraces :
    (formedB run0 = true ∧ running run0 = true ∧ ef run0 mCntSamp 25 1 = 0 ∧ rb run0 mTrcCfg 40 = false) ∧
    (let d := withEff [(mCntSamp, 1000 + 1 <<< 25)] run0
     formedB d = true ∧ running d = true ∧ ef d mCntSamp 25 1 = 1 ∧ ef d mCntSamp 16 1 = 0 ∧ 0 < ef d mCntSamp 0 16 ∧ d.trc.gap = none ∧
       d.trc.staged = []) ∧
    (∀ wr ∈ [2 ^ 14 - 1, 2 ^ 14], let bs := bytesOf 64 1
      let d := withRegs [(mTrcCfg, 0x40 + 14 <<< 28 + 14 <<< 33 + 1 <<< 40), (mTrcEPtr, wr)] { run0 with trc := { run0.trc with staged := [(false, bs)] } }
      let a := unitAddr d false (rf d mTrcEPtr 0 28)
      formedB d = true ∧ running d = true ∧ rb d mTrcCfg 40 = true ∧ d.trc.gap = none ∧ d.trc.staged = [(false, bs)] ∧ bs.length = 64 ∧
        writeErr d a 64 = none ∧ mustHold d a = false ∧ rb d mTrcCfg 38 = false ∧
        (wr < 2 ^ 14 ↔ (rf d mTrcEPtr 0 28 + 2 ^ 28 - rf d mTrcEPtr 28 28) % 2 ^ 28 < 2 ^ rf d mTrcCfg 28 5)) ∧
    (let f := flt 0 0 [(0, 0xF0)]
     ready (fly [f] run0) 0xF0 0 0 f = true ∧ rb run0 mTrcEvt 11 = false ∧
       (let d := withEff [(mCntTiles, 1)] (setB run0 mTrcEvt 11 true)
        ready (fly [f] d) 0xF0 0 0 f = true ∧ rb d mTrcEvt 11 = true ∧ ef d mCntTiles (qTile 0) 1 = 1 ∧ d.trc.gap = none ∧ d.trc.staged = [])) := by
  decide +kernel
theorem witness_Sensors :
    (formedB run0 = true ∧ running run0 = true ∧ sensEvery 560 = 0 ∧ 0 < sensEvery 436 ∧ (∀ i ∈ [438, 443], (sensAt run0 i).time = 0) ∧
      run0.pwr.overRun < 20 ∧ run0.pwr.overSince = none ∧ rb run0 mSensRate 26 = false) ∧
    (let d : Dev := { run0 with pwr := { run0.pwr with sens := [(436, ⟨5, 0, false⟩)], overRun := 20 } }
     formedB d = true ∧ running d = true ∧ (sensAt d 436).time ≠ 0 ∧ d.pwr.guard = false ∧ 20 ≤ d.pwr.overRun) ∧
    (let d := setF run0 mMemIrq 10 10 7
     formedB d = true ∧ running d = true ∧ (sensAt d (256 + 15)).time = 0 ∧ (stackAt d 15).parked = false ∧ retired d 15 = false ∧
       rf d (aStackTherm 15) 8 2 = 0 ∧ (90000 : Word).toNat = 90000 ∧ rf d mMemIrq 10 10 ≠ 0) ∧
    (let d := withRegs [(mSensRate, 128 <<< 16 + 1 <<< 26), (mSensRing, 0x9000 + 12 <<< 48)] run0
     formedB d = true ∧ running d = true ∧ rb d mSensRate 26 = true ∧ rf d mSensRate 16 10 = 128 ∧ rf d mSensRing 48 5 = 12 ∧
       (rf d mSensPtr 0 28 + 2 ^ 28 - rf d mSensPtr 28 28) % 2 ^ 28 + 4 ≤ 2 ^ 12 ∧ rf d mSensPtr 0 28 % 2 ^ 12 + 4 ≤ 2 ^ 12) ∧
    GoodLines (withRegs [(mSensRate, 128 <<< 16 + 1 <<< 26), (mSensRing, 0x9000 + 12 <<< 48)] run0) :=
  ⟨by decide +kernel, by decide +kernel, by decide +kernel, by decide +kernel, goodLines_of_check ⟨rfl, rfl, by decide +kernel⟩⟩

/-- The first 48 bytes of an image signed by key 1 with an empty payload (R461); its digest is that of no byte. -/
def imgHead : List Byte :=
  [0x48, 0x5A, 0x46, 0x57, 1, 0, 1, 0, 0, 1, 1, 0, 0, 0x20, 0, 0] ++ bytesOf 32 0x2f76d56e64270cb5821bb862ea52cd3f24eb3e74eb3f3b23138da80b2bddb946
theorem imageOk_of {d : Dev} {get : Nat → Nat → List Byte} (h : ∀ k m s, Config.falconOk k m s = true)
    (hd : ([(0, 4), (4, 2), (10, 2), (12, 4), (6, 1), (9, 1), (16, 32), (7, 1)].all fun p => get p.1 p.2 == (imgHead.drop p.1).take p.2) = true)
    (hz : get 8192 0 = []) (h1 : fuse d 1 = natOf (shake256 32 (get 1088 1793))) (h7 : fuse d 7 = 0) (h8 : fuse d 8 = 0) :
    imageOk d get = true := by
  simp only [List.all_cons, List.all_nil, Bool.and_eq_true, beq_iff_eq] at hd
  obtain ⟨e1, e2, e3, e4, e5, e6, e7, e8, -⟩ := hd
  have hl : natOf (get 12 4) = 8192 := by rw [e4]; decide +kernel
  have hk : natOf (get 9 1) = 1 := by rw [e6]; decide +kernel
  have hs : (imgHead.drop 16).take 32 = shake256 32 [] := by decide +kernel
  simp only [imageOk, imgField, hl, hk, e1, e2, e3, e5, e7, e8, h1, h, svnCount, h7, stepCode, h8, Nat.sub_self, hz, hs, beq_self_eq_true,
    Bool.and_true]
  generalize revoked d = b
  cases b <;> decide +kernel
theorem fuse_at {d : Dev} {v : Nat} {l : Tab Nat} (h : d.firm.fuse = (1, v) :: l) : fuse d 1 = v := by simp [fuse, h, tabGet]
/-- The image in slot 0, and the key fuse that fits it. -/
def slotDev (ph : Phase) : Dev :=
  let l := (upto 48).zip imgHead
  withFlash l [(1, natOf (shake256 32 ((upto 1793).map fun i => tabGet flashRest l (1088 + i)))), (7, 0), (8, 0)] { run0 with phase := ph }
theorem slotDev_ok (h : ∀ k m s, Config.falconOk k m s = true) (ph : Phase) : slotOk (slotDev ph) 0 = true := by
  have : slotOk (slotDev ph) 0 = imageOk (slotDev ph) (slotGet (slotDev ph) 0) := rfl
  rw [this]
  apply imageOk_of h
  · simp only [slotGet, slotDev, flashBytes_with]
    decide +kernel
  · rfl
  · rw [fuse_at rfl]; simp only [slotGet, slotDev, flashBytes_with]; rfl
  · rfl
  · rfl
theorem slot_bad {d : Dev} {s : Nat} (h : fuse d 8 = 15) : slotOk d s = false := by
  have hb : ∀ b : Byte, bitAt (natOf [b]) 15 = false := by decide +kernel
  have : bitAt (imgField (slotGet d s) 6 1) (stepCode d) = false := by
    simp only [stepCode, h, imgField, slotGet, flashBytes]
    exact hb _
  simp [slotOk, imageOk, this]
/-- A package no image fits: it has stepping code 15. -/
def badDev (ph : Phase) : Dev := { run0 with phase := ph, firm := { run0.firm with fuse := [(8, 15)] } }
theorem witness_PowerAndBoot :
    (∀ ph ∈ [Phase.off, .testHold, .wiping, .rom, .recovery, .running], formedB { run0 with phase := ph } = true) ∧
    (let d := badDev .rom
     formedB d = true ∧ d.phase = .rom ∧ d.firm.trial = none ∧ d.firm.preferred < 2) ∧
    (∀ s, slotOk (badDev .rom) s = false) ∧
    (run0.pdieBeat = 0 ∧ ({ run0 with pdieBeat := 1 }).pdieBeat ≠ 0 ∧ running run0 = true ∧ inTether run0 = false ∧ run0.tetherReq = none) ∧
    (let d := { run0 with phase := .recovery }
     rf d pRecovery 28 2 ≠ 1 ∧ natOf ((upto 4).map fun i => if 12 + i < slotSize then tabGet memRest d.firm.window (12 + i) else 0) = 0 ∧
       imageOk d (fun a n => (upto n).map fun i => if a + i < slotSize then tabGet memRest d.firm.window (a + i) else 0) = false) :=
  ⟨by decide +kernel, by decide +kernel, fun _ => slot_bad rfl, by decide +kernel, by decide +kernel⟩
/-- Where signatures verify (log entry 3), slot 0 boots, as the preferred slot or as the other one, and an image in the window is taken. -/
theorem witness_PowerAndBoot_signed (h : ∀ k m s, Config.falconOk k m s = true) :
    (Formed (slotDev .rom) ∧ (slotDev .rom).phase = .rom ∧ (slotDev .rom).firm.trial = none ∧ slotOk (slotDev .rom) 0 = true) ∧
    ∃ d : Dev, Formed d ∧ d.phase = .recovery ∧ rf d pRecovery 28 2 ≠ 1 ∧
      (let get (a n : Nat) : List Byte := (upto n).map fun i => if a + i < slotSize then tabGet memRest d.firm.window (a + i) else 0
       imageOk d get = true ∧ natOf (get 12 4) ≤ rf d pRecovery 0 28) := by
  refine ⟨⟨formed_with (formed_of_check (by decide +kernel)), rfl, rfl, slotDev_ok h _⟩, ?_⟩
  let l : Tab Byte := (upto 48).zip imgHead
  let w : List Byte := (upto 1793).map fun i => if 1088 + i < slotSize then tabGet memRest l (1088 + i) else 0
  refine ⟨withRegs [(pRecovery, 8192)] { run0 with phase := .recovery, firm := { run0.firm with window := l, fuse := [(1, natOf (shake256 32 w)), (7, 0), (8, 0)] } },
    formed_of_check (by decide +kernel), rfl, by decide +kernel, imageOk_of h (by decide +kernel) rfl (fuse_at rfl) rfl rfl, by decide +kernel⟩
theorem witness_FirmwareUpdate :
    (formedB run0 = true ∧ running run0 = true ∧ Agent.myeles ≠ .job ∧ rb run0 mFwStat 5 = false ∧ rb run0 mFwStat 6 = false ∧
      rb run0 mFwStat 3 = false ∧ rb (setB run0 mFwStat 3 true) mFwStat 3 = true ∧ rb (setB run0 mFwStat 5 true) mFwStat 5 = true ∧
      rb (setB run0 mFwStat 6 true) mFwStat 6 = true ∧ slotOk { run0 with firm := { run0.firm with slotBusy := some 1 } } 1 = false ∧
      otherSlot run0 = 1 ∧ rf (setF run0 mFwStat 32 8 0xFF) mFwStat 32 8 = 0xFF) ∧
    (let d := setF (setF { run0 with firm := { run0.firm with fuse := [(7, 1)] } } mFwStat 8 8 3) mFwStat 32 8 5
     formedB d = true ∧ running d = true ∧ rf d mFwStat 32 8 ≠ 0xFF ∧ rf d mFwStat 8 8 ≤ rf d mFwStat 32 8 ∧ svnCount d < rf d mFwStat 8 8) ∧
    (rf (setF run0 mAuthCtl 0 48 0x8020) mAuthCtl 0 48 % 64 ≠ 0 ∧ inStacks run0 (2 ^ 47) 1344 = false) ∧
    (let d := setF (withMem 0x8005 [9] run0) mAuthCtl 0 48 0x8000
     formedB d = true ∧ rf d mAuthCtl 0 48 = 0x8000 ∧ 0x8000 % 64 = 0 ∧ inStacks d 0x8000 1344 = true ∧ readErr d 0x8000 1344 = none ∧
       natOf (((ldBytes d 0x8000 1344).drop 5).take 1) = 9 ∧ signerKey d 9 = none ∧ d.weak = []) ∧
    (let d : Dev := { (setF run0 mFlashOwn 0 2 1) with firm := { run0.firm with live := some 0 } }
     formedB d = true ∧ rf d mFlashOwn 0 2 = 1 ∧ rf run0 mFlashOwn 0 2 ≠ 1 ∧ d.firm.live = some 0 ∧ 0 + 4096 ≤ slotSize ∧
       badRange run0 false 0x8000 4096 = none ∧ readErr run0 0x8000 4096 = none ∧ run0.weak = []) := by decide +kernel
/-- Where signatures verify (log entry 3), the slot that does not run passes its checks. -/
theorem witness_FirmwareUpdate_signed (h : ∀ k m s, Config.falconOk k m s = true) :
    let d := setB (slotDev .running) mFwStat 0 true
    Formed d ∧ running d = true ∧ otherSlot d = 0 ∧ slotOk d (otherSlot d) = true ∧ rf d mFwStat 40 8 = rf d mFwStat 24 8 ∧
      rf (setF d mFwStat 40 8 1) mFwStat 40 8 ≠ rf (setF d mFwStat 40 8 1) mFwStat 24 8 :=
  ⟨formed_setB (formed_with (formed_of_check (by decide +kernel))), by decide +kernel, by decide +kernel, slotDev_ok h .running, by decide +kernel,
    by decide +kernel⟩
theorem witness_LedgerLinksTap :
    (formedB run0 = true ∧ run0.phase ≠ .off ∧ running run0 = true ∧ run0.phase ≠ .testHold ∧ rb run0 (pPcieStat 1) 0 = false ∧
      rb (setB run0 (pPcieStat 1) 0 true) (pPcieStat 1) 0 = true ∧ (0xFF : BitVec 8).toNat = 0xFF ∧ 3 ≤ (0x7F : BitVec 8).toNat ∧
      0x80 ≤ (0xFE : BitVec 8).toNat ∧ rb run0 mLifecycle 8 = false ∧ rb (setB run0 mLifecycle 8 true) mLifecycle 8 = true) := by decide +kernel

/-! Worked examples of the spec. -/

/-- R106's table of conversions from FP32, saturating. -/
theorem test_convert_zq8 :
    convFF fp32 zq8 0 true 0x3E99999A = (0x32, flNX) ∧ convFF fp32 zq8 0 true 0x437A0000 = (0x7F, flSAT + flNX) ∧
    (convFF fp32 zq8 0 true 0xB951B717).1 = 0x00 ∧ (convFF fp32 zq8 2 true 0xB951B717).1 = 0x81 ∧ (convFF fp32 zq8 0 true 0x7F800000).1 = 0x7F ∧
    (convFF fp32 zq8w 0 true 0x447A0000).1 = 0x68 := by decide +kernel
/-- The block of the worked example under R108: 3.9, −1.3, 0.6, −0.2 and zeros. -/
theorem test_zb4_block :
    (zb4Encode 0 ((List.map (decodeF fp32) [0x4079999A, 0xBFA66666, 0x3F19999A, 0xBE4CCCCD]) ++ List.replicate 12 (decodeF fp32 0))).1 = (0x194, 0x87) := by
  decide +kernel
/-- R110's table: shifting right by 2 under each mode. -/
theorem test_shift_round :
    [0, 1, 2, 3].map (fun c => shiftRound c 10 2) = [3, 2, 2, 3] ∧ [0, 1, 2, 3].map (fun c => shiftRound c (-10) 2) = [-2, -2, -3, -3] ∧
    [0, 1, 2, 3].map (fun c => shiftRound c 6 2) = [2, 2, 1, 1] := by decide +kernel
/-- The worked example under R121: 1, 2^−30 and −1 at G = 127. -/
theorem test_zg64_integers :
    zgInt 127 (decodeF fp32 0x3F800000) = 549755813888 ∧ zgInt 127 (decodeF fp32 0x30800000) = 512 ∧
    zgInt 127 (decodeF fp32 0xBF800000) = -549755813888 := by decide +kernel
/-- The worked example under R261: 0x0019_0034_5A40 lies on stack 4, pseudo-channel 28. -/
theorem test_interleave : stackOf run0 0x001900345A40 = some (4, 28) := by decide +kernel
/-- The worked example of chapter 19: A_QPTR of queue 0x0A05, and the doorbell at tile 2, index 5, which R68 numbers 0x0805. -/
theorem test_addresses : bellQueue 0x00C004004028 = 2 * 1024 + 5 ∧ ctrlBase + qPtr 0x0A05 = 0x00C0020140B8 := by decide +kernel
/-- R79's reply of the worked example of chapter 3: COPY tag 0x2B000A17 in slot 0x0123, PARTIAL. -/
theorem test_reply_layout :
    replyBytes 8 0x0123 0x2B000A17 0 0x01 0x0005 4 0x8C412D60 =
      [0x17, 0x0A, 0x00, 0x2B, 0x01, 0x00, 0x05, 0x00, 0x04, 0, 0, 0, 0x60, 0x2D, 0x41, 0x8C] := by decide +kernel
/-- Check values of CRC-32 (IEEE 802.3, "123456789") and of SHAKE256 of no byte. -/
theorem test_hashes : crc32 [0x31, 0x32, 0x33, 0x34, 0x35, 0x36, 0x37, 0x38, 0x39] = 0xCBF43926 ∧
    shake256 4 [] = [0x46, 0xB9, 0xDD, 0x2B] := by decide +kernel
/-- The worked example of chapter 7: a COMPRESS of 16 elements with cap 4 packs the elements at 1, 2, 6 and 8 and stops at 13. -/
def packFlt : Flight := flt 0 0 [(0, 0x31), (10, 2), (11, 1), (12, 16), (16, 0x4000), (22, 0x5000), (28, 0x6000), (34, 0x7000), (40, 4), (44, 0x8000)]
def packDev : State := fly [packFlt] (withMem 0x5000 [0, 1, 1, 0, 0, 0, 1, 0, 1, 0, 0, 0, 0, 1, 0, 0] (withMem 0x4000 ((upto 16).flatMap fun i => bytesOf 4 (i + 1)) run0))
theorem test_compress_cap :
    (match exec (.compress 0 0) packDev with
      | .next t => ((findFlight t.dev 0 0).map Flight.stage, ldBytes t.dev 0x6000 20, ldBytes t.dev 0x7000 16, ld t.dev 0x8000 8)
      | _ => (none, [], [], 0)) =
    (some (.done 1 0x0001 13), [2, 3, 7, 9].flatMap (bytesOf 4) ++ [0, 0, 0, 0], [1, 2, 6, 8].flatMap (bytesOf 4), 4) := by decide +kernel
/-- The worked example of chapter 2: the smallest slack of a 4 ms frame, and the spacing of 1,024 carried refreshes. -/
theorem test_slack : sMin 400000 = 359400 ∧ forcedGap (setF run0 fFrameGeo 24 24 364060) 1024 = 3550 := by decide +kernel
/-- The worked example of chapter 11: from node 0x0105 toward 0x0163 the first hop is dimension 1. -/
theorem test_route_first_hop :
    let d : Dev := withRegs [(fNodeCfg, 0x105 + 7 <<< 14), (fPortStat 1, 2), (fPortStat 2, 2), (fPortStat 5, 2), (fPortStat 6, 2)] run0
    route d { fx 0x163 0x105 1 with lastdim := 15 } = some (1, 0, 1) := by decide +kernel

/-! Ill-formed commands: each check refuses an operand just out of its range, and takes the lowest. -/

theorem test_ill_formed_0 : (
    [Instr.nop, .fence, .tickwait, .signal, .waitsem, .qdisable, .qenable, .copy, .gather, .scatter, .inval, .mma, .wload, .vchain,
      .compress, .expand, .histo, .solve, .factor, .iterate, .put, .get, .rred, .mcast, .ratom, .send, .recv, .coll, .collReform,
      .collBatch, .shardSave, .shardLoad, .shardVerify, .replicaCtl, .mread, .mwrite, .cfgCommit, .traceMark, .commandCompletion,
      .waitsemTimeout, .sendAnnRetry, .sendGo, .reformTimeout].all (fun c => !(c 65536 0).wf) &&
    [Instr.nop, .fence, .tickwait, .signal, .waitsem, .qdisable, .qenable, .copy, .gather, .scatter, .inval, .mma, .wload, .vchain,
      .compress, .expand, .histo, .solve, .factor, .iterate, .put, .get, .rred, .mcast, .ratom, .send, .recv, .coll, .collReform,
      .collBatch, .shardSave, .shardLoad, .shardVerify, .replicaCtl, .mread, .mwrite, .cfgCommit, .traceMark, .commandCompletion,
      .waitsemTimeout, .sendAnnRetry, .sendGo, .reformTimeout].all (fun c => !(c 0 65536).wf) &&
    !(Instr.packetIssue 64).wf &&
    !(Instr.sequenceMismatchTimeout 65536).wf &&
    !(Instr.waitsemWake 281474976710656).wf &&
    !(Instr.doorbellWrite 65536 0).wf &&
    [Instr.qctlEnableResume, .qctlEnableFlush, .qctlDisableDrain, .qctlDisableAbort].all (fun c => !(c 65536 .myeles).wf) &&
    [Instr.tilemapWrite, .marginStart].all (fun c => !(c 8 0 .myeles).wf) &&
    [Instr.portEnable, .portDisableDrain, .portDisableAbort, .portTrainTimeout, .portFail, .linkNotice, .heartbeatLost].all (fun c => !(c
      18).wf) &&
    !(Instr.portTrained 18 0 ⟨0, 0, 0, 0, 0⟩).wf &&
    [Instr.laneFault, .laneRetrain].all (fun c => !(c 18 0).wf) &&
    [Instr.laneFault, .laneRetrain].all (fun c => !(c 0 16).wf) &&
    !(Instr.flitReceive 18 0 0).wf &&
    !(Instr.replayRequest 18 0).wf &&
    !(Instr.replayRequest 0 4096).wf &&
    !(Instr.creditReturn 18 0 0).wf &&
    !(Instr.creditReturn 0 17 0).wf &&
    [Instr.flitForward, .messageReceive, .ackSend, .ackReceive, .sendAnnounce, .collStageMessage, .collNotice, .formMessage,
      .replicaComplete].all (fun c => !(c 65536).wf) &&
    !(Instr.resendTimeout 65536).wf &&
    !(Instr.mcastResend 4294967296).wf &&
    !(Instr.collDeadline 4096 0).wf &&
    !(Instr.collDeadline 0 4294967296).wf &&
    [Instr.refreshOwed, .refreshPause, .forcedRefresh, .slackRefreshResume, .stackRetrainDone].all (fun c => !(c 16).wf) &&
    !(Instr.bridleTimestamp 18 0 none).wf) = true := by decide +kernel
theorem test_ill_formed_1 : (
    !(Instr.heartbeat 18 ⟨0, 0, 0, [], []⟩).wf &&
    !(Instr.nodeLostDeclare 16384 0).wf &&
    !(Instr.nodeLostAction 16384).wf &&
    !(Instr.pairingRecord 65536 ⟨0, 0, 0, 0, false, false, 0, 0, 0, 0⟩).wf &&
    !(Instr.granuleTaken 8 0 0).wf &&
    !(Instr.granuleTaken 0 2 0).wf &&
    !(Instr.granuleTaken 0 0 196608).wf &&
    !(Instr.launchRecord 65536 (rec0 false 0)).wf &&
    !(Instr.tileFault 8 0).wf &&
    !(Instr.tileFault 0 9).wf &&
    !(Instr.pseudoChannelFault 16 0).wf &&
    !(Instr.pseudoChannelFault 0 32).wf &&
    !(Instr.pseudoChannelRetrainDone 16 0 false).wf &&
    !(Instr.pseudoChannelRetrainDone 0 32 false).wf &&
    !(Instr.coreFault 32).wf &&
    !(Instr.farTierPortFail 4).wf &&
    !(Instr.sensorSample 560 0).wf &&
    [Instr.pciePerst, .pcieLinkDown].all (fun c => !(c 2).wf) &&
    [Instr.marginDone, .memcfgApply, .aDieUncontainedFault].all (fun c => !(c 8).wf) &&
    !(Instr.mgmtDatagram 2 []).wf &&
    !(Instr.mgmtDatagram 0 (List.replicate 5465 0)).wf &&
    !(Instr.registerWrite 4 0 .myeles).wf &&
    !(Instr.registerWrite 1073741824 0 .myeles).wf &&
    !(Instr.registerWrite 1099511758848 0 .myeles).wf) = true := by decide +kernel
theorem test_ill_formed_2 : (
    !(Instr.hlvcfgWrite 32 0).wf &&
    !(Instr.riscvFence 32 false).wf &&
    [Instr.vsetl, .vld, .vst, .vlds, .vsts, .vgather, .vscatter, .vldff, .vgatherff, .pld, .pst, .vcmp, .plogic, .sadd, .ssub, .smulr,
      .rshr, .sshl, .vcvt, .vperm, .redsum, .redmax, .redmin, .vadd, .vsub, .vmul, .vfma, .vnfma, .vdiv, .vsqrt, .vmin, .vmax, .vand,
      .vor, .vxor, .vshl, .vsra].all (fun c => !(c 32 (vop 0 0 0 0 0 false)).wf) &&
    !(Instr.scalarLoadStore 32 (sm .load 0 0)).wf &&
    !(Instr.scalarFDWrite 32 0 0 false).wf &&
    !(Instr.scalarFDWrite 0 32 0 false).wf &&
    !(Instr.inboundAccess 2 ⟨none, 0, 0, none⟩).wf &&
    !(Instr.pcieLinkUp 2 1 1 false).wf &&
    !(Instr.pcieLinkUp 0 3 1 false).wf &&
    !(Instr.pcieLinkUp 0 1 0 false).wf &&
    !(Instr.pcieLinkUp 0 1 7 false).wf &&
    !(Instr.farTierPortUp 4 0).wf &&
    !(Instr.farTierPortUp 0 4096).wf &&
    !(Instr.stagingSlotFree 8 0).wf &&
    !(Instr.stagingSlotFree 0 64).wf &&
    !(Instr.laneRetrainDone 18 0 false).wf &&
    !(Instr.laneRetrainDone 0 16 false).wf &&
    !(Instr.tableSetStage 64 0 0 0).wf &&
    !(Instr.tableSetStage 0 65536 0 0).wf &&
    !(Instr.tableSetStage 0 0 281474976710656 0).wf &&
    !(Instr.slotWrite 281474976710656 0 0 false).wf &&
    !(Instr.slotWrite 0 1 134217728 false).wf) = true := by decide +kernel
theorem test_well_formed_0 : (
    [Instr.nop, .fence, .tickwait, .signal, .waitsem, .qdisable, .qenable, .copy, .gather, .scatter, .inval, .mma, .wload, .vchain,
      .compress, .expand, .histo, .solve, .factor, .iterate, .put, .get, .rred, .mcast, .ratom, .send, .recv, .coll, .collReform,
      .collBatch, .shardSave, .shardLoad, .shardVerify, .replicaCtl, .mread, .mwrite, .cfgCommit, .traceMark, .commandCompletion,
      .waitsemTimeout, .sendAnnRetry, .sendGo, .reformTimeout].all (fun c => (c 0 0).wf) &&
    (Instr.packetIssue 0).wf &&
    (Instr.sequenceMismatchTimeout 0).wf &&
    (Instr.waitsemWake 0).wf &&
    (Instr.doorbellWrite 0 0).wf &&
    [Instr.qctlEnableResume, .qctlEnableFlush, .qctlDisableDrain, .qctlDisableAbort].all (fun c => (c 0 .myeles).wf) &&
    [Instr.tilemapWrite, .marginStart].all (fun c => (c 0 0 .myeles).wf) &&
    [Instr.portEnable, .portDisableDrain, .portDisableAbort, .portTrainTimeout, .portFail, .linkNotice, .heartbeatLost].all (fun c => (c
      0).wf) &&
    (Instr.portTrained 0 0 ⟨0, 0, 0, 0, 0⟩).wf &&
    [Instr.laneFault, .laneRetrain].all (fun c => (c 0 0).wf) &&
    (Instr.flitReceive 0 0 0).wf &&
    (Instr.replayRequest 0 0).wf &&
    (Instr.creditReturn 0 0 0).wf &&
    [Instr.flitForward, .messageReceive, .ackSend, .ackReceive, .sendAnnounce, .collStageMessage, .collNotice, .formMessage,
      .replicaComplete].all (fun c => (c 0).wf) &&
    (Instr.resendTimeout 0).wf &&
    (Instr.mcastResend 0).wf &&
    (Instr.collDeadline 0 0).wf &&
    [Instr.refreshOwed, .refreshPause, .forcedRefresh, .slackRefreshResume, .stackRetrainDone].all (fun c => (c 0).wf) &&
    (Instr.bridleTimestamp 0 0 none).wf &&
    (Instr.heartbeat 0 ⟨0, 0, 0, [], []⟩).wf &&
    (Instr.nodeLostDeclare 0 0).wf &&
    (Instr.nodeLostAction 0).wf &&
    (Instr.pairingRecord 0 ⟨0, 0, 0, 0, false, false, 0, 0, 0, 0⟩).wf &&
    (Instr.granuleTaken 0 0 0).wf) = true := by decide +kernel
theorem test_well_formed_1 : (
    (Instr.launchRecord 0 (rec0 false 0)).wf &&
    (Instr.tileFault 0 0).wf &&
    (Instr.pseudoChannelFault 0 0).wf &&
    (Instr.pseudoChannelRetrainDone 0 0 false).wf &&
    (Instr.coreFault 0).wf &&
    (Instr.farTierPortFail 0).wf &&
    (Instr.sensorSample 0 0).wf &&
    [Instr.pciePerst, .pcieLinkDown].all (fun c => (c 0).wf) &&
    [Instr.marginDone, .memcfgApply, .aDieUncontainedFault].all (fun c => (c 0).wf) &&
    (Instr.mgmtDatagram 0 []).wf &&
    (Instr.registerWrite 0 0 .myeles).wf &&
    (Instr.hlvcfgWrite 0 0).wf &&
    (Instr.riscvFence 0 false).wf &&
    [Instr.vsetl, .vld, .vst, .vlds, .vsts, .vgather, .vscatter, .vldff, .vgatherff, .pld, .pst, .vcmp, .plogic, .sadd, .ssub, .smulr,
      .rshr, .sshl, .vcvt, .vperm, .redsum, .redmax, .redmin, .vadd, .vsub, .vmul, .vfma, .vnfma, .vdiv, .vsqrt, .vmin, .vmax, .vand,
      .vor, .vxor, .vshl, .vsra].all (fun c => (c 0 (vop 0 0 0 0 0 false)).wf) &&
    (Instr.scalarLoadStore 0 (sm .load 0 0)).wf &&
    (Instr.scalarFDWrite 0 0 0 false).wf &&
    (Instr.inboundAccess 0 ⟨none, 0, 0, none⟩).wf &&
    (Instr.pcieLinkUp 0 1 1 false).wf &&
    (Instr.farTierPortUp 0 0).wf &&
    (Instr.stagingSlotFree 0 0).wf &&
    (Instr.laneRetrainDone 0 0 false).wf &&
    (Instr.tableSetStage 0 0 0 0).wf &&
    (Instr.slotWrite 0 0 0 false).wf) = true := by decide +kernel

end Sys2Proof.Tests
end

section
/-!
Proofs for the scope of the package (00_scope.md): registers by access type (R6, R7, R525), registers whose writes are checked
(R70, R233), and the queue of commands.
-/
namespace Sys2Proof.Machine

/-! Tables in canonical form are equal when they read alike. -/

section
variable {α : Type} [DecidableEq α] {d : Nat → α}

theorem tabGet_below {lo k : Nat} {t : Tab α} (h : tabWfFrom d lo t = true) (hk : k < lo) : tabGet d t k = d k := by
  induction t generalizing lo with
  | nil => rfl
  | cons e t ih =>
    obtain ⟨a, v⟩ := e
    simp only [tabWfFrom, Bool.and_eq_true, decide_eq_true_eq] at h
    obtain ⟨⟨hlo, _⟩, ht⟩ := h
    rw [tabGet, if_neg (by omega), ih ht (by omega)]

theorem tab_ext_from {lo lo' : Nat} {t u : Tab α} (ht : tabWfFrom d lo t = true) (hu : tabWfFrom d lo' u = true)
    (h : ∀ k, tabGet d t k = tabGet d u k) : t = u := by
  induction t generalizing u lo lo' with
  | nil =>
    cases u with
    | nil => rfl
    | cons e u =>
      obtain ⟨b, w⟩ := e
      simp only [tabWfFrom, Bool.and_eq_true, decide_eq_true_eq] at hu
      have hb := h b
      rw [tabGet, tabGet, if_pos rfl] at hb
      exact absurd hb.symm hu.1.2
  | cons e t ih =>
    obtain ⟨a, v⟩ := e
    simp only [tabWfFrom, Bool.and_eq_true, decide_eq_true_eq] at ht
    obtain ⟨⟨_, hv⟩, ht⟩ := ht
    have ha := h a
    rw [tabGet, if_pos rfl] at ha
    cases u with
    | nil => exact absurd ha hv
    | cons e u =>
      obtain ⟨b, w⟩ := e
      simp only [tabWfFrom, Bool.and_eq_true, decide_eq_true_eq] at hu
      obtain ⟨⟨_, hw⟩, hu⟩ := hu
      have hb := h b
      rw [tabGet, tabGet, if_pos rfl] at hb
      rw [tabGet] at ha
      have hab : a = b := by
        rcases Nat.lt_trichotomy a b with hlt | heq | hgt
        · rw [if_neg (by omega), tabGet_below hu (by omega)] at ha
          exact absurd ha hv
        · exact heq
        · rw [if_neg (by omega), tabGet_below ht (by omega)] at hb
          exact absurd hb.symm hw
      subst hab
      rw [if_pos rfl] at ha
      subst ha
      congr 1
      refine ih ht hu fun k => ?_
      rcases Nat.lt_or_ge k (a + 1) with hk | hk
      · rw [tabGet_below ht hk, tabGet_below hu hk]
      · have hk' := h k
        rwa [tabGet, tabGet, if_neg (by omega), if_neg (by omega)] at hk'

/-- Two tables in canonical form that read alike are one table. -/
theorem tab_ext {t u : Tab α} (ht : tabWf d t = true) (hu : tabWf d u = true) (h : ∀ k, tabGet d t k = tabGet d u k) : t = u :=
  tab_ext_from ht hu h

theorem tabSet_tabGet_self {t : Tab α} (ht : tabWf d t = true) (k : Nat) : tabSet d t k (tabGet d t k) = t := by
  refine tab_ext (tabWf_tabSet ht) ht fun j => ?_
  rw [tabGet_tabSet]
  split
  · next hj => rw [hj]
  · rfl
end


/-! Words of which no bit, or one field, changes. -/

theorem wbits_all (w : Word) : wbits w 0 64 = w.toNat := Nat.mod_eq_of_lt w.isLt

theorem wbits_lt (w : Word) (lo n : Nat) : wbits w lo n < 2 ^ n := bits_lt _ _ _

theorem word_ext {a b : Word} (h : ∀ lo n, wbits a lo n = wbits b lo n) : a = b := by
  have h64 := h 0 64
  rw [wbits_all, wbits_all] at h64
  exact BitVec.eq_of_toNat_eq h64

theorem wput_wbits_self {w : Word} {lo n : Nat} (h : lo + n ≤ 64) : wput w lo n (wbits w lo n) = w := by
  apply BitVec.eq_of_toNat_eq
  rw [wput_toNat h]
  apply Nat.eq_of_testBit_eq; intro i
  rw [testBit_putBits, wbits, testBit_bits]
  split
  · next hi => rw [decide_eq_true (by omega : i - lo < n), Bool.true_and, Nat.add_sub_cancel' hi.1]
  · rfl

/-! The fields of a register rise and do not overlap (R4). -/

/-- The fields lie one after the other in the word, from bit `k` on. -/
def fieldsRising : Nat → List Fld → Bool
  | k, [] => decide (k ≤ 64)
  | k, f :: fs => decide (k ≤ f.lo) && fieldsRising (f.lo + f.n) fs

theorem fieldsRising_cons {k : Nat} {f : Fld} {fs : List Fld} :
    fieldsRising k (f :: fs) = true ↔ k ≤ f.lo ∧ fieldsRising (f.lo + f.n) fs = true := by
  rw [fieldsRising, Bool.and_eq_true, decide_eq_true_eq]

theorem fieldsRising_le {k : Nat} {fs : List Fld} (h : fieldsRising k fs = true) : k ≤ 64 := by
  induction fs generalizing k with
  | nil => simpa [fieldsRising] using h
  | cons f fs ih =>
    obtain ⟨hk, hfs⟩ := fieldsRising_cons.mp h
    have := ih hfs
    omega

theorem fieldsRising_mem {k : Nat} {fs : List Fld} {f : Fld} (h : fieldsRising k fs = true) (hf : f ∈ fs) :
    k ≤ f.lo ∧ f.lo + f.n ≤ 64 := by
  induction fs generalizing k with
  | nil => cases hf
  | cons g fs ih =>
    obtain ⟨hk, hfs⟩ := fieldsRising_cons.mp h
    rcases List.mem_cons.mp hf with rfl | hf
    · exact ⟨hk, fieldsRising_le hfs⟩
    · have := ih hfs hf
      omega

theorem portLanes_le (p : Nat) : portLanes p ≤ 16 := by
  unfold portLanes
  repeat' split
  all_goals decide

/-- What holds of both branches of a conditional table of fields holds of the table. -/
theorem all_ite {p : Prop} [Decidable p] {x y : Option (List Fld)} {P : List Fld → Bool} (hx : x.all P = true) (hy : y.all P = true) :
    (if p then x else y).all P = true := by
  split
  · exact hx
  · exact hy

theorem mFields_rising (o : Nat) : (mFields o).all (fieldsRising 0) = true := by
  unfold mFields
  repeat refine all_ite (by decide) ?_
  rfl

theorem portctl_rising {n : Nat} (hn : n ≤ 16) (s : Prop) [Decidable s] :
    fieldsRising 0 ([⟨0, n, .rwM, 2 ^ n - 1⟩] ++ (if s then [⟨16, 2, .rwM, 0⟩, ⟨18, 4, .rwM, 0⟩] else []) ++
      [⟨22, 3, .wo, 0⟩]) = true := by
  split <;> simp [fieldsRising] <;> omega

theorem fFields_rising (o : Nat) : (fFields o).all (fieldsRising 0) = true := by
  unfold fFields
  iterate 16 refine all_ite rfl ?_
  refine all_ite ?_ rfl
  dsimp only
  refine all_ite ?_ (all_ite rfl (all_ite rfl rfl))
  rw [Option.all_some]
  exact portctl_rising (portLanes_le _) _

theorem aFields_rising (k : Nat) : (aFields k).all (fieldsRising 0) = true := by
  unfold aFields
  iterate 6 refine all_ite rfl ?_
  refine all_ite ?_ rfl
  repeat refine all_ite rfl ?_
  rfl

theorem pFields_rising (o : Nat) : (pFields o).all (fieldsRising 0) = true := by
  unfold pFields
  repeat refine all_ite rfl ?_
  rfl

theorem qFields_rising (k : Nat) : fieldsRising 0 (qFields k) = true := by
  unfold qFields
  split
  · rfl
  · split
    · rfl
    · split <;> rfl

/-- Every register of the window has fields that rise and fit in 64 bits. -/
theorem regFields_rising {o : Nat} {fs : List Fld} (h : regFields o = some fs) : fieldsRising 0 fs = true := by
  have hall : (regFields o).all (fieldsRising 0) = true := by
    unfold regFields
    refine all_ite rfl <| all_ite (mFields_rising o) <| all_ite (fFields_rising o) <| all_ite (aFields_rising _) <|
      all_ite (all_ite rfl (pFields_rising o)) <| all_ite ?_ (all_ite rfl rfl)
    exact qFields_rising _
  rw [h] at hall
  exact hall

/-- A register lies in one of the blocks of registers. -/
theorem inBlock_of_regFields {o : Nat} (h : (regFields o).isSome = true) : o % 8 = 0 ∧ inBlock o = true := by
  unfold regFields at h
  unfold inBlock
  split at h
  · cases h
  · refine ⟨by omega, ?_⟩
    simp only [Bool.or_eq_true, decide_eq_true_eq]
    refine Decidable.byContradiction fun hno => ?_
    iterate 6 rw [if_neg (by omega)] at h
    cases h

/-! A write by access type changes each field for itself (R6, R7, R525). -/

/-- What `wordWrite` does for one field: replace it where the writer may. -/
def putField (priv locked : Bool) (js : JobSet) (c v : Word) (acc : Word × Bool) (f : Fld) : Word × Bool :=
  if priv || jobMay js f then
    let r := fieldWrite priv locked f (wbits c f.lo f.n) (wbits v f.lo f.n)
    (wput acc.1 f.lo f.n r.1, acc.2 || r.2)
  else acc

theorem wordWrite_eq_foldl (fs : List Fld) (priv locked : Bool) (js : JobSet) (c v : Word) :
    wordWrite fs priv locked js c v = fs.foldl (putField priv locked js c v) (c, false) := rfl

/-- What is put in a field fits in the field, where what it holds and what is written do. -/
theorem fieldWrite_lt {priv locked : Bool} {f : Fld} {c v m : Nat} (hc : c < m) (hv : v < m) :
    (fieldWrite priv locked f c v).1 < m := by
  unfold fieldWrite
  split
  · exact hv
  · split
    · exact hv
    · exact hc
  · exact hc
  · exact hc
  · exact Nat.lt_of_le_of_lt (Nat.sub_le _ _) hc
  · exact Nat.lt_of_le_of_lt (Nat.zero_le _) hc
  · split
    · exact hc
    · exact hv

section
variable {priv locked : Bool} {js : JobSet} {c v : Word}

theorem wbits_putField_same {acc : Word × Bool} {f : Fld} (h : f.lo + f.n ≤ 64) :
    wbits (putField priv locked js c v acc f).1 f.lo f.n =
      if priv || jobMay js f then (fieldWrite priv locked f (wbits c f.lo f.n) (wbits v f.lo f.n)).1
      else wbits acc.1 f.lo f.n := by
  unfold putField
  split
  · exact (wbits_wput_same h).trans (Nat.mod_eq_of_lt (fieldWrite_lt (wbits_lt _ _ _) (wbits_lt _ _ _)))
  · rfl

theorem wbits_putField_other {acc : Word × Bool} {f : Fld} {lo n : Nat} (h : f.lo + f.n ≤ 64)
    (hd : lo + n ≤ f.lo ∨ f.lo + f.n ≤ lo) : wbits (putField priv locked js c v acc f).1 lo n = wbits acc.1 lo n := by
  unfold putField
  split
  · exact wbits_wput_other h hd
  · rfl

/-- Bits apart from every field stay. -/
theorem wbits_foldl_putField_apart {fs : List Fld} {k lo n : Nat} {acc : Word × Bool} (hr : fieldsRising k fs = true)
    (hd : ∀ f ∈ fs, lo + n ≤ f.lo ∨ f.lo + f.n ≤ lo) :
    wbits (fs.foldl (putField priv locked js c v) acc).1 lo n = wbits acc.1 lo n := by
  induction fs generalizing k acc with
  | nil => rfl
  | cons f fs ih =>
    have hf := (fieldsRising_mem hr List.mem_cons_self).2
    rw [List.foldl_cons, ih (fieldsRising_cons.mp hr).2 fun g hg => hd g (List.mem_cons_of_mem f hg),
      wbits_putField_other hf (hd f List.mem_cons_self)]

/-- Each field takes what the writer may put in it. -/
theorem wbits_foldl_putField {fs : List Fld} {k : Nat} {acc : Word × Bool} {f : Fld} (hr : fieldsRising k fs = true) (hf : f ∈ fs) :
    wbits (fs.foldl (putField priv locked js c v) acc).1 f.lo f.n =
      if priv || jobMay js f then (fieldWrite priv locked f (wbits c f.lo f.n) (wbits v f.lo f.n)).1
      else wbits acc.1 f.lo f.n := by
  induction fs generalizing k acc with
  | nil => cases hf
  | cons g fs ih =>
    have hg := (fieldsRising_mem hr List.mem_cons_self).2
    obtain ⟨_, hfs⟩ := fieldsRising_cons.mp hr
    rw [List.foldl_cons]
    rcases List.mem_cons.mp hf with rfl | hf
    · rw [wbits_foldl_putField_apart hfs fun x hx => Or.inl (fieldsRising_mem hfs hx).1, wbits_putField_same hg]
    · rw [ih hfs hf, wbits_putField_other hg (Or.inr (fieldsRising_mem hfs hf).1)]

theorem wbits_wordWrite {fs : List Fld} {f : Fld} (hr : fieldsRising 0 fs = true) (hf : f ∈ fs) :
    wbits (wordWrite fs priv locked js c v).1 f.lo f.n =
      if priv || jobMay js f then (fieldWrite priv locked f (wbits c f.lo f.n) (wbits v f.lo f.n)).1 else wbits c f.lo f.n :=
  wbits_foldl_putField hr hf

theorem wbit_wordWrite_reserved {fs : List Fld} {i : Nat} (hr : fieldsRising 0 fs = true)
    (hi : ∀ f ∈ fs, i < f.lo ∨ f.lo + f.n ≤ i) : wbit (wordWrite fs priv locked js c v).1 i = wbit c i := by
  rw [wbit_eq, wbit_eq, wordWrite_eq_foldl, wbits_foldl_putField_apart hr hi]
end

/-! What a REGISTER_WRITE of the control window reaches. -/

theorem plainWrite_of_regFields {off : Nat} {fs : List Fld} (h : regFields off = some fs) (v : Word) (by' : Agent) (d : Dev) :
    (plainWrite off v by' d).2 = setReg d off (wordWrite fs (by' != .job) (rb d mStatus 5) (jobSet off) (rg d off) v).1 := by
  rw [plainWrite, h]

/-- The registers of the blocks that do something of their own when they are written. -/
def actsOnWrite (off : Nat) : Bool :=
  decide (0x2000000 ≤ off) ||
  decide ((0x200000 ≤ off ∧ off < 0xA00000) ∧ (off % 0x100000 = 0 ∨ off % 0x100000 = 0x20 ∨
    (0x1000 ≤ off % 0x100000 ∧ off % 0x100000 % 0x100 = 0x18))) ||
  decide (0x101000 ≤ off ∧ off < 0x101240 ∧ off % 0x20 = 0) ||
  decide (0x600 ≤ off ∧ off < 0x650) ||
  decide (off ∈ [pLlcCfg, pRecovery, mErrRing, mFrmRing, mSensRing, mSensRate, mTrcCfg, mChtabApply, mFwCtl, mAuthCtl, mTether,
    mPwrCtl, mIdlePlan, mPwrPol, fPodSec, fBridleCfg, fPlanApply, fPlanCtl])

/-- A register that does nothing of its own takes a write by access type alone. -/
theorem ctrlWrite_plain {off : Nat} {d : Dev} (hb : inBlock off = true) (ha : assigned off = true) (hp : absentReg d off = false)
    (hw : actsOnWrite off = false) (v : Word) (by' : Agent) : ctrlWrite off v by' d = some (plainWrite off v by' d) := by
  simp only [actsOnWrite, Bool.or_eq_false_iff, decide_eq_false_iff_not, List.mem_cons, List.not_mem_nil, or_false, not_or] at hw
  obtain ⟨⟨⟨⟨hq, hA⟩, hport⟩, hrail⟩, hlist⟩ := hw
  have h4 : ¬ 0x4000000 ≤ off := by omega
  simp only [ctrlWrite, hb, ha, hp, h4, hq, hport, hrail, hlist, Bool.not_true, Bool.or_self, Bool.false_eq_true, if_false, or_self]
  split
  · next hA' =>
    obtain ⟨hk0, hk⟩ := not_or.mp fun h => hA ⟨hA', h⟩
    obtain ⟨hk20, hk18⟩ := not_or.mp hk
    simp only [hk0, hk20, hk18, if_false]
  · rfl

section
variable {off : Nat} {d : Dev} (v : Word) (by' : Agent)

/-- A REGISTER_WRITE of an aligned offset does what the window makes of it. -/
theorem registerWrite_ctrl (hc : off < csrBase) (h8 : off % 8 = 0) (hd : running d = true) {r : Bool × Dev}
    (h : ctrlWrite off v by' d = some r) : registerWrite off v by' d = r.2 := by
  rw [registerWrite, if_neg (by omega), if_neg (by simp [h8, hd]), h]

theorem registerWrite_plain {fs : List Fld} (hd : running d = true) (h : regFields off = some fs) (hp : absentReg d off = false)
    (hw : actsOnWrite off = false) : registerWrite off v by' d = (plainWrite off v by' d).2 := by
  obtain ⟨h8, hb⟩ := inBlock_of_regFields (o := off) (by rw [h]; rfl)
  have ha : assigned off = true := by
    have hne : off ≠ pRecovery := by
      rintro rfl
      revert hw; decide
    simp [assigned, hne, h]
  have hc : off < csrBase := by
    have : ¬ 0x2000000 ≤ off := fun x => by simp [actsOnWrite, x] at hw
    unfold csrBase; omega
  exact registerWrite_ctrl v by' hc h8 hd (ctrlWrite_plain hb ha hp hw v by')
end

theorem exec_registerWrite (off : Nat) (v : Word) (by' : Agent) (s : State) :
    exec (.registerWrite off v by') s = onDev s (registerWrite off v by') := rfl

theorem onDev_same {s : State} {f : Dev → Dev} (hs : Formed s.dev) (h : f s.dev = s.dev) : onDev s f = .next s := by
  rw [onDev_next (by rw [h]; exact hs), h]

/-- Registers named one by one whose fields do no more than hold their values. -/
def holdingRegs : List Nat :=
  [mStatus, mNumCfg, mMemIrq, mFarCfg, mFaultStat, mTwinCfg, mReplStat, mErrPtr, mFrmPtr, mSensPtr, mTrcEPtr, mTrcSPtr, mPwrStat,
    mOvrStat, mCntSamp, mCntTiles, mTrcEvt, fNodeCfg, fChord, fCollPool, fCollErr, fHotLine, fHbLost, fPlanBase, pPcieStat 0,
    pPcieStat 1]

/-- A register whose fields do no more than hold their values: one of the list, of an A-die, a stack, a rail, a port or a tile. -/
def HoldsOnly (off : Nat) : Prop :=
  off ∈ holdingRegs ∨ (∃ a, a < 8 ∧ (off = aTileStat a ∨ off = aMemCfg a ∨ off = aCbwStat a)) ∨
    (∃ st, st < 16 ∧ off = aStackTherm st) ∨ (∃ k, k < 10 ∧ off = mRailStat k) ∨
    (∃ p, p < 18 ∧ (off = fPortStat p ∨ off = fLinkCnt p)) ∨
    (∃ t, t < 64 ∧ (off = aSeqErr t ∨ off = aFpXcpt t ∨ off = aChTab t))

theorem actsOnWrite_of_holdsOnly {off : Nat} (h : HoldsOnly off) : actsOnWrite off = false := by
  have hlist : ∀ o ∈ holdingRegs, actsOnWrite o = false := by decide
  have hdie : ∀ a < 8, actsOnWrite (aTileStat a) = false ∧ actsOnWrite (aMemCfg a) = false ∧ actsOnWrite (aCbwStat a) = false := by
    decide
  have hstack : ∀ st < 16, actsOnWrite (aStackTherm st) = false := by decide
  have hrail : ∀ k < 10, actsOnWrite (mRailStat k) = false := by decide
  have hport : ∀ p < 18, actsOnWrite (fPortStat p) = false ∧ actsOnWrite (fLinkCnt p) = false := by decide
  have htile : ∀ t < 64, actsOnWrite (aSeqErr t) = false ∧ actsOnWrite (aFpXcpt t) = false ∧ actsOnWrite (aChTab t) = false := by
    decide
  rcases h with h | ⟨a, ha, h⟩ | ⟨st, hst, rfl⟩ | ⟨k, hk, rfl⟩ | ⟨p, hp, h⟩ | ⟨t, ht, h⟩
  · exact hlist off h
  · obtain ⟨hstat, hcfg, hcbw⟩ := hdie a ha
    rcases h with rfl | rfl | rfl <;> assumption
  · exact hstack st hst
  · exact hrail k hk
  · obtain ⟨hstat, hcnt⟩ := hport p hp
    rcases h with rfl | rfl <;> assumption
  · obtain ⟨hseq, hfp, hch⟩ := htile t ht
    rcases h with rfl | rfl | rfl <;> assumption

/-- What a write by access type leaves of one field (R7), for the agent that writes. -/
theorem rf_plainWrite {off : Nat} {fs : List Fld} {f : Fld} (h : regFields off = some fs) (hf : f ∈ fs) (v : Word)
    (by' : Agent) (d : Dev) :
    rf (plainWrite off v by' d).2 off f.lo f.n =
      if by' = .job ∧ jobMay (jobSet off) f = false then rf d off f.lo f.n
      else (fieldWrite (by' != .job) (rb d mStatus 5) f (rf d off f.lo f.n) (wbits v f.lo f.n)).1 := by
  rw [plainWrite_of_regFields h, rf, rg_setReg_same, wbits_wordWrite (regFields_rising h) hf]
  cases by' <;> cases jobMay (jobSet off) f <;> rfl

theorem rb_plainWrite_reserved {off i : Nat} {fs : List Fld} (h : regFields off = some fs)
    (hi : ∀ f ∈ fs, i < f.lo ∨ f.lo + f.n ≤ i)
    (v : Word) (by' : Agent) (d : Dev) : rb (plainWrite off v by' d).2 off i = rb d off i := by
  rw [plainWrite_of_regFields h, rb, rg_setReg_same, wbit_wordWrite_reserved (regFields_rising h) hi, rb]

/-- Settles O7: a register that does nothing of its own takes the write by access type, field by field. -/
theorem accessTypes : Obligations.AccessTypes := by
  intro s off v by' fs hs hrun hfs hpresent hoff
  have hacts : actsOnWrite off = false := actsOnWrite_of_holdsOnly hoff
  have hw : registerWrite off v by' s.dev = (plainWrite off v by' s.dev).2 := registerWrite_plain v by' hrun hfs hpresent hacts
  have hset := plainWrite_of_regFields hfs v by' s.dev
  have hformed : Formed (registerWrite off v by' s.dev) := by rw [hw, hset]; exact formed_setReg hs
  refine ⟨_, (exec_registerWrite off v by' s).trans (onDev_next hformed), rfl, ?_, ?_, ?_, ?_⟩
  · rw [hw, hset]; exact (OnlyRegs.refl _).setReg _ _
  · intro o ho
    rw [hw, hset]; exact rg_setReg_other _ ho
  · intro f hf
    rw [hw]
    refine (rf_plainWrite hfs hf v by' s.dev).trans ?_
    congr 1
    obtain ⟨lo, n, acc, reset⟩ := f
    cases acc with
    | rwM => cases by' <;> rfl
    | rwl => cases rb s.dev mStatus 5 <;> rfl
    | _ => rfl
  · intro i _ hi
    rw [hw]; exact rb_plainWrite_reserved hfs hi v by' s.dev

/-! LLCCFG_WRITE (R233). -/

theorem exec_llccfgWrite (v : Word) (by' : Agent) (s : State) :
    exec (.llccfgWrite v by') s = onDev s fun d => (llccfgWrite v by' d).2 := rfl

theorem setReg_rg_self {d : Dev} (h : Formed d) (o : Nat) : setReg d o (rg d o) = d := by
  rw [setReg, rg, tabSet_tabGet_self h.regs]

/-- A register whose written value is in force is latched to no effect. -/
theorem latch_eq_self {d : Dev} {o : Nat} (h : Formed d) (he : ∀ lo n, ef d o lo n = rf d o lo n) : latch d o = d := by
  have hw : tabGet regReset d.eff o = rg d o := word_ext he
  rw [latch, ← hw, tabSet_tabGet_self h.eff]

theorem wipe_zero (a : Nat) (d : Dev) : wipe a 0 d = d := by
  have hall : ∀ x : Nat, (decide (x < a) || decide (a + 0 ≤ x)) = true := by
    intro x
    rw [Bool.or_eq_true, decide_eq_true_eq, decide_eq_true_eq]
    omega
  have hmem (t : Tab Byte) : tabDrop a (a + 0) t = t := List.filter_eq_self.mpr fun e _ => hall e.1
  have hlines (l : List Nat) : l.filter (fun x => decide (x < a) || decide (a + 0 ≤ x)) = l :=
    List.filter_eq_self.mpr fun x _ => hall x
  rw [wipe, hmem, hlines, hlines]

theorem plainWrite_llccfg (v : Word) {by' : Agent} (hj : by' ≠ .job) (d : Dev) :
    (plainWrite pLlcCfg v by' d).2 = if rb d mStatus 5 = true then setF d pLlcCfg 0 4 (rf d pLlcCfg 0 4)
      else setF d pLlcCfg 0 4 (wbits v 0 4) := by
  have hp : (by' != .job) = true := by simp [hj]
  rw [plainWrite_of_regFields (fs := [⟨0, 4, .rwl, 0⟩]) rfl, hp]
  cases rb d mStatus 5 <;> rfl

/-- First byte, in the P-die region, of the ways of the last-level cache that change role (R233). -/
def llcFrom (d : Dev) (v : Word) : Nat := ctrlBase + pRegionOff + 4 * mib * Nat.min (ef d pLlcCfg 0 4) (wbits v 0 4)

/-- End of the ways that change role. -/
def llcEnd (d : Dev) (v : Word) : Nat := ctrlBase + pRegionOff + 4 * mib * Nat.max (ef d pLlcCfg 0 4) (wbits v 0 4)

theorem llcFrom_le_llcEnd (d : Dev) (v : Word) : llcFrom d v ≤ llcEnd d v :=
  Nat.add_le_add_left (Nat.mul_le_mul_left _ (Nat.le_trans (Nat.min_le_left _ _) (Nat.le_max_left _ _))) _

theorem Touches.wipe {R M : Nat → Prop} {d e : Dev} (h : Touches R M d e) {a n : Nat} (hm : ∀ x, a ≤ x → x < a + n → M x) :
    Touches R M d (wipe a n e) :=
  h.trans ⟨formed_wipe h.formed, fun _ _ => rfl, fun x hx => by rw [byteAt_wipe, if_neg fun y => hx (hm x y.1 y.2)]⟩

section
variable {d : Dev} {by' : Agent} (v : Word)

theorem llccfgWrite_open (hj : by' ≠ .job) (hp : d.phase ≠ .off) (hl : rb d mStatus 5 = false) :
    (llccfgWrite v by' d).2 =
      latch (wipe (llcFrom d v) (llcEnd d v - llcFrom d v) (setF d pLlcCfg 0 4 (wbits v 0 4))) pLlcCfg := by
  have hno : ¬ ((by' == .job) = true ∨ d.phase = .off) := by simp [hj, hp]
  have hnew : rf (setF d pLlcCfg 0 4 (wbits v 0 4)) pLlcCfg 0 4 = wbits v 0 4 := by
    rw [rf_setF_same (by decide), Nat.mod_eq_of_lt (wbits_lt v 0 4)]
  have hlen (m n : Nat) : 4 * mib * (n - m) = ctrlBase + pRegionOff + 4 * mib * n - (ctrlBase + pRegionOff + 4 * mib * m) := by
    rw [Nat.mul_sub]; omega
  rw [llccfgWrite, if_neg hno]
  simp only [plainWrite_llccfg v hj, hl, Bool.false_eq_true, if_false, hnew, hlen]
  rfl

/-- Before CFG_COMMIT a write changes the register LLCCFG and the bytes of the ways that change role, and no other. -/
theorem llccfgWrite_open_touches (hd : Formed d) (hj : by' ≠ .job) (hp : d.phase ≠ .off) (hl : rb d mStatus 5 = false) :
    Touches (· = pLlcCfg) (fun x => llcFrom d v ≤ x ∧ x < llcEnd d v) d (llccfgWrite v by' d).2 := by
  have hle := llcFrom_le_llcEnd d v
  rw [llccfgWrite_open v hj hp hl]
  refine Touches.latch (Touches.wipe ?_ fun x h1 h2 => ?_)
  · exact (Touches.refl hd).setF (R := (· = pLlcCfg)) rfl
  · exact ⟨h1, by omega⟩

theorem rf_llccfgWrite_open (hj : by' ≠ .job) (hp : d.phase ≠ .off) (hl : rb d mStatus 5 = false) :
    rf (llccfgWrite v by' d).2 pLlcCfg 0 4 = wbits v 0 4 := by
  rw [llccfgWrite_open v hj hp hl]
  exact (rf_setF_same (d := d) (o := pLlcCfg) (by decide)).trans (Nat.mod_eq_of_lt (wbits_lt v 0 4))

theorem ef_llccfgWrite_open (hj : by' ≠ .job) (hp : d.phase ≠ .off) (hl : rb d mStatus 5 = false) :
    ef (llccfgWrite v by' d).2 pLlcCfg 0 4 = wbits v 0 4 := by
  refine Eq.trans ?_ (rf_llccfgWrite_open v hj hp hl)
  rw [llccfgWrite_open v hj hp hl, ef_latch, if_pos rfl]
  rfl

theorem byteAt_llccfgWrite_open (hj : by' ≠ .job) (hp : d.phase ≠ .off) (hl : rb d mStatus 5 = false) {x : Nat}
    (h1 : llcFrom d v ≤ x) (h2 : x < llcEnd d v) : byteAt (llccfgWrite v by' d).2 x = 0 := by
  rw [llccfgWrite_open v hj hp hl]
  exact (byteAt_wipe _ _ x).trans (if_pos ⟨h1, by omega⟩)

/-- After CFG_COMMIT a write changes nothing, the value written being in force. -/
theorem llccfgWrite_locked (hd : Formed d) (hl : rb d mStatus 5 = true) (he : ∀ lo n, ef d pLlcCfg lo n = rf d pLlcCfg lo n) :
    (llccfgWrite v by' d).2 = d := by
  unfold llccfgWrite
  split
  · rfl
  · next hno =>
    have hj : by' ≠ .job := by rintro rfl; exact hno (Or.inl rfl)
    have hkeep : setF d pLlcCfg 0 4 (rf d pLlcCfg 0 4) = d := by
      rw [setF, rf, wput_wbits_self (by decide), setReg_rg_self hd]
    simp only [plainWrite_llccfg v hj, hl, if_true, hkeep, he, Nat.min_self, Nat.max_self, Nat.sub_self, Nat.mul_zero, wipe_zero,
      latch_eq_self hd he]
end

/-! Queue descriptors and offsets that name no register (R70, R524). -/

theorem running_phase {d : Dev} (h : running d = true) : d.phase ≠ .off := by
  intro hp
  simp [running, hp] at h

theorem ctrlWrite_unassigned {off : Nat} (h : assigned off = false) (v : Word) (by' : Agent) (d : Dev) :
    ctrlWrite off v by' d = some (false, d) ∨ ctrlWrite off v by' d = none := by
  cases hb : inBlock off with
  | true =>
    left
    simp only [ctrlWrite, hb, h, Bool.not_true, Bool.not_false, Bool.true_or, Bool.false_eq_true, if_false, if_true]
  | false =>
    simp only [ctrlWrite, hb, Bool.not_false, if_true]
    split
    · exact Or.inl rfl
    · exact Or.inr rfl

theorem registerWrite_unnamed {off : Nat} (hc : off < csrBase) (h : off % 8 ≠ 0 ∨ assigned off = false) (v : Word) (by' : Agent)
    (d : Dev) : registerWrite off v by' d = d := by
  rw [registerWrite, if_neg (by omega)]
  split
  · rfl
  · next hno =>
    have ha : assigned off = false := h.resolve_left fun h8 => hno (Or.inl h8)
    rcases ctrlWrite_unassigned ha v by' d with hw | hw <;> rw [hw]

/-- A write to word `k` of the descriptor of queue `q` is checked as one. -/
theorem registerWrite_desc {q k : Nat} (hq : q < 65536) (hk : k < 4) {d : Dev} (hd : running d = true) (v : Word) (by' : Agent) :
    registerWrite (0x2000000 + 32 * q + 8 * k) v by' d = descWrite (0x2000000 + 32 * q + 8 * k) v by' d := by
  generalize hoff : 0x2000000 + 32 * q + 8 * k = off
  have hb : inBlock off = true := by
    simp only [inBlock, Bool.or_eq_true, decide_eq_true_eq]; omega
  have hfields : regFields off = some (qFields (off / 8 % 4)) := by
    unfold regFields
    iterate 5 rw [if_neg (by omega)]
    rw [if_pos (by omega)]
  have ha : assigned off = true := by
    have hne : off ≠ pRecovery := by unfold pRecovery; omega
    simp [assigned, hne, hfields]
  have hp : absentReg d off = false := by
    rw [absentReg, decide_eq_false (by omega), Bool.false_and]
  have hbell : ¬ 0x4000000 ≤ off := by omega
  have hdesc : 0x2000000 ≤ off := by omega
  have hw : ctrlWrite off v by' d = some (false, descWrite off v by' d) := by
    simp only [ctrlWrite, hb, ha, hp, hbell, hdesc, Bool.not_true, Bool.or_self, Bool.false_eq_true, if_false, if_true]
  exact registerWrite_ctrl v by' (by unfold csrBase; omega) (by omega) hd hw

theorem descWrite_enabled {q k : Nat} (hk : k < 3) {d : Dev} (hs : qState d q ≠ 0) (ht : tileAbsent d (qTile q) = false) (v : Word)
    (by' : Agent) : descWrite (0x2000000 + 32 * q + 8 * k) v by' d =
      setF (setB d (aSeqErr (qTile q)) 0 true) (aSeqErr (qTile q)) 3 10 (qIndex q) := by
  have hq : (0x2000000 + 32 * q + 8 * k - 0x2000000) / 32 = q := by omega
  have hword : ¬ (0x2000000 + 32 * q + 8 * k) / 8 % 4 = 3 := by omega
  simp only [descWrite, hq, hword, hs, ht, if_false, if_true, ne_eq, not_false_eq_true, Bool.false_eq_true]

theorem descWrite_ptr (q : Nat) (v : Word) (by' : Agent) (d : Dev) : descWrite (0x2000000 + 32 * q + 8 * 3) v by' d = d := by
  rw [descWrite, if_pos (by omega)]

/-- Settles O8: LLCCFG_WRITE before and after CFG_COMMIT, the descriptor of a queue that is not DISABLED, queue pointers, and offsets
that name no register. -/
theorem checkedRegisters : Obligations.CheckedRegisters := by
  intro s v by' hs hrun hjob
  refine ⟨fun hopen => ?_, fun hlocked hforce => ?_, fun q k hq hk hstate htile => ?_, fun q hq => ?_, fun off hoff hno => ?_⟩
  · have hon := running_phase hrun
    have htouch := llccfgWrite_open_touches v hs hjob hon hopen
    exact ⟨_, (exec_llccfgWrite v by' s).trans (onDev_next htouch.formed), rfl, ef_llccfgWrite_open v hjob hon hopen,
      rf_llccfgWrite_open v hjob hon hopen, htouch.regs, fun x => byteAt_llccfgWrite_open v hjob hon hopen, htouch.mem⟩
  · exact (exec_llccfgWrite v by' s).trans (onDev_same hs (llccfgWrite_locked v hs hlocked hforce))
  · have hw : registerWrite (0x2000000 + 32 * q + 8 * k) v by' s.dev = _ :=
      (registerWrite_desc hq (by omega) hrun v by').trans (descWrite_enabled hk hstate htile v by')
    rw [exec_registerWrite, onDev_next (by rw [hw]; exact formed_setF (formed_setB hs)), hw]
  · exact onDev_same hs ((registerWrite_desc hq (k := 3) (by decide) hrun v by').trans (descWrite_ptr q v by' s.dev))
  · exact onDev_same hs (registerWrite_unnamed hoff hno v by' s.dev)

/-! The queue of commands. -/

theorem step_cons (d : Dev) (c : Instr) (rest : List Instr) : step ⟨d, c :: rest⟩ = exec c ⟨d, rest⟩ := rfl

theorem step_nil (d : Dev) : step ⟨d, []⟩ = .next ⟨pass 1 d, []⟩ := rfl

/-- Settles O1, by the two shapes of the queue of commands. -/
theorem stepRunsFrontCommand : Obligations.StepRunsFrontCommand :=
  ⟨fun c d rest => step_cons d c rest, step_nil⟩

end Sys2Proof.Machine
end

section
/-!
Proofs for the anatomy of the package (01_package_anatomy.md): the map of logical tiles (R16, R17).
-/
namespace Sys2Proof.Machine

/-! A_TILEMAP (R16, R17). -/

theorem allDistinct_iff (l : List Nat) : allDistinct l = true ↔ l.Nodup := by
  induction l with
  | nil => simp [allDistinct]
  | cons x t ih => simp [allDistinct, ih]

/-- A mapping that R17 rejects: two logical indices on one physical tile, or a reserved code. -/
def BadMap (v : Word) : Prop :=
  (∃ l k, l < k ∧ k < 8 ∧ wbits v (4 * l) 4 = wbits v (4 * k) 4 ∧ wbits v (4 * l) 4 ≠ 0xF) ∨
    ∃ l, l < 8 ∧ 9 ≤ wbits v (4 * l) 4 ∧ wbits v (4 * l) 4 ≤ 14

theorem mapEntries_noReserved_iff (v : Word) :
    (mapEntries v).all (fun p => decide (p ≤ 8) || p == 0xF) = true ↔
      ¬ ∃ l, l < 8 ∧ 9 ≤ wbits v (4 * l) 4 ∧ wbits v (4 * l) 4 ≤ 14 := by
  have hcode (l : Nat) : wbits v (4 * l) 4 < 16 := wbits_lt v (4 * l) 4
  simp only [mapEntries, upto, List.all_map, List.all_eq_true, List.mem_range, Function.comp, Bool.or_eq_true, decide_eq_true_eq,
    beq_iff_eq, not_exists]
  refine forall_congr' fun l => ?_
  have := hcode l
  omega

theorem mapEntries_distinct_iff (v : Word) :
    allDistinct ((mapEntries v).filter (· != 0xF)) = true ↔
      ¬ ∃ l k, l < k ∧ k < 8 ∧ wbits v (4 * l) 4 = wbits v (4 * k) 4 ∧ wbits v (4 * l) 4 ≠ 0xF := by
  rw [allDistinct_iff, List.Nodup, List.pairwise_filter, mapEntries, List.pairwise_map, List.pairwise_iff_getElem]
  simp only [upto, List.length_range, List.getElem_range, bne_iff_ne]
  constructor
  · rintro h ⟨l, k, hlk, hk, heq, hne⟩
    exact h l k (by omega) hk hlk hne (heq ▸ hne) heq
  · intro h l k _ hk hlk hne _ heq
    exact h ⟨l, k, hlk, hk, heq, hne⟩

theorem tilemapOk_iff (v : Word) : tilemapOk v = true ↔ ¬ BadMap v := by
  rw [tilemapOk, Bool.and_eq_true, mapEntries_noReserved_iff, mapEntries_distinct_iff, BadMap, not_or, And.comm]

/-- Two fields side by side, each taken from one word, are one field taken from it. -/
theorem wput_wput_adjacent {w v : Word} {k n : Nat} (h : k + n ≤ 64) :
    wput (wput w 0 k (wbits v 0 k)) k n (wbits v k n) = wput w 0 (k + n) (wbits v 0 (k + n)) := by
  apply BitVec.eq_of_toNat_eq
  rw [wput_toNat h, wput_toNat (by omega), wput_toNat (by omega)]
  apply Nat.eq_of_testBit_eq; intro i
  simp only [testBit_putBits, wbits, testBit_bits]
  by_cases hk : i < k
  · have hlow : ¬ (k ≤ i ∧ i < k + n) := by omega
    have hin : 0 ≤ i ∧ i < 0 + k := by omega
    have hall : 0 ≤ i ∧ i < 0 + (k + n) := by omega
    have hoff : i - 0 < k := by omega
    have hoff' : i - 0 < k + n := by omega
    rw [if_neg hlow, if_pos hin, if_pos hall, decide_eq_true hoff, decide_eq_true hoff']
  · by_cases hn : i < k + n
    · have hin : k ≤ i ∧ i < k + n := by omega
      have hall : 0 ≤ i ∧ i < 0 + (k + n) := by omega
      have hoff : i - k < n := by omega
      have hoff' : i - 0 < k + n := by omega
      have hpos : k + (i - k) = 0 + (i - 0) := by omega
      rw [if_pos hin, if_pos hall, decide_eq_true hoff, decide_eq_true hoff', hpos]
    · have hout : ¬ (k ≤ i ∧ i < k + n) := by omega
      have hlow : ¬ (0 ≤ i ∧ i < 0 + k) := by omega
      have hall : ¬ (0 ≤ i ∧ i < 0 + (k + n)) := by omega
      rw [if_neg hout, if_neg hlow, if_neg hall]

/-- The fields of a map of `n` logical tiles. -/
def mapFields (n : Nat) : List Fld := (upto n).map fun i => ⟨4 * i, 4, .rw, i⟩

/-- The entries of a map, written one by one by a privileged agent, take the whole map. -/
theorem foldl_putField_mapFields {locked : Bool} {js : JobSet} {c v : Word} {n : Nat} (h : n ≤ 16) :
    (mapFields n).foldl (putField true locked js c v) (c, false) = (wput c 0 (4 * n) (wbits v 0 (4 * n)), false) := by
  induction n with
  | zero =>
    have hnone : wbits v 0 0 = wbits c 0 0 := (Nat.mod_one _).trans (Nat.mod_one _).symm
    have hkeep : wput c 0 0 (wbits v 0 0) = c := by rw [hnone, wput_wbits_self (by decide)]
    exact Prod.ext hkeep.symm rfl
  | succ n ih =>
    have hsucc : mapFields (n + 1) = mapFields n ++ [⟨4 * n, 4, .rw, n⟩] := by
      simp only [mapFields, upto, List.range_succ, List.map_append, List.map_cons, List.map_nil]
    rw [hsucc, List.foldl_append, ih (by omega)]
    exact Prod.ext (wput_wput_adjacent (k := 4 * n) (n := 4) (by omega)) rfl

theorem regFields_tileMap {a : Nat} (ha : a < 8) : regFields (aTileMap a) = some (mapFields 8) := by
  revert a; decide

theorem plainWrite_tileMap {a : Nat} (ha : a < 8) (v : Word) {by' : Agent} (hj : by' ≠ .job) (d : Dev) :
    (plainWrite (aTileMap a) v by' d).2 = setF d (aTileMap a) 0 32 (wbits v 0 32) := by
  have hpriv : (by' != .job) = true := by simp [hj]
  rw [plainWrite_of_regFields (regFields_tileMap ha), hpriv, wordWrite_eq_foldl, foldl_putField_mapFields (by decide)]
  rfl

theorem exec_tilemapWrite (a : Nat) (v : Word) (by' : Agent) (s : State) :
    exec (.tilemapWrite a v by') s = onDev s (tilemapWrite a v by') := rfl

section
variable {a : Nat} {v : Word} {by' : Agent} {d : Dev}

theorem tilemapWrite_present (ha : a < 8) (hj : by' ≠ .job) (hp : d.phase ≠ .off) :
    tilemapWrite a v by' d = if tilemapOk v then setF d (aTileMap a) 0 32 (wbits v 0 32) else setB d (aTileStat a) 18 true := by
  have hno : ¬ (8 ≤ a ∨ (by' == .job) = true ∨ d.phase = .off) := by simp [ha, hj, hp]
  rw [tilemapWrite, if_neg hno, plainWrite_tileMap ha v hj]

theorem tilemapWrite_bad (ha : a < 8) (hj : by' ≠ .job) (hp : d.phase ≠ .off) (hbad : BadMap v) :
    tilemapWrite a v by' d = setB d (aTileStat a) 18 true := by
  rw [tilemapWrite_present ha hj hp, if_neg fun hok => (tilemapOk_iff v).mp hok hbad]

theorem tilemapWrite_good (ha : a < 8) (hj : by' ≠ .job) (hp : d.phase ≠ .off) (hgood : ¬ BadMap v) :
    tilemapWrite a v by' d = setF d (aTileMap a) 0 32 (wbits v 0 32) := by
  rw [tilemapWrite_present ha hj hp, if_pos ((tilemapOk_iff v).mpr hgood)]
end

/-- Settles O6: a mapping that R17 rejects sets map_err alone, any other is held in A_TILEMAP alone. -/
theorem tilemapWrites : Obligations.TilemapWrites := by
  intro s a v by' hs hon ha hj
  refine ⟨fun hbad => ?_, fun hgood => ?_⟩
  · have hw := tilemapWrite_bad ha hj hon hbad
    rw [exec_tilemapWrite, onDev_next (by rw [hw]; exact formed_setB hs), hw]
  · have hw := tilemapWrite_good ha hj hon hgood
    rw [exec_tilemapWrite, onDev_next (by rw [hw]; exact formed_setF hs), hw]

end Sys2Proof.Machine
end

section
/-!
Proofs for what a fault records and does (01_package_anatomy.md R25 to R29, 14_faults_and_tether_mode.md R383 to R387, R405).
-/
namespace Sys2Proof.Machine

/-! Lists that rise, fields, and tables read where they are not at rest. -/

theorem mem_insUp {x y : Nat} {l : List Nat} : y ∈ insUp x l ↔ y = x ∨ y ∈ l := by
  induction l with
  | nil => simp [insUp]
  | cons z t ih =>
    unfold insUp
    split
    · exact List.mem_cons
    · split
      · next hz => simp [hz]
      · simp only [List.mem_cons, ih]; exact or_left_comm

theorem bits_putBits_same (w lo n v : Nat) : bits (putBits w lo n v) lo n = v % 2 ^ n := by
  apply Nat.eq_of_testBit_eq; intro i
  rw [testBit_bits, testBit_putBits, Nat.testBit_mod_two_pow]
  by_cases hi : i < n <;> simp [hi]

theorem mem_of_tabGet_ne {α : Type} {r : Nat → α} {t : Tab α} {k : Nat} (h : tabGet r t k ≠ r k) : (k, tabGet r t k) ∈ t := by
  induction t with
  | nil => exact absurd rfl h
  | cons e t ih =>
    obtain ⟨a, v⟩ := e
    unfold tabGet at h ⊢
    split
    · next hk => rw [hk]; exact List.mem_cons_self
    · next hk => rw [if_neg hk] at h; exact List.mem_cons_of_mem _ (ih h)

theorem rb_of_rg {d e : Dev} {o : Nat} (h : rg e o = rg d o) (i : Nat) : rb e o i = rb d o i := by rw [rb, h, rb]

theorem rf_of_rg {d e : Dev} {o : Nat} (h : rg e o = rg d o) (lo n : Nat) : rf e o lo n = rf d o lo n := by rw [rf, h, rf]

theorem rg_setB_other {d : Dev} {o p i : Nat} {b : Bool} (h : p ≠ o) : rg (setB d o i b) p = rg d p := rg_setReg_other _ h

/-! The record of a fault (R383, R384). -/

/-- The device with a fault in the fields of M_FAULTSTAT, counted once more. -/
def faultStat (cls unit sub : Nat) (contained : Bool) (d : Dev) : Dev :=
  addSat (setB (setB (setF (setF (setF d mFaultStat 0 4 cls) mFaultStat 8 8 unit) mFaultStat 16 8 sub) mFaultStat 24 contained)
    mFaultStat 25 true) mFaultStat 26 16 1

section
variable (cls unit sub : Nat) (contained : Bool) (d : Dev)

theorem faultRec_eq : faultRec cls unit sub contained d =
    ledger 0x08 unit (bytesOf 1 cls ++ bytesOf 1 unit ++ bytesOf 1 sub)
      (raise (rf (faultStat cls unit sub contained d) mFaultStat 42 10) (faultStat cls unit sub contained d)) := rfl

/-- Of the device a record of the ledger changes bytes of flash and the ledger's count. -/
theorem ledger_only (kind subject : Nat) (data : List Byte) :
    ledger kind subject data d =
      { d with flash := (ledger kind subject data d).flash, led := (ledger kind subject data d).led } := by
  simp only [ledger, flashPut]

theorem raise_only (n : Nat) : raise n d = { d with plic := (raise n d).plic } := by
  unfold raise; split <;> rfl

theorem faultStat_only : faultStat cls unit sub contained d = { d with regs := (faultStat cls unit sub contained d).regs } :=
  ((((((OnlyRegs.refl d).setF ..).setF ..).setF ..).setB ..).setB ..).setF ..

/-- Of the device a fault record changes registers, raised interrupts, flash and the ledger's count. -/
theorem faultRec_only : faultRec cls unit sub contained d =
    { d with regs := (faultStat cls unit sub contained d).regs, plic := (faultRec cls unit sub contained d).plic,
             flash := (faultRec cls unit sub contained d).flash, led := (faultRec cls unit sub contained d).led } := by
  rw [faultRec_eq, ledger_only, raise_only, faultStat_only]

@[simp] theorem faultRec_clk : (faultRec cls unit sub contained d).clk = d.clk := by rw [faultRec_only]
@[simp] theorem faultRec_flights : (faultRec cls unit sub contained d).flights = d.flights := by rw [faultRec_only]
@[simp] theorem faultRec_stackSt : (faultRec cls unit sub contained d).stackSt = d.stackSt := by rw [faultRec_only]
@[simp] theorem faultRec_harts : (faultRec cls unit sub contained d).harts = d.harts := by rw [faultRec_only]
@[simp] theorem faultRec_colls : (faultRec cls unit sub contained d).colls = d.colls := by rw [faultRec_only]
@[simp] theorem faultRec_plane : (faultRec cls unit sub contained d).plane = d.plane := by rw [faultRec_only]
@[simp] theorem faultRec_tetherReq : (faultRec cls unit sub contained d).tetherReq = d.tetherReq := by rw [faultRec_only]
theorem faultRec_regs : (faultRec cls unit sub contained d).regs = (faultStat cls unit sub contained d).regs := by
  rw [faultRec_only]

theorem faultRec_led_next : (faultRec cls unit sub contained d).led.next = (d.led.next + 1) % 2 ^ 32 := by
  rw [faultRec_eq, raise_only, faultStat_only]; simp only [ledger, flashPut]

theorem ledger_plic (kind subject : Nat) (data : List Byte) : (ledger kind subject data d).plic = d.plic := by rw [ledger_only]

theorem rg_faultStat_other {o : Nat} (ho : o ≠ mFaultStat) : rg (faultStat cls unit sub contained d) o = rg d o := by
  simp only [faultStat, addSat, setB, rg_setF_other ho]

theorem rg_faultRec_other {o : Nat} (ho : o ≠ mFaultStat) : rg (faultRec cls unit sub contained d) o = rg d o := by
  rw [rg_of_eq (faultRec_regs ..), rg_faultStat_other _ _ _ _ _ ho]

theorem rf_faultRec (lo n : Nat) :
    rf (faultRec cls unit sub contained d) mFaultStat lo n = rf (faultStat cls unit sub contained d) mFaultStat lo n :=
  rf_of_rg (rg_of_eq (faultRec_regs ..) _) lo n

theorem satTo_mod_eq_min (x : Nat) : satTo (2 ^ 16 - 1) (x + 1) % 2 ^ 16 = Nat.min 0xFFFF (x + 1) := by
  show _ = min 0xFFFF (x + 1)
  unfold satTo; split <;> omega

/-- The fields of M_FAULTSTAT after a fault (R383). -/
theorem rf_faultStat :
    rf (faultStat cls unit sub contained d) mFaultStat 0 4 = cls % 2 ^ 4 ∧
    rf (faultStat cls unit sub contained d) mFaultStat 8 8 = unit % 2 ^ 8 ∧
    rf (faultStat cls unit sub contained d) mFaultStat 16 8 = sub % 2 ^ 8 ∧
    rf (faultStat cls unit sub contained d) mFaultStat 24 1 = b2n contained ∧
    rf (faultStat cls unit sub contained d) mFaultStat 25 1 = 1 ∧
    rf (faultStat cls unit sub contained d) mFaultStat 26 16 = Nat.min 0xFFFF (rf d mFaultStat 26 16 + 1) ∧
    rf (faultStat cls unit sub contained d) mFaultStat 42 10 = rf d mFaultStat 42 10 := by
  simp (disch := omega) only [faultStat, addSat, setB, rf_setF_same, rf_setF_apart, satTo_mod_eq_min, Nat.pow_one, b2n_mod,
    true_and, and_true]
  rfl

theorem mem_plic_raise {n : Nat} (h : n ≠ 0) : n ∈ (raise n d).plic := by
  rw [raise, if_neg h]; exact mem_insUp.mpr (.inl rfl)

theorem faultRec_interrupt (h : rf d mFaultStat 42 10 ≠ 0) : rf d mFaultStat 42 10 ∈ (faultRec cls unit sub contained d).plic := by
  obtain ⟨-, -, -, -, -, -, hirq⟩ := rf_faultStat cls unit sub contained d
  rw [faultRec_eq, hirq, ledger_plic]
  exact mem_plic_raise _ h
end

theorem tabWf_flashPut {d : Dev} (h : tabWf flashRest d.flash = true) (a : Nat) (bs : List Byte) :
    tabWf flashRest (flashPut a bs d).flash = true :=
  List.foldlRecOn (motive := fun t => tabWf flashRest t = true) bs.zipIdx _ h fun _ ht _ _ => tabWf_tabSet ht

theorem formed_withFlash {d : Dev} (h : Formed d) {t : Tab Byte} (ht : tabWf flashRest t = true) (l : Ledger) :
    Formed { d with flash := t, led := l } :=
  { h with flash := ht }

theorem formed_ledger {d : Dev} (h : Formed d) (kind subject : Nat) (data : List Byte) : Formed (ledger kind subject data d) := by
  rw [ledger_only]
  refine formed_withFlash h ?_ _
  simp only [ledger]
  exact tabWf_flashPut h.flash _ _

section
variable {R M : Nat → Prop} {d e : Dev}

theorem Touches.ledger (h : Touches R M d e) {kind subject : Nat} {data : List Byte} :
    Touches R M d (ledger kind subject data e) :=
  h.trans ⟨formed_ledger h.formed _ _ _, fun o _ => rg_of_eq (by rw [ledger_only]) o, fun a _ => byteAt_of_eq (by rw [ledger_only]) a⟩

/-- A fault record touches M_FAULTSTAT alone of the registers, and no memory. -/
theorem Touches.faultRec (h : Touches R M d e) (hR : R mFaultStat) {cls unit sub : Nat} {contained : Bool} :
    Touches R M d (faultRec cls unit sub contained e) :=
  (((((((h.setF hR).setF hR).setF hR).setB hR).setB hR).addSat hR).raise).ledger
end

section
variable (c : Nat) (d : Dev)

/-- Of the device only the request for tether mode changes. -/
theorem tetherNext_only : tetherNext c d = { d with tetherReq := (tetherNext c d).tetherReq } := by
  unfold tetherNext; split
  · rfl
  · split <;> rfl

@[simp] theorem tetherNext_regs : (tetherNext c d).regs = d.regs := by rw [tetherNext_only]
@[simp] theorem tetherNext_plic : (tetherNext c d).plic = d.plic := by rw [tetherNext_only]
@[simp] theorem tetherNext_led : (tetherNext c d).led = d.led := by rw [tetherNext_only]
@[simp] theorem tetherNext_clk : (tetherNext c d).clk = d.clk := by rw [tetherNext_only]
theorem tabsOf_tetherNext : tabsOf (tetherNext c d) = tabsOf d := by rw [tetherNext_only]; rfl

theorem tetherNext_tetherReq {c : Nat} {d : Dev} (hreq : d.tetherReq = none) (ht : inTether d = false) :
    (tetherNext c d).tetherReq = some c := by
  simp only [tetherNext, hreq, ht, Bool.false_eq_true, if_false]
end

/-- From device `d` to device `e` one fault was recorded: its class, unit and subunit, whether it is contained, one more in the
count, its interrupt and its record in the ledger; an uncontained one asks for tether mode (R383, R384, R405). -/
structure FaultRecorded (cls unit sub : Nat) (contained : Bool) (d e : Dev) : Prop where
  cls_eq : rf e mFaultStat 0 4 = cls
  unit_eq : rf e mFaultStat 8 8 = unit
  sub_eq : rf e mFaultStat 16 8 = sub
  contained_eq : rb e mFaultStat 24 = contained
  valid : rb e mFaultStat 25 = true
  count : rf e mFaultStat 26 16 = Nat.min 0xFFFF (rf d mFaultStat 26 16 + 1)
  interrupt : rf d mFaultStat 42 10 ≠ 0 → rf d mFaultStat 42 10 ∈ e.plic
  ledgerNext : e.led.next = (d.led.next + 1) % 2 ^ 32
  tether : contained = false → e.tetherReq = some cls

section
variable {cls unit sub : Nat} {contained : Bool} {d e : Dev}

theorem faultRecorded_of_eq (hc : cls < 2 ^ 4) (hu : unit < 2 ^ 8) (hs : sub < 2 ^ 8)
    (hregs : e.regs = (faultRec cls unit sub contained d).regs) (hplic : e.plic = (faultRec cls unit sub contained d).plic)
    (hled : e.led = (faultRec cls unit sub contained d).led) (hreq : contained = false → e.tetherReq = some cls) :
    FaultRecorded cls unit sub contained d e := by
  obtain ⟨hcls, hunit, hsub, hcont, hvalid, hcount, -⟩ := rf_faultStat cls unit sub contained d
  have hfield (lo n : Nat) : rf e mFaultStat lo n = rf (faultStat cls unit sub contained d) mFaultStat lo n :=
    rf_of_rg (rg_of_eq (hregs.trans (faultRec_regs ..)) _) lo n
  exact
    { cls_eq := by rw [hfield, hcls, Nat.mod_eq_of_lt hc]
      unit_eq := by rw [hfield, hunit, Nat.mod_eq_of_lt hu]
      sub_eq := by rw [hfield, hsub, Nat.mod_eq_of_lt hs]
      contained_eq := by rw [rb_eq, hfield, hcont]; cases contained <;> rfl
      valid := by rw [rb_eq, hfield, hvalid]; rfl
      count := by rw [hfield, hcount]
      interrupt := by rw [hplic]; exact faultRec_interrupt cls unit sub contained d
      ledgerNext := by rw [hled, faultRec_led_next]
      tether := hreq }

theorem faultRecorded_faultRec (hc : cls < 2 ^ 4) (hu : unit < 2 ^ 8) (hs : sub < 2 ^ 8) :
    FaultRecorded cls unit sub true d (faultRec cls unit sub true d) :=
  faultRecorded_of_eq hc hu hs rfl rfl rfl nofun

theorem faultRecorded_uncontained (hc : cls < 2 ^ 4) (hu : unit < 2 ^ 8) (hreq : d.tetherReq = none) (ht : inTether d = false) :
    FaultRecorded cls unit 0xFF false d (uncontained cls unit d) := by
  have hin : inTether (faultRec cls unit 0xFF false d) = false := by
    rw [← ht]; exact rb_of_rg (rg_faultRec_other _ _ _ _ _ (by decide)) 0
  exact faultRecorded_of_eq hc hu (by decide) (tetherNext_regs ..) (tetherNext_plic ..) (tetherNext_led ..) fun _ =>
    tetherNext_tetherReq (by rw [faultRec_tetherReq, hreq]) hin

/-- A record made after changes to other registers and fields is a record of the device before them. -/
theorem FaultRecorded.after {d' : Dev} (h : FaultRecorded cls unit sub contained d' e) (hreg : rg d' mFaultStat = rg d mFaultStat)
    (hled : d'.led = d.led) : FaultRecorded cls unit sub contained d e :=
  { cls_eq := h.cls_eq
    unit_eq := h.unit_eq
    sub_eq := h.sub_eq
    contained_eq := h.contained_eq
    valid := h.valid
    count := by rw [h.count, rf_of_rg hreg]
    interrupt := by rw [← rf_of_rg hreg]; exact h.interrupt
    ledgerNext := by rw [h.ledgerNext, hled]
    tether := h.tether }
end

/-! Commands that record a fault. -/

/-- Command `c` records a fault, leaves a device of which `P` holds, and changes no register outside `R` but M_FAULTSTAT, and no
memory. -/
def Records (s : State) (c : Instr) (cls unit sub : Nat) (contained : Bool) (P : Dev → Prop) (R : Nat → Prop) : Prop :=
  ∃ t, exec c s = .next t ∧ t.pending = s.pending ∧ rf t.dev mFaultStat 0 4 = cls ∧ rf t.dev mFaultStat 8 8 = unit ∧
    rf t.dev mFaultStat 16 8 = sub ∧ rb t.dev mFaultStat 24 = contained ∧ rb t.dev mFaultStat 25 = true ∧
    rf t.dev mFaultStat 26 16 = Nat.min 0xFFFF (rf s.dev mFaultStat 26 16 + 1) ∧
    (rf s.dev mFaultStat 42 10 ≠ 0 → rf s.dev mFaultStat 42 10 ∈ t.dev.plic) ∧
    t.dev.led.next = (s.dev.led.next + 1) % 2 ^ 32 ∧ (contained = false → t.dev.tetherReq = some cls) ∧ P t.dev ∧
    RegsKept (fun o => o = mFaultStat ∨ R o) s.dev t.dev ∧ MemKept (fun _ => False) s.dev t.dev

/-- No byte of memory. -/
abbrev noBytes : Nat → Prop := fun _ => False

section
variable {s : State} {c : Instr} {f : Dev → Dev} {e : Dev}

theorem exec_next (hx : exec c s = onDev s f) (he : f s.dev = e) (hformed : Formed e) : exec c s = .next (s.on e) := by
  rw [hx, onDev_next (by rw [he]; exact hformed), he]

theorem records_of_effect {cls unit sub : Nat} {contained : Bool} {P : Dev → Prop} {R : Nat → Prop} (hx : exec c s = onDev s f)
    (he : f s.dev = e) (hr : FaultRecorded cls unit sub contained s.dev e)
    (ht : Touches (fun o => o = mFaultStat ∨ R o) noBytes s.dev e) (hP : P e) : Records s c cls unit sub contained P R :=
  ⟨s.on e, exec_next hx he ht.formed, rfl, hr.cls_eq, hr.unit_eq, hr.sub_eq, hr.contained_eq, hr.valid, hr.count, hr.interrupt,
    hr.ledgerNext, hr.tether, hP, ht.regs, ht.mem⟩
end

theorem Touches.uncontained {R M : Nat → Prop} {d e : Dev} (h : Touches R M d e) (hR : R mFaultStat) {cls unit : Nat} :
    Touches R M d (uncontained cls unit e) :=
  (h.faultRec hR).of_tabs (tabsOf_tetherNext ..)

theorem rg_uncontained_other {cls unit o : Nat} {d : Dev} (ho : o ≠ mFaultStat) : rg (uncontained cls unit d) o = rg d o :=
  (rg_of_eq (tetherNext_regs ..) o).trans (rg_faultRec_other _ _ _ _ _ ho)

/-! Tiles (R387). -/

theorem abandonColls_of_none {d : Dev} (h : d.colls.insts = []) (t : Nat) : abandonColls t d = d := by
  rw [abandonColls, h]; rfl

theorem foldl_dropOwn_only (l : List Flight) (d : Dev) :
    l.foldl (fun d f => dropOwn f d) d = { d with fab := (l.foldl (fun d f => dropOwn f d) d).fab } := by
  induction l generalizing d with
  | nil => rfl
  | cons f t ih => rw [List.foldl_cons, ih]; rfl

/-- A command that a fence of tile `t` ends. -/
def endedByFence (t : Nat) (f : Flight) : Bool := qTile f.q == t && !survivesFence f

theorem endedByFence_iff {t : Nat} {f : Flight} : endedByFence t f = true ↔ qTile f.q = t ∧ survivesFence f = false := by
  rw [endedByFence, Bool.and_eq_true, beq_iff_eq, Bool.not_eq_true']

/-- Tile `t` fenced: its commands that do not complete leave, with what they asked of other packages. -/
def fenceTile (t : Nat) (d : Dev) : Dev :=
  let e := (d.flights.filter (endedByFence t)).foldl (fun d f => dropOwn f d) d
  { e with flights := e.flights.filter fun f => !endedByFence t f, fenced := insUp t e.fenced }

theorem fenceTile_only (t : Nat) (d : Dev) : fenceTile t d =
    { d with fab := (fenceTile t d).fab, flights := d.flights.filter fun f => !endedByFence t f, fenced := insUp t d.fenced } := by
  unfold fenceTile
  dsimp only
  rw [foldl_dropOwn_only]

section
variable {a l : Nat} {d : Dev}

theorem tileFault_eq (ha : a < 8) (hl : l < 8) (hgone : tileGone d (8 * a + l) = false) (hrun : running d = true)
    (hcolls : d.colls.insts = []) : tileFault a l d = fenceTile (8 * a + l) (faultRec 5 (8 * a + l) (physTile d (8 * a + l)) true
      (setB d (aTileStat a) (9 + physTile d (8 * a + l)) true)) := by
  have hno : ¬ (8 ≤ a ∨ 8 ≤ l ∨ tileGone d (8 * a + l) = true ∨ (!running d) = true) := by
    simp only [hgone, hrun, Bool.not_true, Bool.false_eq_true, or_false]; omega
  have hcolls' : (faultRec 5 (8 * a + l) (physTile d (8 * a + l)) true
      (setB d (aTileStat a) (9 + physTile d (8 * a + l)) true)).colls.insts = [] := by
    rw [faultRec_colls]; exact hcolls
  simp only [tileFault]
  rw [if_neg hno, abandonColls_of_none hcolls']
  rfl

theorem tabsOf_fenceTile (t : Nat) (d : Dev) : tabsOf (fenceTile t d) = tabsOf d := by
  rw [fenceTile_only]; rfl

theorem rg_fenceTile (t : Nat) (d : Dev) (o : Nat) : rg (fenceTile t d) o = rg d o := rg_of_eq (by rw [fenceTile_only]) o

theorem tileGone_fenceTile (t : Nat) (d : Dev) : tileGone (fenceTile t d) t = true := by
  rw [fenceTile_only]
  simp [tileGone, mem_insUp]

theorem mem_flights_fenceTile {t : Nat} {d : Dev} {f : Flight} :
    f ∈ (fenceTile t d).flights ↔ f ∈ d.flights ∧ ¬ (qTile f.q = t ∧ survivesFence f = false) := by
  rw [fenceTile_only]
  simp only [List.mem_filter, Bool.not_eq_true', ← endedByFence_iff, Bool.not_eq_true]

theorem aTileStat_ne_faultStat (a : Nat) : aTileStat a ≠ mFaultStat := by
  unfold aTileStat aBlk mFaultStat; omega
end

section
variable {s : State}

theorem tileFault_records (hs : Formed s.dev) (hrun : running s.dev = true) (hcolls : s.dev.colls.insts = []) {a l : Nat}
    (ha : a < 8) (hl : l < 8) (hgone : tileGone s.dev (8 * a + l) = false) :
    Records s (.tileFault a l) 5 (8 * a + l) (physTile s.dev (8 * a + l)) true (fun d => tileGone d (8 * a + l) = true ∧
      rb d (aTileStat a) (9 + physTile s.dev (8 * a + l)) = true ∧
      ∀ f, f ∈ d.flights ↔ f ∈ s.dev.flights ∧ ¬ (qTile f.q = 8 * a + l ∧ survivesFence f = false)) (· = aTileStat a) := by
  have hne := aTileStat_ne_faultStat a
  have hph : physTile s.dev (8 * a + l) < 16 := wbits_lt _ _ 4
  have he := tileFault_eq ha hl hgone hrun hcolls
  generalize physTile s.dev (8 * a + l) = ph at hph he ⊢
  generalize hm : setB s.dev (aTileStat a) (9 + ph) true = m at he
  have hrec : FaultRecorded 5 (8 * a + l) ph true m (fenceTile (8 * a + l) (faultRec 5 (8 * a + l) ph true m)) := by
    refine faultRecorded_of_eq (by decide) (by omega) (by omega) ?_ ?_ ?_ nofun <;> rw [fenceTile_only]
  have htouch : Touches (fun o => o = mFaultStat ∨ o = aTileStat a) noBytes s.dev (faultRec 5 (8 * a + l) ph true m) := by
    rw [← hm]; exact ((Touches.refl hs).setB (Or.inr rfl)).faultRec (Or.inl rfl)
  refine records_of_effect rfl he (hrec.after ?_ ?_) (htouch.of_tabs (tabsOf_fenceTile ..)) ⟨tileGone_fenceTile _ _, ?_, fun f => ?_⟩
  · rw [← hm]; exact rg_setB_other hne.symm
  · rw [← hm]; rfl
  · rw [rb_of_rg (rg_fenceTile ..), rb_of_rg (rg_faultRec_other _ _ _ _ _ hne), ← hm, rb_setB_same (by omega)]
  · rw [mem_flights_fenceTile, faultRec_flights, ← hm]; rfl

/-! Pseudo-channels (R386). -/

theorem pcState_setPc (st pc v : Nat) (d : Dev) : pcState (setPc st pc v d) st pc = v := by
  rw [pcState, setPc, stackAt_modStack, if_pos rfl]
  exact tabGet_tabSet.trans (if_pos rfl)

theorem pcState_of_stackSt {d e : Dev} (h : e.stackSt = d.stackSt) (st pc : Nat) : pcState e st pc = pcState d st pc := by
  rw [pcState, stackAt, h, pcState, stackAt]

theorem retraining_of_stackSt {d e : Dev} (h : e.stackSt = d.stackSt) : retraining e = retraining d := by
  rw [retraining, h, retraining]

theorem retraining_of_pcState {d : Dev} {st pc : Nat} (h : pcState d st pc = 1) : retraining d = true := by
  have hpc : (pc, 1) ∈ (stackAt d st).pcs := by
    rw [← h]; exact mem_of_tabGet_ne (r := fun _ => 0) (by rw [← pcState, h]; decide)
  have hst : (st, stackAt d st) ∈ d.stackSt := by
    refine mem_of_tabGet_ne fun hrest => ?_
    rw [stackAt, hrest] at hpc
    cases hpc
  exact List.any_eq_true.mpr ⟨_, hst, List.any_eq_true.mpr ⟨_, hpc, rfl⟩⟩

theorem Touches.setPc {R M : Nat → Prop} {d e : Dev} (h : Touches R M d e) {st pc v : Nat} : Touches R M d (setPc st pc v e) :=
  h.modStack

theorem pseudoChannelFault_records (hs : Formed s.dev) (hrun : running s.dev = true) {st pc : Nat} (hst : st < 16) (hpc : pc < 32)
    (hin : retired s.dev st = false) (hon : (stackAt s.dev st).parked = false) (hgood : pcState s.dev st pc = 0) :
    Records s (.pseudoChannelFault st pc) 4 st pc true (fun d => pcState d st pc = 1 ∧ retraining d = true) (fun _ => False) := by
  have he : pcFault st pc s.dev = faultRec 4 st pc true (setPc st pc 1 s.dev) :=
    if_neg (by
      simp only [hin, hon, hgood, hrun, Bool.not_true, Bool.false_eq_true, ne_eq, not_true_eq_false, or_false]; omega)
  have hset := pcState_setPc st pc 1 s.dev
  refine records_of_effect rfl he ((faultRecorded_faultRec (by decide) (by omega) (by omega)).after rfl rfl)
    ((Touches.refl hs).setPc.faultRec (Or.inl rfl)) ⟨?_, ?_⟩
  · rw [pcState_of_stackSt (faultRec_stackSt ..), hset]
  · rw [retraining_of_stackSt (faultRec_stackSt ..), retraining_of_pcState hset]

theorem pseudoChannelRetrainDone_good (hs : Formed s.dev) {st pc : Nat} (hst : st < 16) (h : pcState s.dev st pc = 1) :
    ∃ t, exec (.pseudoChannelRetrainDone st pc true) s = .next t ∧ t.pending = s.pending ∧ pcState t.dev st pc = 0 ∧
      RegsKept (fun _ => False) s.dev t.dev ∧ MemKept (fun _ => False) s.dev t.dev := by
  have he : pcRetrainDone st pc true s.dev = note 28 0xFFFF 1 (setPc st pc 0 s.dev) :=
    if_neg (by rw [h]; omega)
  have htouch : Touches (fun _ => False) noBytes s.dev (note 28 0xFFFF 1 (setPc st pc 0 s.dev)) :=
    (Touches.refl hs).setPc.of_tabs rfl
  exact ⟨_, exec_next rfl he htouch.formed, rfl, pcState_setPc st pc 0 s.dev, htouch.regs, htouch.mem⟩

theorem pseudoChannelRetrainDone_failed (hs : Formed s.dev) {st pc : Nat} (hst : st < 16) (h : pcState s.dev st pc = 1) :
    ∃ t, exec (.pseudoChannelRetrainDone st pc false) s = .next t ∧ t.pending = s.pending ∧ pcState t.dev st pc = 2 ∧
      RegsKept (fun _ => False) s.dev t.dev ∧ MemKept (fun _ => False) s.dev t.dev := by
  have he : pcRetrainDone st pc false s.dev = setPc st pc 2 s.dev :=
    if_neg (by rw [h]; omega)
  have htouch : Touches (fun _ => False) noBytes s.dev (setPc st pc 2 s.dev) := (Touches.refl hs).setPc
  exact ⟨_, exec_next rfl he htouch.formed, rfl, pcState_setPc st pc 2 s.dev, htouch.regs, htouch.mem⟩

/-! Cores (R231), the switch (R385) and the far tier (R284, R285). -/

/-- Core `k` taken offline: what it waits for is dropped. -/
def stopCore (k : Nat) (d : Dev) : Dev :=
  modHart k (fun t => { t with pend := none, resv := none }) (dropAsks (fun a => a.q == hartQ k) (setB d pCoreStat (32 + k) true))

theorem coreFault_eq {k : Nat} {d : Dev} (hk : k < 32) (hon : rb d pCoreStat k = true) (hgood : rb d pCoreStat (32 + k) = false) :
    coreFault k d = faultRec 6 k 0xFF true (stopCore k d) := by
  have hno : ¬ (32 ≤ k ∨ (!rb d pCoreStat k) = true ∨ rb d pCoreStat (32 + k) = true) := by
    simp only [hon, hgood, Bool.not_true, Bool.false_eq_true, or_false]; omega
  simp only [coreFault]
  rw [if_neg hno]
  rfl

theorem rg_stopCore (k : Nat) (d : Dev) (o : Nat) : rg (stopCore k d) o = rg (setB d pCoreStat (32 + k) true) o := rfl

theorem stopCore_led (k : Nat) (d : Dev) : (stopCore k d).led = d.led := rfl

theorem pend_stopCore (k : Nat) (d : Dev) : (hartAt (stopCore k d) k).pend = none := by
  rw [stopCore, hartAt_modHart, if_pos rfl]

theorem Touches.stopCore {R M : Nat → Prop} {d e : Dev} (h : Touches R M d e) (hR : R pCoreStat) {k : Nat} :
    Touches R M d (stopCore k e) := by
  have hdrop : Touches R M d (dropAsks (fun a => a.q == hartQ k) (Machine.setB e pCoreStat (32 + k) true)) :=
    (h.setB hR).of_tabs rfl
  exact hdrop.modHart

theorem coreFault_records (hs : Formed s.dev) {k : Nat} (hk : k < 32) (hon : rb s.dev pCoreStat k = true)
    (hgood : rb s.dev pCoreStat (32 + k) = false) : Records s (.coreFault k) 6 k 0xFF true
      (fun d => rb d pCoreStat (32 + k) = true ∧ (hartAt d k).pend = none ∧ hartFree d k = false) (· = pCoreStat) := by
  have hstopped : rb (faultRec 6 k 0xFF true (stopCore k s.dev)) pCoreStat (32 + k) = true := by
    rw [rb_of_rg (rg_faultRec_other _ _ _ _ _ (by decide)), rb_of_rg (rg_stopCore ..), rb_setB_same (by omega)]
  refine records_of_effect rfl (coreFault_eq hk hon hgood)
    ((faultRecorded_faultRec (by decide) (by omega) (by decide)).after ?_ (stopCore_led ..))
    (((Touches.refl hs).stopCore (Or.inr rfl)).faultRec (Or.inl rfl)) ⟨hstopped, ?_, ?_⟩
  · rw [rg_stopCore, rg_setB_other (by decide)]
  · rw [hartAt, faultRec_harts, ← hartAt, pend_stopCore]
  · simp [hartFree, hstopped]

/-- The inputs of the switch on its other plane. -/
def movePlane (d : Dev) : Dev := { d with plane := 1 - d.plane, planeBad := true }

theorem movePlane_regs (d : Dev) : (movePlane d).regs = d.regs := rfl
theorem movePlane_plic (d : Dev) : (movePlane d).plic = d.plic := rfl
theorem movePlane_led (d : Dev) : (movePlane d).led = d.led := rfl
theorem movePlane_plane (d : Dev) : (movePlane d).plane = 1 - d.plane := rfl
theorem movePlane_planeBad (d : Dev) : (movePlane d).planeBad = true := rfl
theorem tabsOf_movePlane (d : Dev) : tabsOf (movePlane d) = tabsOf d := rfl

theorem switchPlaneFault_eq {d : Dev} (hrun : running d = true) :
    switchPlaneFault d = if d.planeBad then uncontained 3 d.plane d else movePlane (faultRec 3 d.plane 0xFF true d) := by
  have hphase : ¬ (d.phase != .running) = true := by simpa [running] using hrun
  simp only [switchPlaneFault, movePlane, faultRec_plane]
  rw [if_neg hphase]
  rfl

theorem switchPlaneFault_first_records (hs : Formed s.dev) (hrun : running s.dev = true) (hgood : s.dev.planeBad = false)
    (hplane : s.dev.plane < 2) : Records s .switchPlaneFault 3 s.dev.plane 0xFF true
      (fun d => d.plane = 1 - s.dev.plane ∧ d.planeBad = true) (fun _ => False) := by
  have he : switchPlaneFault s.dev = movePlane (faultRec 3 s.dev.plane 0xFF true s.dev) := by
    rw [switchPlaneFault_eq hrun, hgood]; rfl
  refine records_of_effect rfl he
    (faultRecorded_of_eq (by decide) (by omega) (by decide) (movePlane_regs _) (movePlane_plic _) (movePlane_led _) nofun)
    (((Touches.refl hs).faultRec (Or.inl rfl)).of_tabs (tabsOf_movePlane _)) ⟨?_, movePlane_planeBad _⟩
  rw [movePlane_plane, faultRec_plane]

theorem switchPlaneFault_second_records (hs : Formed s.dev) (hrun : running s.dev = true) (hreq : s.dev.tetherReq = none)
    (ht : inTether s.dev = false) (hbad : s.dev.planeBad = true) (hplane : s.dev.plane < 2) :
    Records s .switchPlaneFault 3 s.dev.plane 0xFF false (fun _ => True) (fun _ => False) := by
  have he : switchPlaneFault s.dev = uncontained 3 s.dev.plane s.dev := by rw [switchPlaneFault_eq hrun, hbad]; rfl
  exact records_of_effect rfl he (faultRecorded_uncontained (by decide) (by omega) hreq ht)
    ((Touches.refl hs).uncontained (Or.inl rfl)) trivial

/-- Far port `i` marked failed. -/
def failPort (i : Nat) (d : Dev) : Dev :=
  { (setB (setB d mFarStat i false) mFarStat (4 + i) true) with farLost := insUp i d.farLost }

theorem rg_failPort (i : Nat) (d : Dev) (o : Nat) :
    rg (failPort i d) o = rg (setB (setB d mFarStat i false) mFarStat (4 + i) true) o := rfl

theorem failPort_led (i : Nat) (d : Dev) : (failPort i d).led = d.led := rfl

theorem Touches.failPort {R M : Nat → Prop} {d e : Dev} (h : Touches R M d e) (hR : R mFarStat) {i : Nat} :
    Touches R M d (failPort i e) :=
  ((h.setB hR).setB hR).of_tabs rfl

theorem farTierPortFail_records (hs : Formed s.dev) {i : Nat} (hi : i < 4) (hup : rb s.dev mFarStat i = true) :
    Records s (.farTierPortFail i) 7 i 0xFF true (fun d => rb d mFarStat i = false ∧ rb d mFarStat (4 + i) = true)
      (· = mFarStat) := by
  have hno : ¬ (4 ≤ i ∨ (!rb s.dev mFarStat i) = true) := by
    simp only [hup, Bool.not_true, Bool.false_eq_true, or_false]; omega
  have he : farFail i s.dev = faultRec 7 i 0xFF true (failPort i s.dev) := by rw [farFail, if_neg hno]; rfl
  have hstat (j : Nat) : rb (faultRec 7 i 0xFF true (failPort i s.dev)) mFarStat j =
      rb (setB (setB s.dev mFarStat i false) mFarStat (4 + i) true) mFarStat j := by
    rw [rb_of_rg (rg_faultRec_other _ _ _ _ _ (by decide)), rb_of_rg (rg_failPort ..)]
  refine records_of_effect rfl he ((faultRecorded_faultRec (by decide) (by omega) (by decide)).after ?_ (failPort_led ..))
    (((Touches.refl hs).failPort (Or.inr rfl)).faultRec (Or.inl rfl)) ⟨?_, ?_⟩
  · rw [rg_failPort, rg_setB_other (by decide), rg_setB_other (by decide)]
  · rw [hstat, setB, rb_setF_apart (by omega) (by omega), rb_setB_same (by omega)]
  · rw [hstat, rb_setB_same (by omega)]

/-- Far port `i` up, with a device of `cap` GiB. -/
def upPort (i cap : Nat) (d : Dev) : Dev :=
  { (setF (setB d mFarStat i true) mFarStat (8 + 12 * i) 12 cap) with farLost := d.farLost.filter (· != i) }

theorem rg_upPort (i cap : Nat) (d : Dev) (o : Nat) :
    rg (upPort i cap d) o = rg (setF (setB d mFarStat i true) mFarStat (8 + 12 * i) 12 cap) o := rfl

theorem Touches.upPort {R M : Nat → Prop} {d e : Dev} (h : Touches R M d e) (hR : R mFarStat) {i cap : Nat} :
    Touches R M d (upPort i cap e) :=
  ((h.setB hR).setF hR).of_tabs rfl

theorem farTierPortUp_next (hs : Formed s.dev) (hrun : running s.dev = true) {i cap : Nat} (hi : i < 4) (hcap : cap < 4096) :
    ∃ t, exec (.farTierPortUp i cap) s = .next t ∧ t.pending = s.pending ∧ rb t.dev mFarStat i = true ∧
      rf t.dev mFarStat (8 + 12 * i) 12 = cap ∧ RegsKept (· = mFarStat) s.dev t.dev ∧ MemKept (fun _ => False) s.dev t.dev := by
  have hno : ¬ (4 ≤ i ∨ s.dev.phase = .off) := not_or.mpr ⟨by omega, running_phase hrun⟩
  have he : farUp i cap s.dev = upPort i cap s.dev := if_neg hno
  have htouch : Touches (· = mFarStat) noBytes s.dev (upPort i cap s.dev) :=
    (Touches.refl hs).upPort (R := (· = mFarStat)) rfl
  refine ⟨_, exec_next rfl he htouch.formed, rfl, ?_, ?_, htouch.regs, htouch.mem⟩
  · rw [rb_of_rg (rg_upPort ..), rb_setF_apart (by omega) (by omega), rb_setB_same (by omega)]
  · rw [rf_of_rg (rg_upPort ..), rf_setF_same (by omega), Nat.mod_eq_of_lt (by omega)]

/-! A-dies, references, the P-die and requests (R25, R26, R29, R405). -/

theorem aDieUncontainedFault_records (hs : Formed s.dev) (hrun : running s.dev = true) (hreq : s.dev.tetherReq = none)
    (ht : inTether s.dev = false) {a : Nat} (ha : a < 8) :
    Records s (.aDieUncontainedFault a) 0xC a 0xFF false (fun _ => True) (fun _ => False) :=
  records_of_effect (f := fun d => if a < 8 ∧ running d then uncontained 0xC a d else d) rfl (if_pos ⟨ha, hrun⟩)
    (faultRecorded_uncontained (by decide) (by omega) hreq ht) ((Touches.refl hs).uncontained (Or.inl rfl)) trivial

/-- Reference `i` lost: its bit in M_STATUS and in the Bridle's record. -/
def loseRef (i : Nat) (d : Dev) : Dev :=
  { (setB d mStatus i true) with bridle := { d.bridle with refsLost := putBits d.bridle.refsLost i 1 1 } }

theorem rg_loseRef (i : Nat) (d : Dev) (o : Nat) : rg (loseRef i d) o = rg (setB d mStatus i true) o := rfl
theorem loseRef_led (i : Nat) (d : Dev) : (loseRef i d).led = d.led := rfl
theorem loseRef_tetherReq (i : Nat) (d : Dev) : (loseRef i d).tetherReq = d.tetherReq := rfl

theorem Touches.loseRef {R M : Nat → Prop} {d e : Dev} (h : Touches R M d e) (hR : R mStatus) {i : Nat} :
    Touches R M d (loseRef i e) :=
  (h.setB hR).of_tabs rfl

theorem rg_loseRef_other (i : Nat) (d : Dev) {o : Nat} (ho : o ≠ mStatus) : rg (loseRef i d) o = rg d o := by
  rw [rg_loseRef, rg_setB_other ho]

theorem rb_loseRef {i : Nat} (hi : i < 64) (d : Dev) : rb (loseRef i d) mStatus i = true := by
  rw [rb_of_rg (rg_loseRef ..), rb_setB_same hi]

theorem clk100Lost_records (hs : Formed s.dev) (hrun : running s.dev = true) (hreq : s.dev.tetherReq = none)
    (ht : inTether s.dev = false) (hhad : bits s.dev.bridle.refsLost 0 1 = 0) :
    Records s .clk100Lost 0xA 0 0xFF false (fun d => rb d mStatus 0 = true) (· = mStatus) := by
  have hphase : ¬ (s.dev.phase == .off) = true := by simpa using running_phase hrun
  have he : clk100Lost s.dev = uncontained 0xA 0 (loseRef 0 s.dev) := by
    simp only [clk100Lost]
    rw [if_neg hphase, hhad, if_neg (by decide)]
    rfl
  have ht' : inTether (loseRef 0 s.dev) = false := by
    rw [← ht]; exact rb_of_rg (rg_loseRef_other 0 _ (by decide)) 0
  refine records_of_effect rfl he ((faultRecorded_uncontained (by decide) (by decide) ?_ ht').after ?_ (loseRef_led ..))
    (((Touches.refl hs).loseRef (Or.inr rfl)).uncontained (Or.inl rfl)) ?_
  · rw [loseRef_tetherReq, hreq]
  · rw [rg_loseRef_other _ _ (by decide)]
  · rw [rb_of_rg (rg_uncontained_other (by decide)), rb_loseRef (by decide)]

theorem clk156Lost_records (hs : Formed s.dev) (hrun : running s.dev = true) (hhad : bits s.dev.bridle.refsLost 1 1 = 0) :
    Records s .clk156Lost 0xA 1 0xFF true (fun d => rb d mStatus 1 = true) (· = mStatus) := by
  have hphase : ¬ (s.dev.phase == .off) = true := by simpa using running_phase hrun
  have he : clk156Lost s.dev = faultRec 0xA 1 0xFF true (loseRef 1 s.dev) := by
    simp only [clk156Lost]
    rw [if_neg hphase, hhad, if_neg (by decide)]
    rfl
  refine records_of_effect rfl he
    ((faultRecorded_faultRec (by decide) (by decide) (by decide)).after ?_ (loseRef_led ..))
    (((Touches.refl hs).loseRef (Or.inr rfl)).faultRec (Or.inl rfl)) ?_
  · rw [rg_loseRef_other _ _ (by decide)]
  · rw [rb_of_rg (rg_faultRec_other _ _ _ _ _ (by decide)), rb_loseRef (by decide)]

/-- Reference `i` back: the lost bits of M_STATUS stay (R26). -/
def regainRef (i : Nat) (d : Dev) : Dev := { d with bridle := { d.bridle with refsLost := putBits d.bridle.refsLost i 1 0 } }

theorem refsLost_regainRef (i : Nat) (d : Dev) : bits (regainRef i d).bridle.refsLost i 1 = 0 := bits_putBits_same _ _ 1 0

theorem Touches.regainRef {R M : Nat → Prop} {d e : Dev} (h : Touches R M d e) {i : Nat} : Touches R M d (regainRef i e) :=
  h.of_tabs rfl

theorem referenceClockReturn_next (hs : Formed s.dev) (c : Bool) : ∃ t, exec (.referenceClockReturn c) s = .next t ∧
    t.pending = s.pending ∧ bits t.dev.bridle.refsLost (if c then 1 else 0) 1 = 0 ∧
    RegsKept (fun _ => False) s.dev t.dev ∧ MemKept (fun _ => False) s.dev t.dev := by
  have htouch : Touches (fun _ => False) noBytes s.dev (regainRef (b2n c) s.dev) := (Touches.refl hs).regainRef
  exact ⟨_, exec_next (f := regainRef (b2n c)) rfl rfl htouch.formed, rfl, refsLost_regainRef (b2n c) s.dev, htouch.regs, htouch.mem⟩

theorem pdieHeartbeat_next (hs : Formed s.dev) (hrun : running s.dev = true) (halive : myelesAlive s.dev = true) :
    exec .pdieHeartbeat s = .next (s.on { s.dev with pdieBeat := s.dev.clk.cyc + 1 }) :=
  exec_next (f := fun d => if (running d || d.phase == .wiping) && myelesAlive d then { d with pdieBeat := d.clk.cyc + 1 } else d)
    rfl (if_pos (by simp [hrun, halive])) (formed_of_tabs hs rfl)

theorem pdieHeartbeatLost_unwatched (hs : Formed s.dev) (hbeat : s.dev.pdieBeat = 0) : exec .pdieHeartbeatLost s = .next s :=
  exec_next (f := pdieLost) rfl (if_pos (Or.inl hbeat)) hs

/-- The F-die takes the flash (R29). -/
def takeFlash (d : Dev) : Dev := setB (setB (setF d mFlashOwn 0 2 1) mFlashOwn 2 true) mTether 7 true

theorem Touches.takeFlash {R M : Nat → Prop} {d e : Dev} (h : Touches R M d e) (hF : R mFlashOwn) (hT : R mTether) :
    Touches R M d (takeFlash e) :=
  ((h.setF hF).setB hF).setB hT

theorem rg_takeFlash_other {d : Dev} {o : Nat} (hF : o ≠ mFlashOwn) (hT : o ≠ mTether) : rg (takeFlash d) o = rg d o := by
  rw [takeFlash, rg_setB_other hT, rg_setB_other hF, rg_setF_other hF]

theorem rf_takeFlash_owner (d : Dev) : rf (takeFlash d) mFlashOwn 0 2 = 1 := by
  rw [takeFlash, rf_of_rg (rg_setB_other (by decide)), setB, rf_setF_apart (by decide) (by decide)]
  exact rf_setF_same (by decide)

theorem rb_takeFlash_tether (d : Dev) : rb (takeFlash d) mTether 7 = true := rb_setB_same (by decide)

theorem inTether_takeFlash (d : Dev) : inTether (takeFlash d) = inTether d := by
  rw [inTether, takeFlash, setB, rb_setF_apart (by decide) (by decide), rb_of_rg, inTether]
  rw [rg_setB_other (by decide), rg_setF_other (by decide)]

theorem takeFlash_led (d : Dev) : (takeFlash d).led = d.led := rfl
theorem takeFlash_tetherReq (d : Dev) : (takeFlash d).tetherReq = d.tetherReq := rfl
theorem takeFlash_clk (d : Dev) : (takeFlash d).clk = d.clk := rfl

theorem rg_pass (n : Nat) (d : Dev) (o : Nat) : rg (pass n d) o = rg d o := rg_of_eq (pass_regs n d) o
theorem pass_cyc (n : Nat) (d : Dev) : (pass n d).clk.cyc = d.clk.cyc + n := rfl

theorem Touches.pass {R M : Nat → Prop} {d e : Dev} (h : Touches R M d e) {n : Nat} : Touches R M d (pass n e) := h.of_tabs rfl

/-- The P-die is given up 1 ms, 600,000 cycles, after its last heartbeat. -/
theorem pdieLost_eq {d : Dev} (hbeat : d.pdieBeat ≠ 0) (hown : rf d mFlashOwn 0 2 ≠ 1) (hon : d.phase ≠ .off) :
    pdieLost d = uncontained 9 0xFF (takeFlash (pass (d.pdieBeat - 1 + 600000 - d.clk.cyc) d)) := by
  have hno : ¬ (d.pdieBeat = 0 ∨ rf d mFlashOwn 0 2 = 1 ∨ d.phase = .off) := by simp [hbeat, hown, hon]
  simp only [pdieLost, takeFlash]
  rw [if_neg hno]

theorem pdieHeartbeatLost_records (hs : Formed s.dev) (hrun : running s.dev = true) (hreq : s.dev.tetherReq = none)
    (ht : inTether s.dev = false) (hbeat : s.dev.pdieBeat ≠ 0) (hown : rf s.dev mFlashOwn 0 2 ≠ 1) :
    Records s .pdieHeartbeatLost 9 0xFF 0xFF false
      (fun d => rf d mFlashOwn 0 2 = 1 ∧ s.dev.pdieBeat + 599999 ≤ d.clk.cyc ∧ rb d mTether 7 = true)
      (fun o => o = mFlashOwn ∨ o = mTether) := by
  have he := pdieLost_eq hbeat hown (running_phase hrun)
  have hlate : s.dev.pdieBeat + 599999 ≤ s.dev.clk.cyc + (s.dev.pdieBeat - 1 + 600000 - s.dev.clk.cyc) := by omega
  generalize s.dev.pdieBeat - 1 + 600000 - s.dev.clk.cyc = n at he hlate
  have ht' : inTether (takeFlash (pass n s.dev)) = false := by
    rw [inTether_takeFlash, ← ht]; exact rb_of_rg (rg_pass ..) 0
  have hreq' : (takeFlash (pass n s.dev)).tetherReq = none := by rw [takeFlash_tetherReq, pass_tetherReq, hreq]
  refine records_of_effect rfl he ((faultRecorded_uncontained (by decide) (by decide) hreq' ht').after ?_ ?_)
    (((Touches.refl hs).pass.takeFlash (Or.inr (Or.inl rfl)) (Or.inr (Or.inr rfl))).uncontained (Or.inl rfl)) ⟨?_, ?_, ?_⟩
  · rw [rg_takeFlash_other (by decide) (by decide), rg_pass]
  · rw [takeFlash_led, pass_led]
  · rw [rf_of_rg (rg_uncontained_other (by decide)), rf_takeFlash_owner]
  · rw [uncontained, tetherNext_clk, faultRec_clk, takeFlash_clk, pass_cyc]; exact hlate
  · rw [rb_of_rg (rg_uncontained_other (by decide)), rb_takeFlash_tether]

theorem tetherRequest_records (hs : Formed s.dev) (hrun : running s.dev = true) (hreq : s.dev.tetherReq = none)
    (ht : inTether s.dev = false) {by' : Agent} (hj : by' ≠ .job) :
    Records s (.tetherRequest by') 0xE 0xFF 0xFF false (fun _ => True) (fun _ => False) := by
  have he : tetherRequest by' s.dev = uncontained 0xE 0xFF s.dev := if_neg (by simp [hj, ht, hrun])
  exact records_of_effect rfl he (faultRecorded_uncontained (by decide) (by decide) hreq ht)
    ((Touches.refl hs).uncontained (Or.inl rfl)) trivial

theorem tetherRequest_job (hs : Formed s.dev) : exec (.tetherRequest .job) s = .next s :=
  exec_next (f := tetherRequest .job) rfl rfl hs
end

/-- Settles O48, fault by fault: each records itself in M_FAULTSTAT and the ledger beside its own effect. -/
theorem faultsRecorded : Obligations.FaultsRecorded := by
  intro s hs hrun hreq ht hcolls recs none'
  exact
    ⟨fun _ _ ha hl => tileFault_records hs hrun hcolls ha hl,
     fun _ _ => pseudoChannelFault_records hs hrun,
     fun _ _ hst h => ⟨pseudoChannelRetrainDone_good hs hst h, pseudoChannelRetrainDone_failed hs hst h⟩,
     fun _ => coreFault_records hs,
     switchPlaneFault_first_records hs hrun,
     switchPlaneFault_second_records hs hrun hreq ht,
     fun _ => farTierPortFail_records hs,
     fun _ _ => farTierPortUp_next hs hrun,
     fun _ => aDieUncontainedFault_records hs hrun hreq ht,
     clk100Lost_records hs hrun hreq ht,
     clk156Lost_records hs hrun,
     referenceClockReturn_next hs,
     pdieHeartbeat_next hs hrun,
     pdieHeartbeatLost_unwatched hs,
     pdieHeartbeatLost_records hs hrun hreq ht,
     fun _ => tetherRequest_records hs hrun hreq ht,
     tetherRequest_job hs⟩

end Sys2Proof.Machine
end

section
/-!
Proofs for the matrix array (05_planish_array.md): a WLOAD of good and of bad lines (R138 to R140), and an MMA that stops (R150).
-/
namespace Sys2Proof.Machine

/-! Commands in flight stay while a command of the array reads, logs, bins and writes. -/

section
variable (d : Dev)

theorem setF_flights (o lo n v : Nat) : (setF d o lo n v).flights = d.flights := rfl

theorem raise_flights (n : Nat) : (raise n d).flights = d.flights := by rw [raise_only]

theorem countErr_flights (ce : Bool) (l : Nat) : (countErr ce l d).flights = d.flights := by
  unfold countErr; split <;> rfl

theorem errRecord_flights (typ addr sym : Nat) (r : Req) : (errRecord typ addr sym r d).flights = d.flights := by
  simp only [errRecord]
  split
  · rfl
  · split
    · rfl
    · rw [raise_flights, setF_flights]; split
      · rfl
      · exact poke_flights ..

theorem logErr_flights (e : Nat × Nat) (r : Req) : (logErr e r d).flights = d.flights := by
  have hrecord : (errRecord e.2 e.1 0xFF r (if e.2 = 2 then countErr false e.1 d else d)).flights = d.flights := by
    rw [errRecord_flights]; split
    · exact countErr_flights ..
    · rfl
  simp only [logErr]
  split
  · split <;> exact hrecord
  · exact hrecord

theorem logWriteErr_flights (e : Nat × Nat) (r : Req) : (logWriteErr e r d).flights = d.flights := logErr_flights ..
end

/-- A fold keeps what each of its steps keeps. -/
theorem foldl_keeps {σ α β : Type} (g : σ → β) {f : σ → α → σ} (h : ∀ s a, g (f s a) = g s) (l : List α) (s : σ) :
    g (l.foldl f s) = g s := by
  induction l generalizing s with
  | nil => rfl
  | cons a t ih => rw [List.foldl_cons, ih, h]

section
variable (r : Req) (d : Dev)

theorem correctReads_flights (a n : Nat) : (correctReads a n r d).flights = d.flights := by
  refine foldl_keeps Dev.flights (fun e l => ?_) _ d
  have hcount : (countErr true l { e with weak := e.weak.filter (· != l) }).flights = e.flights := countErr_flights ..
  dsimp only
  split
  · split
    · rw [errRecord_flights]; exact hcount
    · exact hcount
  · exact hcount

theorem correctSpans_flights (l : List (Nat × Nat)) : (correctSpans l r d).flights = d.flights := by
  unfold correctSpans; split
  · rfl
  · exact foldl_keeps Dev.flights (fun e s => correctReads_flights r e s.1 s.2) l d

theorem writePiece_flights (a : Nat) (bs : List Byte) : (writePiece r a bs d).flights = d.flights := by
  unfold writePiece; split <;> rfl

theorem memWriteF_flights (n a : Nat) (bs : List Byte) : (memWriteF r n a bs d).flights = d.flights := by
  induction n generalizing a bs d with
  | zero => rfl
  | succ n ih =>
    rw [memWriteF]; split
    · rfl
    · rw [ih, writePiece_flights]

theorem memWrite_flights (a : Nat) (bs : List Byte) : (memWrite r a bs d).flights = d.flights := by
  have hwrite := memWriteF_flights r d (bs.length / 0x40000 + 2) a bs
  unfold memWrite ownLines; split <;> exact hwrite

theorem memWriteN_flights (a n v : Nat) : (memWriteN r a n v d).flights = d.flights := memWrite_flights ..

theorem binValue_flights (t hsel : Nat) (b : Option (Num × Bool)) : (binValue t hsel b d).flights = d.flights := by
  cases b <;> rfl

theorem storeElem_flights (v : Env) (m n : Nat) (o : EOut) : (storeElem r v m n o d).flights = d.flights :=
  foldl_keeps Dev.flights (fun e _ => memWriteN_flights r e ..) o.stores d
end

theorem statRow_flights (r : Req) (v : Env) (sts : List StageW) (m : Nat) (fresh : Bool) (outs : List EOut) (y : Run) :
    (statRow r v sts m fresh outs y).d.flights = y.d.flights :=
  foldl_keeps (fun y : Run => y.d.flights) (fun y _ => memWrite_flights r y.d ..) _ y

theorem Mma.row_flights (f : Flight) (x : Mma) (v : Env) (first : Option Slab) (j m : Nat) (y : Run) :
    (x.row f v first j m y).d.flights = y.d.flights := by
  refine (statRow_flights ..).trans (foldl_keeps (fun y : Run => y.d.flights) (fun y e => ?_) _ _)
  exact (binValue_flights ..).trans ((storeElem_flights ..).trans (memWriteN_flights ..))

/-! A command of the array that ends without a slab (R140). -/

theorem Served.names {d : Dev} {op q seq : Nat} {f : Flight} (h : Served d op q seq f) : f.q = q ∧ f.seq = seq := by
  have his : f.is q seq = true := List.find?_some (p := fun g : Flight => g.is q seq) h.1
  simpa [Flight.is] using his

theorem slab_clearSlab (t : Nat) (d : Dev) : (tileAt (clearSlab t d) t).slab = none := by
  rw [clearSlab, tileAt_modTile, if_pos rfl]

/-- A command in flight that ends with its tile's slab cleared, and before that changes no command in flight. -/
theorem ends_without_slab {s : State} {op q seq : Nat} {f : Flight} {body : Flight → Dev → Dev} {e : Dev} {st det n : Nat}
    (h : Served s.dev op q seq f) (hbody : body f s.dev = finish q seq st det n (clearSlab (qTile q) e))
    (hflights : e.flights = s.dev.flights) :
    ∃ t, onDev s (withFlight op q seq body) = .next t ∧ t.pending = s.pending ∧ (tileAt t.dev (qTile q)).slab = none ∧
      findFlight t.dev q seq = some (f.finish st det n) := by
  have hfind : findFlight (clearSlab (qTile q) e) q seq = some f := by
    rw [← h.1]; exact congrArg (List.find? fun g : Flight => g.is q seq) hflights
  refine ⟨_, onDev_eq .., rfl, ?_, ?_⟩
  · rw [tileAt_canonDev, withFlight_served body h, hbody]
    exact slab_clearSlab (qTile q) e
  · rw [withFlight_served body h, hbody]
    exact findFlight_finish hfind st det n

/-! WLOAD (R138 to R140). -/

/-- First memory error of row `n` of a first slab whose rows hold `kk` elements: of its codes, then of its exponent bytes. -/
def Mma.slabRowErr (d : Dev) (x : Mma) (kk n : Nat) : Option (Nat × Nat) :=
  match readErr d (x.b + n * x.ldb) (if x.bfmt = 5 then kk / 2 else kk * esz x.bfmt) with
  | some e => some e
  | none => if x.bfmt = 5 then readErr d (x.b + x.N * x.ldb + n * (x.ldb / 8)) (cdiv kk 16) else none

section
variable {d : Dev} {x : Mma} {kk nn : Nat}

theorem Mma.slabRowErr_none {n : Nat} (hcodes : readErr d (x.b + n * x.ldb) (if x.bfmt = 5 then kk / 2 else kk * esz x.bfmt) = none)
    (hexps : x.bfmt = 5 → readErr d (x.b + x.N * x.ldb + n * (x.ldb / 8)) (cdiv kk 16) = none) : x.slabRowErr d kk n = none := by
  rw [slabRowErr, hcodes]
  by_cases hfmt : x.bfmt = 5
  · simp only [if_pos hfmt, hexps hfmt]
  · simp only [if_neg hfmt]

theorem Mma.slabRowErr_codes {n : Nat} {e : Nat × Nat}
    (h : readErr d (x.b + n * x.ldb) (if x.bfmt = 5 then kk / 2 else kk * esz x.bfmt) = some e) : x.slabRowErr d kk n = some e := by
  rw [slabRowErr, h]

theorem Mma.slabRowErr_first {e : Nat × Nat} (hn : 0 < nn) (h : x.slabRowErr d kk 0 = some e) :
    (upto nn).findSome? (x.slabRowErr d kk) = some e := by
  obtain ⟨k, rfl⟩ : ∃ k, nn = k + 1 := ⟨nn - 1, by omega⟩
  rw [upto, List.range_succ_eq_map, List.findSome?_cons, h]
end

section
variable {f : Flight} {x : Mma} {d : Dev}

theorem wload_good (hx : mmaOf f.q f.head [] = x) (hweak : d.weak = [])
    (hrows : ∀ n, n < Nat.min x.N x.nb → x.slabRowErr d (Nat.min x.K x.kb) n = none) :
    wload f d = finish f.q f.seq 0 0 (Nat.min x.N x.nb * slabRow x.bfmt (Nat.min x.K x.kb))
      (modTile x.t (fun s => { s with slab := some ⟨x.bfmt, x.shape, x.b, x.ldb, Nat.min x.K x.kb, Nat.min x.N x.nb,
        x.slabVals d 0 (Nat.min x.N x.nb) 0 (Nat.min x.K x.kb)⟩ }) d) := by
  subst hx
  have hnone : (upto (Nat.min (mmaOf f.q f.head []).N (mmaOf f.q f.head []).nb)).findSome?
      ((mmaOf f.q f.head []).slabRowErr d (Nat.min (mmaOf f.q f.head []).K (mmaOf f.q f.head []).kb)) = none :=
    List.findSome?_eq_none_iff.mpr fun n hn => hrows n (List.mem_range.mp hn)
  simp only [wload]
  split
  · next e he => cases he.symm.trans hnone
  · rw [correctSpans_of_none hweak]

theorem wload_bad (hx : mmaOf f.q f.head [] = x) {e : Nat × Nat}
    (herr : (upto (Nat.min x.N x.nb)).findSome? (x.slabRowErr d (Nat.min x.K x.kb)) = some e) :
    wload f d = finish f.q f.seq (errStatus e.2) 0 0 (clearSlab x.t (logErr e (f.req 0 x.t) d)) := by
  subst hx
  simp only [wload]
  split
  · next e' he => rw [Option.some.inj (he.symm.trans herr)]
  · next he => cases he.symm.trans herr
end

/-! MMA (R140, R150). -/

section
variable {f : Flight} {x : Mma} {d : Dev}

theorem mma_unwritable (hx : mmaOf f.q f.head f.cont = x) {st det : Nat}
    (hc : badRange d true x.c (x.M * x.ldc) = some (st, det)) : mma f d = finish f.q f.seq st det 0 d := by
  subst hx
  simp only [mma, hc]

/-- An MMA that no ABORT stops and that meets a bad line in pass `p` ends after the whole blocks before it. -/
theorem mma_badLine (hx : mmaOf f.q f.head f.cont = x) (hstop : f.stop = 0) {p l e : Nat} {w : Bool}
    (hc : badRange d true x.c (x.M * x.ldc) = none)
    (hpass : x.goodPasses d (x.loaded d).isSome (x.nBlocks * x.mBlocks * x.chunks) 0 = (p, some ((l, e), w))) :
    ∃ d', d'.flights = d.flights ∧
      mma f d = finish f.q f.seq (errStatus e) (b2n (x.wpre && (x.loaded d).isNone)) (sumUp x.blockElems (p / x.chunks) 0)
        (clearSlab x.t d') := by
  subst hx
  simp only [mma, hc, unitsDone, if_pos hstop, hpass]
  refine ⟨_, ?_, rfl⟩
  split
  all_goals
    simp only [logErr_flights, logWriteErr_flights, raiseFlags, setF_flights]
    refine (foldl_keeps (fun y : Run => y.d.flights) (fun y b => ?_) _ _).trans (correctSpans_flights ..)
    exact foldl_keeps (fun y : Run => y.d.flights) (fun y i => Mma.row_flights ..) _ y
end

theorem exec_wload (q seq : Nat) (s : State) : exec (.wload q seq) s = onDev s (withFlight 0x21 q seq wload) := rfl

theorem exec_mma (q seq : Nat) (s : State) : exec (.mma q seq) s = onDev s (withFlight 0x20 q seq mma) := rfl

/-- Settles O24: WLOAD by whether a row of its slab meets a bad line, MMA by whether C may be written and a pass meets one. -/
theorem wloadAndMmaStops : Obligations.WloadAndMmaStops := by
  refine ⟨fun s q seq f x hs hf hx => ?_, fun s q seq f x hs hf hstop hx => ?_⟩
  · obtain ⟨rfl, rfl⟩ := hf.names
    have ht : x.t = qTile f.q := by rw [← hx]; rfl
    refine ⟨fun hweak hrows => ?_, fun l e hn herr => ?_⟩
    · have hw := wload_good hx hweak fun n hn => Mma.slabRowErr_none (hrows n hn).1 (hrows n hn).2
      rw [ht] at hw
      rw [exec_wload, served_next wload hf (by rw [hw]; exact formed_finish (formed_modTile hs)), hw]
    · have hw := wload_bad hx (Mma.slabRowErr_first hn (Mma.slabRowErr_codes (by rwa [Nat.zero_mul, Nat.add_zero])))
      rw [ht] at hw
      exact ends_without_slab hf hw (logErr_flights ..)
  · obtain ⟨rfl, rfl⟩ := hf.names
    have ht : x.t = qTile f.q := by rw [← hx]; rfl
    refine ⟨fun st det hc => ?_, fun p l e w hc hpass => ?_⟩
    · have hm := mma_unwritable hx hc
      rw [exec_mma, served_next mma hf (by rw [hm]; exact formed_finish hs), hm]
    · obtain ⟨d', hflights, hm⟩ := mma_badLine hx hstop hc hpass
      rw [ht] at hm
      exact ends_without_slab hf hm hflights

end Sys2Proof.Machine
end

section
/-!
Proofs for the Chaser's function tables (07_chaser_engine.md): a table set is staged in one tile, and armed and switched in all of them
(R193 to R196).
-/
namespace Sys2Proof.Machine

/-! A_CHTAB of a tile is a register of its own. -/

theorem aChTab_inj {t u : Nat} : aChTab t = aChTab u ↔ t = u := by
  unfold aChTab aTileBlk aBlk; omega

theorem ne_aChTab {o : Nat} (h : o < 0x200000) (t : Nat) : o ≠ aChTab t := by
  unfold aChTab aTileBlk aBlk; omega

/-! Effects on A_CHTAB of every mapped tile. -/

/-- The effect `g` in each mapped tile of the `n` tiles from `a` on. -/
def eachMapped (g : Nat → Dev → Dev) (n a : Nat) (d : Dev) : Dev := forUp (fun t d => if tileAbsent d t then d else g t d) n a d

/-- The registers A_CHTAB of the mapped tiles among the `n` tiles from `a` on. -/
def MappedChTab (d : Dev) (n a o : Nat) : Prop := ∃ t, a ≤ t ∧ t < a + n ∧ tileAbsent d t = false ∧ o = aChTab t

/-- In tile `t` the effect `g` puts A_CHTAB through `w` and changes nothing else. -/
structure EditsChTab (g : Nat → Dev → Dev) (w : Word → Word) : Prop where
  only : ∀ t d, OnlyRegs d (g t d)
  touches : ∀ t d, Formed d → Touches (· = aChTab t) noBytes d (g t d)
  edit : ∀ t d, rg (g t d) (aChTab t) = w (rg d (aChTab t))

theorem OnlyRegs.trans {d e f : Dev} (h : OnlyRegs d e) (h' : OnlyRegs e f) : OnlyRegs d f := by
  unfold OnlyRegs at h h' ⊢
  rw [h', h]

theorem tileAbsent_of_onlyRegs {d e : Dev} (h : OnlyRegs d e) (t : Nat) : tileAbsent e t = tileAbsent d t := by
  rw [h]; rfl

section
variable {g : Nat → Dev → Dev} {w : Word → Word} {d : Dev} {n a : Nat}

theorem eachMapped_absent (h : tileAbsent d a = true) : eachMapped g (n + 1) a d = eachMapped g n (a + 1) d := by
  simp [eachMapped, forUp, h]

theorem eachMapped_mapped (h : tileAbsent d a = false) : eachMapped g (n + 1) a d = eachMapped g n (a + 1) (g a d) := by
  simp [eachMapped, forUp, h]

theorem OnlyRegs.eachMapped (hg : EditsChTab g w) : OnlyRegs d (eachMapped g n a d) := by
  induction n generalizing a d with
  | zero => exact .refl d
  | succ n ih =>
    cases h : tileAbsent d a with
    | true => rw [eachMapped_absent h]; exact ih
    | false => rw [eachMapped_mapped h]; exact (hg.only a d).trans ih

theorem eachMapped_touches (hg : EditsChTab g w) (hd : Formed d) : Touches (MappedChTab d n a) noBytes d (eachMapped g n a d) := by
  induction n generalizing a d with
  | zero => exact .refl hd
  | succ n ih =>
    cases h : tileAbsent d a with
    | true =>
      rw [eachMapped_absent h]
      exact (ih hd).mono (fun o ⟨t, ha, hn, ht, ho⟩ => ⟨t, by omega, by omega, ht, ho⟩) fun _ hx => hx
    | false =>
      have hfirst := hg.touches a d hd
      rw [eachMapped_mapped h]
      refine (hfirst.mono (fun o ho => ?_) fun _ hx => hx).trans ((ih hfirst.formed).mono (fun o ho => ?_) fun _ hx => hx)
      · exact ⟨a, by omega, by omega, h, ho⟩
      · obtain ⟨t, ha, hn, ht, ho⟩ := ho
        exact ⟨t, by omega, by omega, by rwa [tileAbsent_of_onlyRegs (hg.only a d)] at ht, ho⟩

/-- Each mapped tile's A_CHTAB is edited once. -/
theorem rg_eachMapped (hg : EditsChTab g w) (hd : Formed d) {t : Nat} (ha : a ≤ t) (hn : t < a + n) (ht : tileAbsent d t = false) :
    rg (eachMapped g n a d) (aChTab t) = w (rg d (aChTab t)) := by
  induction n generalizing a d with
  | zero => omega
  | succ n ih =>
    cases h : tileAbsent d a with
    | true =>
      have hta : t ≠ a := by rintro rfl; rw [h] at ht; cases ht
      rw [eachMapped_absent h, ih hd (by omega) (by omega) ht]
    | false =>
      have hfirst := hg.touches a d hd
      rw [eachMapped_mapped h]
      by_cases hta : t = a
      · subst hta
        rw [(eachMapped_touches hg hfirst.formed).regs _ fun ⟨u, hu, _, _, ho⟩ => by rw [aChTab_inj] at ho; omega, hg.edit]
      · rw [ih hfirst.formed (by omega) (by omega) (by rwa [tileAbsent_of_onlyRegs (hg.only a d)]), hfirst.regs _ (by rwa [aChTab_inj])]

/-- The registers outside the A-die blocks stay. -/
theorem rg_eachMapped_other (hg : EditsChTab g w) (hd : Formed d) {o : Nat} (ho : o < 0x200000) :
    rg (eachMapped g n a d) o = rg d o :=
  (eachMapped_touches hg hd).regs o fun ⟨t, _, _, _, h⟩ => ne_aChTab ho t h
end

/-! A refused switch is shown in every mapped tile (R196). -/

theorem editsChTab_applyErr : EditsChTab (fun t d => setB d (aChTab t) 33 true) (wput · 33 1 1) where
  only _ d := (OnlyRegs.refl d).setB ..
  touches _ _ hd := (Touches.refl hd).setB rfl
  edit _ _ := rg_setF_same ..

theorem applyErr_eq (d : Dev) : applyErr d = eachMapped (fun t d => setB d (aChTab t) 33 true) 64 0 d := rfl

section
variable {d : Dev} (hd : Formed d) {t : Nat} (ht : t < 64) (hm : tileAbsent d t = false)
include hd ht hm

theorem rg_applyErr : rg (applyErr d) (aChTab t) = wput (rg d (aChTab t)) 33 1 1 :=
  rg_eachMapped editsChTab_applyErr hd (by omega) (by omega) hm

theorem rb_applyErr : rb (applyErr d) (aChTab t) 33 = true := by
  rw [rb, rg_applyErr hd ht hm, wbit_eq, wbits_wput_same (by decide)]; rfl

theorem rf_applyErr_active : rf (applyErr d) (aChTab t) 0 16 = rf d (aChTab t) 0 16 := by
  rw [rf, rg_applyErr hd ht hm, wbits_wput_other (by decide) (by decide), rf]
end

/-! Staging and arming (R193 to R196). -/

theorem tableSetStage_eq {d : Dev} {t : Nat} (hrun : running d = true) (ht : t < 64) (hm : tileAbsent d t = false) (rev addr len : Nat) :
    tableSetStage t rev addr len d = setB (setF d (aChTab t) 16 16 rev) (aChTab t) 32
      (decide (32 ≤ len) && shake256 32 ((flashBytes d addr len).drop 32) == (flashBytes d addr len).take 32) := by
  have : ¬ 64 ≤ t := by omega
  simp [tableSetStage, hrun, hm, this]

theorem chtabapplyWrite_ahead {d : Dev} {v : Word} {by' : Agent} (hrun : running d = true) (hby : by' ≠ .job)
    (hv : frameNum d + 3 ≤ v.toNat) : chtabapplyWrite v.toNat by' d = setReg d mChtabApply v := by
  have : ¬ v.toNat < frameNum d + 3 := by omega
  simp [chtabapplyWrite, hrun, hby, this, setRegN]

theorem chtabapplyWrite_late {d : Dev} {v : Word} {by' : Agent} (hrun : running d = true) (hby : by' ≠ .job)
    (hv : v.toNat < frameNum d + 3) : chtabapplyWrite v.toNat by' d = applyErr d := by
  simp [chtabapplyWrite, hrun, hby, hv]

/-! The switch at the armed frame (R196). -/

/-- In tile `t` the staged set of revision `rev` becomes the active one. -/
def activate (rev t : Nat) (d : Dev) : Dev := setB (setF d (aChTab t) 0 16 rev) (aChTab t) 32 false

theorem editsChTab_activate (rev : Nat) : EditsChTab (activate rev) fun w => wput (wput w 0 16 rev) 32 1 0 where
  only _ d := ((OnlyRegs.refl d).setF ..).setB ..
  touches t _ hd := ((Touches.refl (R := (· = aChTab t)) hd).setF rfl).setB rfl
  edit _ _ := by rw [activate, setB, rg_setF_same, rg_setF_same]; rfl

/-- No frame is armed, and the mapped tiles use revision `rev`. -/
def switchTiles (rev : Nat) (d : Dev) : Dev := eachMapped (activate rev) 64 0 (setRegN d mChtabApply 0)

/-- The touchmark names revision `rev`, and commands under way keep revision `old` (R197). -/
def nameTables (rev old : Nat) (d : Dev) : Dev := { setF d mTouchmark 0 16 rev with tables := ⟨none, some (d.clk.cyc0, old)⟩ }

theorem Touches.noteFlag {R M : Nat → Prop} {d e : Dev} (h : Touches R M d e) {v : Nat} : Touches R M d (noteFlag v e) := h.of_tabs rfl

theorem Touches.touchmarkChanged {R M : Nat → Prop} {d e : Dev} (h : Touches R M d e) (hR : R mTwinStat) {old : Nat} :
    Touches R M d (touchmarkChanged old e) :=
  .ite (fun _ => h.noteFlag.ledger.setF hR) fun _ => h.noteFlag.ledger

theorem formed_nameTables {d : Dev} (h : Formed d) (rev old : Nat) : Formed (nameTables rev old d) :=
  formed_of_tabs (formed_setF h) rfl

theorem formed_switchTiles {d : Dev} (h : Formed d) (rev : Nat) : Formed (switchTiles rev d) :=
  (eachMapped_touches (editsChTab_activate rev) (formed_setRegN h)).formed

section
variable {d : Dev} (hrun : running d = true) (hne : frameNum d ≠ 0) (harmed : (rg d mChtabApply).toNat = frameNum d)
include hrun hne harmed

theorem chtabSwitch_refused (hsnap : d.tables.snap = none) : chtabSwitch d = applyErr (setRegN d mChtabApply 0) := by
  have : (setRegN d mChtabApply 0).tables.snap = none := hsnap
  simp [chtabSwitch, hrun, harmed, hne, this]

theorem chtabSwitch_done {rev : Nat} (hsnap : d.tables.snap = some rev) :
    let old := rf (setRegN d mChtabApply 0) mTouchmark 0 16
    let e := nameTables rev old (switchTiles rev d)
    chtabSwitch d = if old = rev then e else touchmarkChanged (rg (switchTiles rev d) mTouchmark).toNat e := by
  have : (setRegN d mChtabApply 0).tables.snap = some rev := hsnap
  simp [chtabSwitch, hrun, harmed, hne, this, switchTiles, nameTables, eachMapped, activate]

/-- After the tiles have switched and the touchmark names their tables, at most M_TWINSTAT changes further. -/
theorem chtabSwitch_touches (hd : Formed d) {rev : Nat} (hsnap : d.tables.snap = some rev) :
    ∃ old, Touches (· = mTwinStat) noBytes (nameTables rev old (switchTiles rev d)) (chtabSwitch d) := by
  have hnamed (old : Nat) := formed_nameTables (formed_switchTiles hd rev) rev old
  refine ⟨rf (setRegN d mChtabApply 0) mTouchmark 0 16, ?_⟩
  rw [chtabSwitch_done hrun hne harmed hsnap]
  exact .ite (fun _ => .refl (hnamed _)) fun _ => (Touches.refl (R := (· = mTwinStat)) (hnamed _)).touchmarkChanged rfl
end

theorem rg_nameTables_other {rev old o : Nat} {d : Dev} (ho : o ≠ mTouchmark) : rg (nameTables rev old d) o = rg d o :=
  rg_setF_other ho

theorem rf_nameTables {rev old : Nat} {d : Dev} (hrev : rev < 65536) : rf (nameTables rev old d) mTouchmark 0 16 = rev :=
  (rf_setF_same (d := d) (by decide)).trans (Nat.mod_eq_of_lt hrev)

section
variable {d : Dev} (hd : Formed d) (rev : Nat)
include hd

theorem rg_switchTiles_armed : rg (switchTiles rev d) mChtabApply = 0 := by
  rw [switchTiles, rg_eachMapped_other (editsChTab_activate rev) (formed_setRegN hd) (by decide)]
  exact rg_setReg_same ..

theorem rg_switchTiles {t : Nat} (ht : t < 64) (hm : tileAbsent d t = false) :
    rg (switchTiles rev d) (aChTab t) = wput (wput (rg d (aChTab t)) 0 16 rev) 32 1 0 := by
  rw [switchTiles, rg_eachMapped (editsChTab_activate rev) (formed_setRegN hd) (by omega) (by omega) hm, setRegN,
    rg_setReg_other _ (ne_aChTab (by decide) t).symm]
end

/-! The obligation. -/

section
variable {s : State} (hs : Formed s.dev) (hrun : running s.dev = true)
include hs hrun

/-- A frame less than three frames ahead is ignored, with apply_err in every mapped tile (R196). -/
theorem chtabapplyWrite_late_next {v : Word} {by' : Agent} (hby : by' ≠ .job) (hv : v.toNat < frameNum s.dev + 3) :
    ∃ u, exec (.chtabapplyWrite v by') s = .next u ∧ u.pending = s.pending ∧ OnlyRegs s.dev u.dev ∧
      RegsKept (fun o => ∃ t, t < 64 ∧ tileAbsent s.dev t = false ∧ o = aChTab t) s.dev u.dev ∧
      ∀ t, t < 64 → tileAbsent s.dev t = false → rb u.dev (aChTab t) 33 = true := by
  have htouch := eachMapped_touches (n := 64) (a := 0) editsChTab_applyErr hs
  refine ⟨s.on (applyErr s.dev), exec_next rfl (chtabapplyWrite_late hrun hby hv) htouch.formed, rfl, .eachMapped editsChTab_applyErr,
    fun o ho => htouch.regs o fun ⟨t, _, ht, hm, h⟩ => ho ⟨t, by omega, hm, h⟩, fun t ht hm => rb_applyErr hs ht hm⟩

variable (hne : frameNum s.dev ≠ 0) (harmed : (rg s.dev mChtabApply).toNat = frameNum s.dev)
include hne harmed

/-- Where the tiles had no common staged revision, none switches (R196). -/
theorem chtabSwitch_refused_next (hsnap : s.dev.tables.snap = none) :
    ∃ u, exec .chtabSwitch s = .next u ∧ u.pending = s.pending ∧ rg u.dev mChtabApply = 0 ∧
      ∀ t, t < 64 → tileAbsent s.dev t = false → rb u.dev (aChTab t) 33 = true ∧
        rf u.dev (aChTab t) 0 16 = rf s.dev (aChTab t) 0 16 := by
  have hd : Formed (setRegN s.dev mChtabApply 0) := formed_setRegN hs
  refine ⟨s.on (applyErr (setRegN s.dev mChtabApply 0)), exec_next rfl (chtabSwitch_refused hrun hne harmed hsnap)
    (eachMapped_touches editsChTab_applyErr hd).formed, rfl, ?_, fun t ht hm => ⟨rb_applyErr hd ht hm, ?_⟩⟩
  · exact (rg_eachMapped_other editsChTab_applyErr hd (by decide)).trans (rg_setReg_same ..)
  · rw [rf_applyErr_active hd ht hm]
    exact rf_of_rg (rg_setReg_other _ (ne_aChTab (by decide) t).symm) ..

/-- Every mapped tile switches to the common staged revision, which the touchmark names (R196). -/
theorem chtabSwitch_done_next {rev : Nat} (hsnap : s.dev.tables.snap = some rev) (hrev : rev < 65536) :
    ∃ u, exec .chtabSwitch s = .next u ∧ u.pending = s.pending ∧ rg u.dev mChtabApply = 0 ∧ rf u.dev mTouchmark 0 16 = rev ∧
      ∀ t, t < 64 → tileAbsent s.dev t = false → rf u.dev (aChTab t) 0 16 = rev ∧ rb u.dev (aChTab t) 32 = false := by
  obtain ⟨old, htouch⟩ := chtabSwitch_touches hrun hne harmed hs hsnap
  refine ⟨s.on (chtabSwitch s.dev), exec_next rfl rfl htouch.formed, rfl, ?_, ?_, fun t ht hm => ?_⟩
  · exact (htouch.regs _ (by decide)).trans ((rg_nameTables_other (by decide)).trans (rg_switchTiles_armed hs rev))
  · exact (rf_of_rg (htouch.regs _ (by decide)) ..).trans (rf_nameTables hrev)
  · have hreg : rg (chtabSwitch s.dev) (aChTab t) = wput (wput (rg s.dev (aChTab t)) 0 16 rev) 32 1 0 := by
      rw [htouch.regs _ (ne_aChTab (by decide) t).symm, rg_nameTables_other (ne_aChTab (by decide) t).symm, rg_switchTiles hs rev ht hm]
    constructor
    · rw [rf, hreg, wbits_wput_other (by decide) (by decide), wbits_wput_same (by decide)]
      exact Nat.mod_eq_of_lt hrev
    · rw [rb, hreg, wbit_eq, wbits_wput_same (by decide)]; rfl
end

/-- Settles O28: the effects on A_CHTAB of all tiles are edits of each mapped tile's register alone, and the switch then writes the
touchmark. -/
theorem tableSets : Obligations.TableSets := by
  unfold Obligations.TableSets
  intro s hs hrun
  refine ⟨fun t rev addr len ht hm => ?_, fun v by' hby => ⟨fun hv => ?_, chtabapplyWrite_late_next hs hrun hby⟩,
    fun hne harmed => ⟨chtabSwitch_refused_next hs hrun hne harmed, fun rev => chtabSwitch_done_next hs hrun hne harmed⟩⟩
  · exact exec_next rfl (tableSetStage_eq hrun ht hm rev addr len) (formed_setB (formed_setF hs))
  · exact exec_next rfl (chtabapplyWrite_ahead hrun hby hv) (formed_setReg hs)

end Sys2Proof.Machine
end

section
/-!
Proofs for the solver (08_anvil_solver.md): SOLVE, FACTOR and ITERATE complete (R207, R208, R211, R214, R217); an assignment rounds
once or saturates (R202), and a small pivot is replaced (R204, R205).
-/
namespace Sys2Proof.Machine

/-! Lines that can be read fail no access. -/

theorem bad_eq_nil_of_goodLines {d : Dev} (h : GoodLines d) : d.bad = [] := by
  refine List.eq_nil_iff_forall_not_mem.mpr fun l hl => ?_
  have hgood := h l
  have hbad : d.bad.contains l = true := List.contains_iff_mem.mpr hl
  simp only [lineErr, hbad, if_true] at hgood
  split at hgood
  · split at hgood
    · cases hgood
    · split at hgood <;> cases hgood
  · split at hgood <;> cases hgood
  · cases hgood

theorem readErr_of_goodLines {d : Dev} (h : GoodLines d) (a n : Nat) : readErr d a n = none := by
  have hfirst : ∀ k l, firstErr d k l = none := by
    intro k
    induction k with
    | zero => intro l; rfl
    | succ k ih => intro l; rw [firstErr, h l]; exact ih _
  exact hfirst _ _

theorem lineWriteErr_of_goodLines {d : Dev} (h : GoodLines d) (a n l : Nat) : lineWriteErr d a n l = none := by
  rw [lineWriteErr, h l]

theorem writeErr_of_goodLines {d : Dev} (h : GoodLines d) (a n : Nat) : writeErr d a n = none := by
  have hfirst : ∀ k l, firstWriteErr d a n k l = none := by
    intro k
    induction k with
    | zero => intro l; rfl
    | succ k ih => intro l; rw [firstWriteErr, lineWriteErr_of_goodLines h]; exact ih _
  exact hfirst _ _

theorem spanErr_of_goodLines {d : Dev} (h : GoodLines d) (l : List (Nat × Nat × Bool)) : spanErr d l = none := by
  refine List.findSome?_eq_none_iff.mpr fun e _ => ?_
  obtain ⟨a, n, w⟩ := e
  cases w
  · simp [readErr_of_goodLines h]
  · simp [writeErr_of_goodLines h]

/-! Stores into good lines that no copy session holds. -/

/-- `e` is `d` after stores into bytes of `M` alone: registers and commands in flight are as they were, and the next access meets no bad
line, corrects no read and is not held. -/
structure Stores (M : Nat → Prop) (d e : Dev) : Prop where
  touches : Touches (fun _ => False) M d e
  flights : e.flights = d.flights
  holds : NoHolds e
  lines : GoodLines e
  weak : e.weak = []

theorem sameMap_poke {d : Dev} (h : GoodLines d) (a : Nat) (bs : List Byte) : SameMap d (poke a bs d) :=
  ⟨rfl, rfl, rfl, rfl, rfl, by simp [poke, bad_eq_nil_of_goodLines h], rfl⟩

section
variable {M : Nat → Prop} {d e : Dev} {r : Req} {a : Nat} {bs : List Byte}

theorem Stores.poke (h : Stores M d e) (hM : ∀ x, a ≤ x → x < a + bs.length → M x) : Stores M d (poke a bs e) where
  touches := h.touches.poke hM
  flights := h.flights
  holds := noHolds_congr rfl h.holds
  lines l := by rw [lineErr_map (sameMap_poke h.lines a bs)]; exact h.lines l
  weak := by simp [Machine.poke, h.weak]

theorem Stores.memWriteF (n : Nat) (h : Stores M d e) (hM : ∀ x, a ≤ x → x < a + bs.length → M x) :
    Stores M d (memWriteF r n a bs e) := by
  induction n generalizing a bs e with
  | zero => exact h
  | succ n ih =>
    rw [Machine.memWriteF]
    split
    · exact h
    · have hpiece : ∀ c, writePiece r a c e = Machine.poke a c e := fun c => by simp [writePiece, h.holds a]
      simp only [hpiece]
      refine ih (h.poke fun x h1 h2 => hM x h1 ?_) fun x h1 h2 => hM x (by omega) ?_
      · rw [List.length_take] at h2; omega
      · rw [List.length_drop] at h2; omega

theorem Stores.modTile (h : Stores M d e) {t : Nat} {f : TileSt → TileSt} : Stores M d (modTile t f e) where
  touches := h.touches.modTile
  flights := h.flights
  holds := noHolds_congr rfl h.holds
  lines l := (congrFun (lineErr_map (d := e) ⟨rfl, rfl, rfl, rfl, rfl, rfl, rfl⟩) l).trans (h.lines l)
  weak := h.weak

theorem Stores.ownLines (h : Stores M d e) {n : Nat} : Stores M d (ownLines r a n e) := by
  unfold Machine.ownLines
  split
  · exact h.modTile
  · exact h

/-- A write stores its bytes and nothing else. -/
theorem Stores.memWrite (h : Stores M d e) (hM : ∀ x, a ≤ x → x < a + bs.length → M x) : Stores M d (memWrite r a bs e) :=
  (h.memWriteF _ hM).ownLines

theorem Stores.foldl_memWrite (h : Stores M d e) {bss : List (List Byte)} {addr : Nat → Nat}
    (hM : ∀ i b, bss[i]? = some b → ∀ a, addr i ≤ a → a < addr i + b.length → M a) :
    Stores M d (bss.zipIdx.foldl (fun d b => Machine.memWrite r (addr b.2) b.1 d) e) :=
  List.foldlRecOn _ _ h fun _ he bi hbi => he.memWrite (hM bi.2 bi.1 (List.mem_zipIdx_iff_getElem?.mp hbi))

/-- A write line by line meets no failing line and stores its bytes and nothing else. -/
theorem Stores.writeSkip (h : Stores M d e) (hM : ∀ x, a ≤ x → x < a + bs.length → M x) :
    Stores M d (writeSkip r a bs e).1 ∧ (writeSkip r a bs e).2 = none := by
  simp only [Machine.writeSkip, lineWriteErr_of_goodLines h.lines]
  refine List.foldlRecOn (motive := fun acc : Dev × Option (Nat × Nat) => Stores M d acc.1 ∧ acc.2 = none) _ _ ⟨h, rfl⟩
    fun acc hacc i _ => ⟨hacc.1.memWrite fun x h1 h2 => ?_, hacc.2⟩
  rw [List.length_take, List.length_drop] at h2
  have hstart : a ≤ Nat.max a (lineOf a + 64 * i) := Nat.le_max_left ..
  exact hM x (by omega) (by omega)
end

/-! What a computation on fixed-point values answers, whatever it noted before. -/

/-- Every answer of the computation has `P`. -/
def Yields {α : Type} (P : α → Prop) (c : Calc α) : Prop := ∀ i, P (c.run i).1

section
variable {α β : Type} {P : α → Prop} {Q : β → Prop}

theorem yields_any (c : Calc α) : Yields (fun _ => True) c := fun _ => trivial

theorem yields_pure {a : α} (h : P a) : Yields P (pure a) := fun _ => h

theorem Yields.bind {c : Calc α} {f : α → Calc β} (hc : Yields P c) (hf : ∀ a, P a → Yields Q (f a)) : Yields Q (c >>= f) :=
  fun i => hf _ (hc i) (c.run i).2

theorem Yields.mono {P' : α → Prop} {c : Calc α} (hc : Yields P c) (h : ∀ a, P a → P' a) : Yields P' c := fun i => h _ (hc i)

theorem yields_ite {p : Prop} [Decidable p] {c c' : Calc α} (h : p → Yields P c) (h' : ¬ p → Yields P c') :
    Yields P (if p then c else c') := by
  split
  · exact h ‹_›
  · exact h' ‹_›

theorem yields_foldlM {f : α → β → Calc α} {a : α} (l : List β) (h : P a) (hf : ∀ a b, P a → Yields P (f a b)) :
    Yields P (l.foldlM f a) := by
  induction l generalizing a with
  | nil => exact yields_pure h
  | cons b t ih => rw [List.foldlM_cons]; exact (hf a b h).bind fun a' ha => ih ha

/-- `l'` has an entry for each entry of `l`, and `R` relates them place by place. -/
def Along (R : α → β → Prop) (l : List α) (l' : List β) : Prop :=
  l'.length = l.length ∧ ∀ (i : Nat) b, l'[i]? = some b → ∃ a, l[i]? = some a ∧ R a b

theorem along_nil {R : α → β → Prop} : Along R [] [] := ⟨rfl, fun _ _ hb => nomatch hb⟩

theorem Along.cons {R : α → β → Prop} {a : α} {b : β} {l : List α} {l' : List β} (hab : R a b) (h : Along R l l') :
    Along R (a :: l) (b :: l') := by
  refine ⟨congrArg (· + 1) h.1, fun i c hc => ?_⟩
  cases i with
  | zero => cases hc; exact ⟨a, rfl, hab⟩
  | succ i => exact h.2 i c hc

theorem yields_mapM {R : α → β → Prop} {f : α → Calc β} (l : List α) (hf : ∀ a, Yields (R a) (f a)) :
    Yields (Along R l) (l.mapM f) := by
  induction l with
  | nil => exact yields_pure along_nil
  | cons a t ih => rw [List.mapM_cons]; exact (hf a).bind fun b hb => ih.bind fun bs hbs => yields_pure (Along.cons hb hbs)
end

section
variable (c : Cert)

theorem anvVec_yields (d : Dev) (fm pt a n : Nat) : Yields (fun xs => xs.length = n) (anvVec d c fm pt a n) :=
  (yields_mapM (R := fun _ _ => True) (upto n) fun _ => yields_any _).mono fun _ hxs => hxs.1.trans List.length_range

theorem length_flatMap_bytesOf (k : Nat) (l : List Nat) : (l.flatMap (bytesOf k)).length = l.length * k := by
  induction l with
  | nil => rw [List.flatMap_nil, List.length_nil, List.length_nil, Nat.zero_mul]
  | cons v t ih => rw [List.flatMap_cons, List.length_append, ih, length_bytesOf, List.length_cons, Nat.succ_mul, Nat.add_comm]

theorem anvBytes_yields (fo rnd : Nat) (xs : List Dy) : Yields (fun bs => bs.length = xs.length * esz fo) (anvBytes fo rnd xs) :=
  (yields_mapM (R := fun _ _ => True) xs fun _ => yields_any _).bind fun cs hcs =>
    yields_pure (by rw [length_flatMap_bytesOf, hcs.1])

theorem solveBand_yields (n b : Nat) (aux : Bool) (a : List (List Dy)) (r g : List Dy) :
    Yields (fun x => x.length = n) (solveBand c n b aux a r g) :=
  (yields_any _).bind fun _ _ => (yields_any _).bind fun _ _ =>
    yields_foldlM _ List.length_replicate fun _ _ hx => (yields_any _).bind fun _ _ => (yields_any _).bind fun _ _ =>
      yields_pure (List.length_set.trans hx)

theorem solveBand_bytes {fo rnd n b : Nat} {aux : Bool} {a : List (List Dy)} {r g : List Dy} :
    Yields (fun bs => bs.length = n * esz fo) (solveBand c n b aux a r g >>= fun z => anvBytes fo rnd z) :=
  (solveBand_yields c n b aux a r g).bind fun z hz => hz ▸ anvBytes_yields fo rnd z

theorem iterStart_yields {method : Nat} (hm : method < 2) (n b : Nat) (a : List (List Dy)) (r x : List Dy) :
    Yields (fun s => s.x.length = x.length) (iterStart c method n b a r x) := by
  rw [iterStart, if_neg (by omega)]
  exact yields_pure rfl

theorem iterStep_yields {method : Nat} (hm : method < 2) (n b k : Nat) (a : List (List Dy)) (r : List Dy) (s : Iter) :
    Yields (fun z => z.x.length = s.x.length) (iterStep c method n b k a r s) := by
  rw [iterStep, if_neg (by omega)]
  refine (yields_foldlM (P := fun z => z.length = s.x.length) _ rfl fun z i hz => ?_).bind fun z hz => yields_pure hz
  exact (yields_any _).bind fun _ _ => (yields_any _).bind fun _ _ => (yields_any _).bind fun _ _ => (yields_any _).bind fun _ _ =>
    yields_pure (List.length_set.trans hz)

theorem iterations_bytes {method : Nat} (hm : method < 2) {fo rnd n b k : Nat} {a : List (List Dy)} {r x : List Dy} (hx : x.length = n) :
    Yields (fun z : List Byte × Iter => z.1.length = n * esz fo) (iterStart c method n b a r x >>= fun s0 =>
      (upto k).foldlM (fun z i => iterStep c method n b i a r z) s0 >>= fun z => anvBytes fo rnd z.x >>= fun bs => pure (bs, z)) :=
  (iterStart_yields c hm n b a r x).bind fun s0 hs0 =>
    (yields_foldlM (P := fun z : Iter => z.x.length = n) _ (hs0.trans hx) fun z i hz =>
      (iterStep_yields c hm n b i a r z).mono fun _ h => h.trans hz).bind fun z hz =>
    (anvBytes_yields fo rnd z.x).bind fun bs hbs => yields_pure (hbs.trans (by rw [hz]))

theorem facSolve_yields (n : Nat) (chol : Bool) (m : List (List Dy)) (q r : List Dy) :
    Yields (fun x => x.length = n) (facSolve c n chol m q r) :=
  (yields_any _).bind fun _ _ => yields_foldlM _ List.length_replicate fun _ _ hx =>
    (yields_any _).bind fun _ _ => (yields_any _).bind fun _ _ => yields_pure (List.length_set.trans hx)
end

/-! A batch that meets no bad line. -/

/-- A batch that has met no bad line, has finished `n` units, and has written bytes of `M` alone. -/
structure Batch.Sound (M : Nat → Prop) (d : Dev) (n : Nat) (y : Batch) : Prop where
  stores : Stores M d y.d
  mem : y.mem = 0
  good : y.good = n

theorem length_infoBytes (i : Info) : i.bytes.length = 8 := by simp [Info.bytes, length_bytesOf]

section
variable {M : Nat → Prop} {d : Dev} {n : Nat} {y : Batch}

/-- The record of a unit that stored its results. -/
theorem Batch.Sound.record (h : y.Sound M d n) {e : Dev} (he : Stores M d e) (r : Req) {info s : Nat} (i : Info)
    (hM : ∀ a, info + 8 * s ≤ a → a < info + 8 * s + 8 → M a) : (Batch.record r info s i { y with d := e }).Sound M d n := by
  obtain ⟨hs, hn⟩ := he.writeSkip (r := r) (a := info + 8 * s) (bs := i.bytes) (by rwa [length_infoBytes])
  exact ⟨hs, by simp only [Batch.record, hn, h.mem], h.good⟩

theorem Batch.Sound.done (h : y.Sound M d n) : Batch.Sound M d (n + 1) { y with good := y.good + 1 } :=
  ⟨h.stores, h.mem, congrArg (· + 1) h.good⟩

theorem Batch.Sound.status (h : y.Sound M d n) : y.status 0 = 0 ∨ y.status 0 = 7 ∨ y.status 0 = 8 := by
  simp only [Batch.status, h.mem, ne_eq, not_true_eq_false, if_false]
  split
  · exact .inr (.inr rfl)
  · split
    · exact .inr (.inl rfl)
    · exact .inl rfl
end

/-! SOLVE (R211). -/

/-- The bytes of the results of a SOLVE or ITERATE and of its info entries. -/
def Slv.Written (x : Slv) (a : Nat) : Prop :=
  (∃ i, i < x.nsys ∧ x.x + i * x.sv ≤ a ∧ a < x.x + i * x.sv + x.n * esz x.ofmt) ∨ (x.info ≤ a ∧ a < x.info + 8 * x.nsys)

section
variable {d : Dev} {x : Slv} {y : Batch} {n s : Nat}

/-- A system's results and its record. -/
theorem Slv.system_sound (hs : s < x.nsys) (hy : y.Sound x.Written d n) (r : Req) {bs : List Byte}
    (hbs : bs.length = x.n * esz x.ofmt) (i : Info) :
    (Batch.record r x.info s i { y with d := memWrite r (x.x + s * x.sv) bs y.d }).Sound x.Written d n :=
  hy.record (hy.stores.memWrite fun _ h1 h2 => .inl ⟨s, hs, h1, hbs ▸ h2⟩) r i fun _ h1 h2 => .inr ⟨by omega, by omega⟩

theorem solveRun_sound (r : Req) (k : Nat) (hk : s + k ≤ x.nsys) (hy : y.Sound x.Written d s) :
    (solveRun r x k s y).Sound x.Written d (s + k) := by
  induction k generalizing s y with
  | zero => exact hy
  | succ k ih =>
    rw [solveRun]
    simp only [Slv.sysErr, spanErr_of_goodLines hy.stores.lines, correctSpans_of_none hy.stores.weak]
    rw [show s + (k + 1) = s + 1 + k by omega]
    refine ih (by omega) (Batch.Sound.done (Slv.system_sound (by omega) hy r ?_ _))
    exact Yields.bind (yields_any _) (fun a _ => (yields_any _).bind fun rv _ => yields_ite
      (fun _ => (yields_any _).bind fun g _ => solveBand_bytes x.c)
      fun _ => (yields_any _).bind fun g _ => solveBand_bytes x.c) Info.none

/-- A SOLVE that no ABORT stops, that may touch its regions and meets no bad line performs all its systems. -/
theorem solve_eq {f : Flight} (hx : slvOf f.q f.head f.cont = x) (hstop : f.stop = 0) (hd : Stores x.Written d d)
    (hok : ∀ r ∈ x.regions 0x40, badRange d true r.1 r.2 = none) :
    ∃ y : Batch, y.Sound x.Written d x.nsys ∧ solve f d = finish f.q f.seq (y.status 0) 0 x.nsys y.d := by
  have hy := solveRun_sound (anvilReq f) (y := ⟨d, false, false, 0, 0⟩) (s := 0) x.nsys (Nat.le_of_eq (Nat.zero_add _)) ⟨hd, rfl, rfl⟩
  rw [Nat.zero_add] at hy
  refine ⟨_, hy, ?_⟩
  simp only [solve, hx]
  split
  · next he => exact nomatch he.symm.trans (List.findSome?_eq_none_iff.mpr hok)
  · simp only [unitsDone, if_pos hstop, hy.good, hy.mem, Nat.lt_irrefl, if_false, if_true]

/-! ITERATE (R217). -/

theorem iterSys_sound (r : Req) (k : Nat) (hm : x.method < 2) (hs : s < x.nsys) (hy : y.Sound x.Written d n) :
    (iterSys r x k s y).Sound x.Written d n := by
  simp only [iterSys, Slv.sysErr, spanErr_of_goodLines hy.stores.lines, correctSpans_of_none hy.stores.weak,
    if_neg (show ¬ x.method = 2 by omega)]
  refine Slv.system_sound hs hy r ?_ _
  exact Yields.bind (yields_any _) (fun a _ => (yields_any _).bind fun rv _ => yields_ite
    (fun _ => (anvVec_yields x.c _ _ _ _ _).bind fun x0 hx0 => iterations_bytes x.c hm hx0)
    fun _ => (yields_pure (P := fun x0 : List Dy => x0.length = x.n) List.length_replicate).bind fun x0 hx0 =>
      iterations_bytes x.c hm hx0) Info.none

theorem iterFit_whole (hopt : x.opt6 = false) (f : Flight) : iterFit f x d = x.iters := by
  simp [iterFit, hopt]

/-- An ITERATE that no ABORT stops, that may touch its regions and meets no bad line performs all its iterations on every system. -/
theorem iterate_eq {f : Flight} (hx : slvOf f.q f.head f.cont = x) (hstop : f.stop = 0) (hd : Stores x.Written d d)
    (hopt : x.opt6 = false) (hm : x.method < 2) (hok : ∀ r ∈ x.regions 0x42, badRange d true r.1 r.2 = none) :
    ∃ y : Batch, y.Sound x.Written d 0 ∧ iterate f d = finish f.q f.seq (y.status 0) 0 x.iters y.d := by
  have hbad : ((upto x.nsys).any fun s => (x.sysErr d 0x42 s).isSome) = false := by
    simp [Slv.sysErr, spanErr_of_goodLines hd.lines]
  have hy : Batch.Sound x.Written d 0 ((upto x.nsys).foldl (fun y s => iterSys (anvilReq f) x x.iters s y) ⟨d, false, false, 0, 0⟩) :=
    List.foldlRecOn _ _ ⟨hd, rfl, rfl⟩ fun y hy s hs => iterSys_sound _ _ hm (List.mem_range.mp hs) hy
  refine ⟨_, hy, ?_⟩
  simp only [iterate, hx]
  split
  · next he => exact nomatch he.symm.trans (List.findSome?_eq_none_iff.mpr hok)
  · simp [unitsDone, hstop, iterFit_whole hopt, hbad]

end

/-! FACTOR (R214). -/

/-- The bytes of the factors and solutions of a FACTOR and of its info entries. -/
def Fac.Written (x : Fac) (a : Nat) : Prop :=
  (∃ i j, i < x.nmat ∧ j < x.n ∧ x.f + i * x.sm + j * x.lda ≤ a ∧ a < x.f + i * x.sm + j * x.lda + x.cols j * esz x.ofmt) ∨
    (∃ i v, i < x.nmat ∧ v < x.nrhs ∧ x.x + i * x.sv + v * x.rowv (esz x.ofmt) ≤ a ∧
      a < x.x + i * x.sv + v * x.rowv (esz x.ofmt) + x.n * esz x.ofmt) ∨
    (x.info ≤ a ∧ a < x.info + 8 * x.nmat)

/-- Bytes of the rows of a factorisation and of the solutions, each no longer than its place. -/
def Fac.Fits (x : Fac) (z : List (List Byte) × List (List Byte)) : Prop :=
  (∀ i b, z.1[i]? = some b → i < x.n ∧ b.length ≤ x.cols i * esz x.ofmt) ∧
    ∀ v b, z.2[v]? = some b → v < x.nrhs ∧ b.length ≤ x.n * esz x.ofmt

theorem Fac.results_fit (x : Fac) {m : List (List Dy)} {q : List Dy} {rs : List (List Dy)} (hrs : rs.length = x.nrhs) :
    Yields x.Fits ((rs.mapM fun r => facSolve x.c x.n x.chol m q r) >>= fun xs =>
      ((upto x.n).mapM fun i => anvBytes x.ofmt x.rnd ((m.getD i []).take (x.cols i))) >>= fun fb =>
        xs.mapM (anvBytes x.ofmt x.rnd) >>= fun xb => pure (fb, xb)) := by
  refine (yields_mapM rs fun r => facSolve_yields x.c x.n x.chol m q r).bind fun xs hxs =>
    (yields_mapM (upto x.n) fun i => anvBytes_yields x.ofmt x.rnd ((m.getD i []).take (x.cols i))).bind fun fb hfb =>
      (yields_mapM xs fun v => anvBytes_yields x.ofmt x.rnd v).bind fun xb hxb => yields_pure ⟨fun i b hb => ?_, fun v b hb => ?_⟩
  · obtain ⟨j, hj, hlen⟩ := hfb.2 i b hb
    obtain ⟨hi, rfl⟩ : i < x.n ∧ i = j := by simpa [upto, List.getElem?_eq_some_iff] using hj
    rw [hlen, List.length_take]
    exact ⟨hi, Nat.mul_le_mul_right _ (Nat.min_le_left ..)⟩
  · obtain ⟨sol, hsol, hlen⟩ := hxb.2 v b hb
    obtain ⟨r, hr, hsl⟩ := hxs.2 v sol hsol
    obtain ⟨hv, _⟩ := List.getElem?_eq_some_iff.mp hr
    exact ⟨hrs ▸ hv, Nat.le_of_eq (by rw [hlen, hsl])⟩

section
variable {d e : Dev} {x : Fac} {y : Batch} {n s : Nat}

/-- The rows of a factorisation and the solutions are stored in their places. -/
theorem Stores.factorisation (h : Stores x.Written d e) (hs : s < x.nmat) {z : List (List Byte) × List (List Byte)} (hz : x.Fits z)
    {r : Req} : Stores x.Written d (z.2.zipIdx.foldl (fun d b => Machine.memWrite r (x.x + s * x.sv + b.2 * x.rowv (esz x.ofmt)) b.1 d)
      (z.1.zipIdx.foldl (fun d b => Machine.memWrite r (x.f + s * x.sm + b.2 * x.lda) b.1 d) e)) := by
  refine Stores.foldl_memWrite (addr := fun v => x.x + s * x.sv + v * x.rowv (esz x.ofmt)) (Stores.foldl_memWrite
    (addr := fun i => x.f + s * x.sm + i * x.lda) h fun i b hb a h1 h2 => ?_) fun v b hb a h1 h2 => ?_
  · obtain ⟨hi, hlen⟩ := hz.1 i b hb
    exact .inl ⟨s, i, hs, hi, h1, by omega⟩
  · obtain ⟨hv, hlen⟩ := hz.2 v b hb
    exact .inr (.inl ⟨s, v, hs, hv, h1, by omega⟩)

theorem facMat_sound (r : Req) (hs : s < x.nmat) (hy : y.Sound x.Written d n) : (facMat r x s y).Sound x.Written d (n + 1) := by
  simp only [facMat, Fac.matErr, spanErr_of_goodLines hy.stores.lines, correctSpans_of_none hy.stores.weak]
  refine Batch.Sound.done (hy.record (hy.stores.factorisation hs ?_) r _ fun a h1 h2 => .inr (.inr ⟨by omega, by omega⟩))
  exact Yields.bind (yields_any _) (fun a _ => (yields_mapM _ fun v => yields_any _).bind fun rs hrs => yields_ite
    (fun _ => (yields_any _).bind fun m _ => x.results_fit (hrs.1.trans List.length_range))
    fun _ => (yields_any _).bind fun m _ => x.results_fit (hrs.1.trans List.length_range)) Info.none

/-- A FACTOR that may touch its regions and meets no bad line performs all its matrices. -/
theorem factor_eq {f : Flight} (hx : facOf f.q f.head f.cont = x) (hd : Stores x.Written d d)
    (hok : ∀ r ∈ x.regions, badRange d true r.1 r.2 = none) :
    ∃ y : Batch, y.Sound x.Written d x.nmat ∧ factor f d = finish f.q f.seq (y.status 0) 0 x.nmat y.d := by
  have hy : ∀ n ≤ x.nmat, Batch.Sound x.Written d n
      ((upto n).foldl (fun y s => facMat (anvilReq f) x s y) ⟨d, false, false, 0, 0⟩) := by
    intro n hn
    induction n with
    | zero => exact ⟨hd, rfl, rfl⟩
    | succ n ih =>
      rw [upto, List.range_succ, List.foldl_append]
      exact facMat_sound _ hn (ih (by omega))
  refine ⟨_, hy _ (Nat.le_refl _), ?_⟩
  simp only [factor, hx]
  split
  · next he => exact nomatch he.symm.trans (List.findSome?_eq_none_iff.mpr hok)
  · rw [(hy _ (Nat.le_refl _)).good]
end

/-! The end of a command. -/

/-- The command ends with all its `n` units done, having written bytes of `M` alone. -/
def AnvilEnds (s : State) (q seq : Nat) (f : Flight) (c : Instr) (n : Nat) (M : Nat → Prop) : Prop :=
  ∃ t st, exec c s = .next t ∧ t.pending = s.pending ∧ findFlight t.dev q seq = some (f.finish st 0 n) ∧
    (st = 0 ∨ st = 7 ∨ st = 8) ∧ RegsKept (fun _ => False) s.dev t.dev ∧ MemKept M s.dev t.dev

theorem anvilEnds_of_sound {s : State} {op : Nat} {f : Flight} {c : Instr} {body : Flight → Dev → Dev} {n g : Nat} {M : Nat → Prop}
    {y : Batch} (hx : exec c s = onDev s (withFlight op f.q f.seq body)) (hf : Served s.dev op f.q f.seq f) (hy : y.Sound M s.dev g)
    (hbody : body f s.dev = finish f.q f.seq (y.status 0) 0 n y.d) : AnvilEnds s f.q f.seq f c n M := by
  have hend : Formed (body f s.dev) := by rw [hbody]; exact formed_finish hy.stores.touches.formed
  have hfind : findFlight y.d f.q f.seq = some f := by
    rw [← hf.1]; exact congrArg (List.find? fun g : Flight => g.is f.q f.seq) hy.stores.flights
  refine ⟨_, y.status 0, hx.trans (served_next body hf hend), rfl, ?_, hy.status, ?_, ?_⟩
  · rw [hbody]; exact findFlight_finish hfind _ 0 n
  · rw [hbody]; exact hy.stores.touches.regs
  · rw [hbody]; exact hy.stores.touches.mem

/-! Rounding and replaced pivots (R202, R204, R205). -/

theorem clampInt64_eq (z : Int) : clampInt 64 true z =
    if z < -2 ^ 63 then (-2 ^ 63, true) else if 2 ^ 63 - 1 < z then (2 ^ 63 - 1, true) else (z, false) := rfl

/-- A clamped value is below its range and becomes the least, above it and becomes the greatest, or stays. -/
theorem clampInt64_cases (z : Int) : (z < -2 ^ 63 ∧ clampInt 64 true z = (-2 ^ 63, true)) ∨
    (2 ^ 63 - 1 < z ∧ clampInt 64 true z = (2 ^ 63 - 1, true)) ∨
    (-2 ^ 63 ≤ z ∧ z ≤ 2 ^ 63 - 1 ∧ clampInt 64 true z = (z, false)) := by
  rw [clampInt64_eq]
  by_cases hlo : z < -2 ^ 63
  · exact .inl ⟨hlo, if_pos hlo⟩
  · rw [if_neg hlo]
    by_cases hhi : 2 ^ 63 - 1 < z
    · exact .inr (.inl ⟨hhi, if_pos hhi⟩)
    · exact .inr (.inr ⟨by omega, by omega, if_neg hhi⟩)

theorem clampInt64_changed (z : Int) : (clampInt 64 true z).2 = ((clampInt 64 true z).1 != z) := by
  rcases clampInt64_cases z with ⟨h, he⟩ | ⟨h, he⟩ | ⟨_, _, he⟩
  · rw [he]; exact (bne_iff_ne.mpr (by omega)).symm
  · rw [he]; exact (bne_iff_ne.mpr (by omega)).symm
  · rw [he]; exact (bne_self_eq_false z).symm

theorem clampInt64_bounds (z : Int) : -2 ^ 63 ≤ (clampInt 64 true z).1 ∧ (clampInt 64 true z).1 < 2 ^ 63 := by
  rcases clampInt64_cases z with ⟨_, he⟩ | ⟨_, he⟩ | ⟨hlo, hhi, he⟩
  · rw [he]; exact ⟨by omega, by omega⟩
  · rw [he]; exact ⟨by omega, by omega⟩
  · rw [he]; exact ⟨hlo, by omega⟩

theorem clampInt64_of_mem {z : Int} (hlo : -2 ^ 63 ≤ z) (hhi : z < 2 ^ 63) : (clampInt 64 true z).1 = z := by
  rw [clampInt64_eq, if_neg (by omega), if_neg (by omega)]

/-- Rounding chooses the integer below the exact quotient, or the one above where a bit was discarded. -/
theorem shiftRound_cases (code : Nat) (x : Int) (sh : Nat) :
    shiftRound code x sh = x / 2 ^ sh ∨ x % 2 ^ sh ≠ 0 ∧ shiftRound code x sh = x / 2 ^ sh + 1 := by
  have hchoice : ∀ (p : Prop) [Decidable p], (if p then x / 2 ^ sh + 1 else x / 2 ^ sh) = x / 2 ^ sh ∨
      (if p then x / 2 ^ sh + 1 else x / 2 ^ sh) = x / 2 ^ sh + 1 := fun p _ => by
    by_cases hp : p
    · exact .inr (if_pos hp)
    · exact .inl (if_neg hp)
  simp only [shiftRound]
  split
  · exact .inl rfl
  · next hr =>
    refine (?_ : _ ∨ _).imp_right fun hup => ⟨fun hrest => hr (by rw [hrest]; rfl), hup⟩
    split
    · exact hchoice _
    · split
      · exact hchoice _
      · split
        · exact .inl rfl
        · exact hchoice _

theorem shiftRound_near (code : Nat) (x : Int) (sh : Nat) : (shiftRound code x sh * 2 ^ sh - x).natAbs < 2 ^ sh := by
  have hpos : (0 : Int) < 2 ^ sh := Int.pow_pos (by decide)
  have hdiv : x / 2 ^ sh * 2 ^ sh + x % 2 ^ sh = x := Int.ediv_mul_add_emod x _
  have hlt : x % 2 ^ sh < 2 ^ sh := Int.emod_lt_of_pos x hpos
  have hge : 0 ≤ x % 2 ^ sh := Int.emod_nonneg x (Int.ne_of_gt hpos)
  have hcast : ((2 ^ sh : Nat) : Int) = 2 ^ sh := Int.natCast_pow 2 sh
  rcases shiftRound_cases code x sh with h | ⟨hrest, h⟩
  · rw [h]; omega
  · rw [h, Int.add_mul, Int.one_mul]; omega

/-- A value moved to point `f` is less than one unit of that point away. -/
theorem rePoint_near (code : Nat) (x : Int) (p f : Nat) : ((rePoint code x p f).1 * 2 ^ p - x * 2 ^ f).natAbs < 2 ^ p := by
  rw [rePoint]
  split
  · next h =>
    have hexact : x * 2 ^ (f - p) * 2 ^ p - x * 2 ^ f = 0 := by
      rw [Int.mul_assoc, ← Int.pow_add, Nat.sub_add_cancel h, Int.sub_self]
    rw [hexact]; exact Nat.two_pow_pos p
  · next h =>
    have hsplit : p - f + f = p := Nat.sub_add_cancel (by omega)
    have hpow : (2 : Int) ^ p = 2 ^ (p - f) * 2 ^ f := by rw [← Int.pow_add, hsplit]
    calc (shiftRound code x (p - f) * 2 ^ p - x * 2 ^ f).natAbs
        = (shiftRound code x (p - f) * 2 ^ (p - f) - x).natAbs * 2 ^ f := by
          rw [hpow, ← Int.mul_assoc, ← Int.sub_mul, Int.natAbs_mul, Int.natAbs_pow]; rfl
      _ < 2 ^ (p - f) * 2 ^ f := (Nat.mul_lt_mul_right (Nat.two_pow_pos f)).mpr (shiftRound_near ..)
      _ = 2 ^ p := by rw [← Nat.pow_add, hsplit]

/-- A value well inside the 64-bit range at point `f` is rounded into that range. -/
theorem rePoint_mem {code : Nat} {x : Int} {p f : Nat} (hlo : -(2 ^ 62 : Int) * 2 ^ p ≤ x * 2 ^ f)
    (hhi : x * 2 ^ f ≤ (2 ^ 62 : Int) * 2 ^ p) : -2 ^ 63 ≤ (rePoint code x p f).1 ∧ (rePoint code x p f).1 < 2 ^ 63 := by
  have hpos : (0 : Int) < 2 ^ p := Int.pow_pos (by decide)
  have hcast : ((2 ^ p : Nat) : Int) = 2 ^ p := Int.natCast_pow 2 p
  have hnear := rePoint_near code x p f
  have hmin : (-(2 ^ 62 : Int) - 1) * 2 ^ p < (rePoint code x p f).1 * 2 ^ p := by
    rw [Int.sub_mul, Int.one_mul]; omega
  have hmax : (rePoint code x p f).1 * 2 ^ p < ((2 ^ 62 : Int) + 1) * 2 ^ p := by
    rw [Int.add_mul, Int.one_mul]; omega
  have hmin := Int.lt_of_mul_lt_mul_right hmin (Int.le_of_lt hpos)
  have hmax := Int.lt_of_mul_lt_mul_right hmax (Int.le_of_lt hpos)
  exact ⟨by omega, by omega⟩

theorem fxp_run (c : Cert) (f : Nat) (x : Dy) (i : Info) :
    (fxp c f x).run i = (⟨(clampInt 64 true (rePoint c.xrnd x.v x.p f).1).1, f⟩,
      { i with sat := i.sat || ((clampInt 64 true (rePoint c.xrnd x.v x.p f).1).1 != (rePoint c.xrnd x.v x.p f).1) }) := by
  rw [← clampInt64_changed]; rfl

/-- An assignment of a value well inside the 64-bit range is less than one unit of its point away. -/
theorem fxp_near (c : Cert) {f : Nat} {x : Dy} (hlo : -(2 ^ 62 : Int) * 2 ^ x.p ≤ x.v * 2 ^ f)
    (hhi : x.v * 2 ^ f ≤ (2 ^ 62 : Int) * 2 ^ x.p) :
    ((clampInt 64 true (rePoint c.xrnd x.v x.p f).1).1 * 2 ^ x.p - x.v * 2 ^ f).natAbs < 2 ^ x.p := by
  obtain ⟨hmin, hmax⟩ := rePoint_mem (code := c.xrnd) hlo hhi
  rw [clampInt64_of_mem hmin hmax]
  exact rePoint_near c.xrnd x.v x.p f

theorem dyLt_of_point {a b : Dy} (h : a.p = b.p) : a.lt b = decide (a.v < b.v) := by
  simp only [Dy.lt, Dy.sub, Dy.add, Dy.neg, h, Nat.max_self, Nat.sub_self, Int.pow_zero, Int.mul_one, decide_eq_decide]
  omega

/-- The record of a system after one more replaced pivot, at index `k`. -/
def Info.replaced (i : Info) (k : Nat) : Info := { i with cnt := i.cnt + 1, first := some (i.first.getD k) }

/-- Whether a pivot is replaced: below τ under the rule of Cholesky and CG (`pos`), below τ in magnitude under the other (R204). -/
def Cert.replaces (c : Cert) (pos : Bool) (p : Dy) : Bool := if pos then p.lt c.tau else p.lt c.tau && c.tau.neg.lt p

theorem reg_run (c : Cert) (pos : Bool) (k : Nat) (p : Dy) (i : Info) : (reg c pos true k p).run i =
    if c.replaces pos p then (if !pos && decide (p.v < 0) then c.tau.neg else c.tau, i.replaced k) else (p, i) := by
  cases h : c.replaces pos p
  all_goals
    simp only [Cert.replaces] at h
    simp only [reg, h]
    rfl

section
variable {c : Cert} {v : Int} (htau : c.tau.p = c.fu)
include htau

theorem Cert.replaces_positive : c.replaces true ⟨v, c.fu⟩ = decide (v < c.tau.v) := dyLt_of_point htau.symm

theorem Cert.replaces_signed : c.replaces false ⟨v, c.fu⟩ = decide (v < c.tau.v ∧ -c.tau.v < v) := by
  have hbelow : (⟨v, c.fu⟩ : Dy).lt c.tau = decide (v < c.tau.v) := dyLt_of_point htau.symm
  have habove : c.tau.neg.lt ⟨v, c.fu⟩ = decide (-c.tau.v < v) := dyLt_of_point (a := c.tau.neg) (b := ⟨v, c.fu⟩) htau
  rw [Bool.decide_and, ← hbelow, ← habove]; rfl

theorem reg_signed_keeps (h : c.tau.v ≤ v ∨ v ≤ -c.tau.v) (k : Nat) (i : Info) :
    (reg c false true k ⟨v, c.fu⟩).run i = (⟨v, c.fu⟩, i) := by
  rw [reg_run, Cert.replaces_signed htau, decide_eq_false (by omega)]; rfl

theorem reg_signed_replaces (hlo : -c.tau.v < v) (hhi : v < c.tau.v) (k : Nat) (i : Info) :
    (reg c false true k ⟨v, c.fu⟩).run i = (if v < 0 then ⟨-c.tau.v, c.fu⟩ else c.tau, i.replaced k) := by
  rw [reg_run, Cert.replaces_signed htau, decide_eq_true ⟨hhi, hlo⟩, Dy.neg, htau]
  simp

theorem reg_positive_keeps (h : c.tau.v ≤ v) (k : Nat) (i : Info) : (reg c true true k ⟨v, c.fu⟩).run i = (⟨v, c.fu⟩, i) := by
  rw [reg_run, Cert.replaces_positive htau, decide_eq_false (by omega)]; rfl

theorem reg_positive_replaces (h : v < c.tau.v) (k : Nat) (i : Info) :
    (reg c true true k ⟨v, c.fu⟩).run i = (c.tau, i.replaced k) := by
  rw [reg_run, Cert.replaces_positive htau, decide_eq_true h]; rfl
end

/-- Settles O29: the three commands store their results and records one unit after the other, none of which meets a bad line; an
assignment is a rounded shift clamped to 64 bits, and `reg` compares a pivot with τ at τ's own point. -/
theorem anvilCompletes : Obligations.AnvilCompletes := by
  refine ⟨fun s q seq f hs hstop hholds hlines hweak => ?_, fun c f x i => ?_, fun c k v i htau hpos => ?_⟩
  · have hstores : ∀ M, Stores M s.dev s.dev := fun M => ⟨Touches.refl hs, rfl, hholds, hlines, hweak⟩
    refine ⟨fun x hf hx hok => ?_, fun x hf hx hok hopt hm => ?_, fun x hf hx hok => ?_⟩
    all_goals obtain ⟨rfl, rfl⟩ := hf.names
    · obtain ⟨y, hy, hbody⟩ := solve_eq hx hstop (hstores _) hok
      exact anvilEnds_of_sound rfl hf hy hbody
    · obtain ⟨y, hy, hbody⟩ := iterate_eq hx hstop (hstores _) hopt hm hok
      exact anvilEnds_of_sound rfl hf hy hbody
    · obtain ⟨y, hy, hbody⟩ := factor_eq hx (hstores _) hok
      exact anvilEnds_of_sound rfl hf hy hbody
  · exact ⟨_, fxp_run c f x i, (clampInt64_bounds _).1, (clampInt64_bounds _).2, fxp_near c⟩
  · refine ⟨fun h => ⟨reg_signed_keeps htau (.inl h) k i, reg_positive_keeps htau h k i⟩,
      fun h => ⟨reg_signed_keeps htau (.inr h) k i, reg_positive_replaces htau (by omega) k i⟩,
      fun hlo hneg => ⟨?_, reg_positive_replaces htau (by omega) k i⟩,
      fun hge hhi => ⟨?_, reg_positive_replaces htau hhi k i⟩⟩
    · rw [reg_signed_replaces htau hlo (by omega), if_pos hneg]; rfl
    · rw [reg_signed_replaces htau (by omega) hhi, if_neg (by omega)]; rfl

end Sys2Proof.Machine
end
